-- ==== Sys2Proof/Word.lean ====
section
/-! DEFINITION. The 64-bit register word, the byte, and the plainest arithmetic on them (R2, R3, R7, R72). -/

namespace Sys2Proof

/-- A general register's value (64 bits, R60's register table). -/
abbrev Word := BitVec 64

/-- A byte of memory (R3). -/
abbrev Byte := BitVec 8

/-- A vector register's 64 bytes (R265: byte 0 is bits [7:0]). -/
abbrev Vec := BitVec 512

/-- Sign extension of a field to a word (R55: immediates and offsets are sign-extended). -/
abbrev sx {n : Nat} (x : BitVec n) : Word := x.signExtend 64

/-- Zero extension of a field to a word. -/
abbrev zx {n : Nat} (x : BitVec n) : Word := x.setWidth 64

/-- `sx32(x)` of R72: bits [31:0] sign-extended. -/
def sx32 (x : Word) : Word := (x.setWidth 32).signExtend 64

/-- One bit of a word as a 0 or 1 in the low bit. -/
def bit (b : Bool) : Word := if b then 1#64 else 0#64

/-- Bits [lo+n-1:lo] of a word, as a number. -/
def field {w : Nat} (x : BitVec w) (lo n : Nat) : Nat := (x.extractLsb' lo n).toNat

/-- A number placed at bit `lo` of a word (the caller keeps it in its field). -/
def place (v lo : Nat) : Word := BitVec.ofNat 64 v <<< lo

/-- The little-endian bytes of a number, lowest first (R2). -/
def leBytes : Nat → Nat → List Byte
  | 0, _ => []
  | n + 1, v => BitVec.ofNat 8 v :: leBytes n (v / 256)

/-- The number whose little-endian bytes are given (R2). -/
def ofLeBytes : List Byte → Nat
  | [] => 0
  | b :: bs => b.toNat + 256 * ofLeBytes bs

end Sys2Proof
end

