-- ==== Sys2Proof/Syntax.lean ====
section
/-! DEFINITION. The whole syntax: one constructor of `Instr` per row of spec/opcode_table.json.
A row with an encoding carries that encoding's fields, lowest bits first; a row without one (a matrix command or
an event of the machine) carries what says which core, thread, engine or outside input it concerns. -/

namespace Sys2Proof

/-- What a router drops (R318's table). -/
inductive DropKind where
  | request | reply | bufferWrite | message | streamWord | posted | transferWord | background
deriving DecidableEq, Repr

/-- The host's PCIe AtomicOps (R366). -/
inductive HostOp where
  | fetchAdd | swap | cas
deriving DecidableEq, Repr

/-- The public keys of a signer (R371): the RSA modulus and exponent, and the SLH-DSA key in its 32-byte encoding. -/
structure SignKeys where
  modulus : Nat
  exponent : Nat
  slh : List Byte
deriving DecidableEq, Repr

/-- What an image, a record or a token carries (R371, R372): the SHA-384 digest that is signed, 48 bytes, and its signatures under
RSASSA-PSS, 384 bytes, and under SLH-DSA, 7,856 bytes. -/
structure Signed where
  digest : List Byte
  rsa : List Byte
  slh : List Byte
deriving DecidableEq, Repr

/-- An image stage of a start (R371, R372). -/
structure Stage where
  /-- image kind and security version, from its signed header -/
  kind : Nat
  version : BitVec 32
  /-- its measurement register -/
  register : Nat
  /-- its SHA-384 digest and the two signatures over it -/
  signed : Signed
  /-- the Rilain keys held in the stage, for those after it -/
  keys : Option SignKeys
deriving DecidableEq, Repr

/-- What the built-in self-test of a site found: sub-banks that fail, and spare rows that it put to use (start step 4). -/
structure SelfTest where
  site : Nat
  bad : List Nat
  spares : List (Nat × Nat)
deriving DecidableEq, Repr

/-- What a start finds (R369 to R375). -/
structure StartRecord where
  /-- the stages in the order in which they run (R371) -/
  stages : List Stage
  /-- the stored training records (R369) -/
  training : Option Signed
  /-- the stored repair map: its signatures and its hash (R372, start step 4) -/
  repairMap : Option Signed
  /-- the manufacturing record (R375) -/
  manufacturing : Option Signed
  /-- the self-tests of the sites, where step 4 is not skipped -/
  tests : List SelfTest
  /-- the fresh nonce of this start, for debug tokens (R375) -/
  nonce : List Byte
deriving DecidableEq, Repr

/-- What a configuration record holds beside its minimum versions: the IEEE 1588 domain and the key of cap frames (R381, R382). -/
structure RecordSettings where
  domain : Nat
  capKey : List Byte
deriving DecidableEq, Repr

/-- A debug token: the identity and the nonce that it is bound to, the debug levels and the owners that it names (R375). -/
structure DebugToken where
  signed : Signed
  identity : List Byte
  nonce : List Byte
  trace : Bool
  halt : Bool
  owners : List Nat
deriving DecidableEq, Repr

/-- A message of the end-to-end delay mechanism of IEEE 1588, with its time stamp in ns, or the slave's own request (R381). -/
inductive PtpBody where
  /-- Sync: a one-step master gives the origin here, a two-step master in the follow-up -/
  | sync (origin : Option Nat)
  | followUp (origin : Nat)
  | delayReq
  | delayResp (received : Nat)
deriving DecidableEq, Repr

/-- A message of a domain (R381). -/
structure PtpMessage where
  domain : Nat
  body : PtpBody
deriving DecidableEq, Repr

/-- What a debugger names in a Held context (R376). -/
inductive DebugReg where
  | pc | g (n : Nat) | m (n : Nat) | ix (n : Nat)
  /-- a 64-bit lane of a vector register -/
  | v (n lane : Nat)
  /-- a CSR of the thread -/
  | csr (n : Nat)
deriving DecidableEq, Repr

/-- Registers the control cores write through the management block (R316, R353, R355, R364, R365, R375). -/
inductive MgmtReg where
  | arbw (out : Nat) (value : Word)
  | rotcfg (stack : Nat) (en : Bool) (ivl : BitVec 10)
  | arcdom (owner : Nat) (dom : BitVec 32)
  | module (number : BitVec 8)
  | bar2 (slot : Nat) (owner : Nat) (base : Nat)
  | bar2Unmap (slot : Nat)
  | consent (owner : Nat) (given : Bool)
  | readyRecord
  /-- the trace buffer is read out and flushed (R376, R377) -/
  | traceFlush
  /-- the n-th record of the trace buffer is read (R376) -/
  | traceRead (n : Nat)
deriving DecidableEq, Repr

/-- A position granted to an owner: its stack, which of the stack's eight position contents it is, and the logic
layer, before any step, of the position's first group (R101, R340). -/
structure PosGrant where
  stack : Nat
  pos : Nat
  layer0 : Nat
deriving DecidableEq, Repr

/-- What the control-core system gives an owner it creates (R325, R337, R368). -/
structure OwnerSpec where
  id : Nat
  grants : List PosGrant
  timeShare : Bool
  lscap : Nat
  pgroot : Word
  svroot : Word
  udeleg : Word
  tvec : Word
  loopEntry : Word
  loopWsz : BitVec 2
  loopVsz : BitVec 2
  loopPrio : BitVec 8
deriving DecidableEq, Repr

/-- A registration made on another module (R356). -/
structure Participant where
  dom : Nat
  name : Nat
  index : Nat
  kind : Nat
  len : Nat
  count : Nat
  gather : Bool
deriving DecidableEq, Repr

/-- A post made by another module's participant: its index, op and contribution (R359). -/
structure RemotePost where
  index : Nat
  op : Nat
  bytes : List Byte
deriving DecidableEq, Repr

/-- One constructor per row of spec/opcode_table.json. -/
inductive Instr where
  /-- ADD (R74): Writes a + b, wrapping at 64 bits, to g[rd]. -/
  | add (d : BitVec 6) (a : BitVec 6) (b : BitVec 6)
  /-- SUB (R74): Writes a − b, wrapping, to g[rd]. -/
  | sub (d : BitVec 6) (a : BitVec 6) (b : BitVec 6)
  /-- AND (R74): Writes the bitwise AND of a and b. -/
  | and (d : BitVec 6) (a : BitVec 6) (b : BitVec 6)
  /-- OR (R74): Writes the bitwise OR of a and b. -/
  | or (d : BitVec 6) (a : BitVec 6) (b : BitVec 6)
  /-- XOR (R74): Writes the bitwise XOR of a and b. -/
  | xor (d : BitVec 6) (a : BitVec 6) (b : BitVec 6)
  /-- ANDN (R74): Writes a AND NOT b. -/
  | andn (d : BitVec 6) (a : BitVec 6) (b : BitVec 6)
  /-- ORN (R74): Writes a OR NOT b. -/
  | orn (d : BitVec 6) (a : BitVec 6) (b : BitVec 6)
  /-- XNOR (R74): Writes NOT (a XOR b). -/
  | xnor (d : BitVec 6) (a : BitVec 6) (b : BitVec 6)
  /-- SLL (R74): Shifts a left by b[5:0] with zeros entering. -/
  | sll (d : BitVec 6) (a : BitVec 6) (b : BitVec 6)
  /-- SRL (R74): Shifts a right logically by b[5:0]. -/
  | srl (d : BitVec 6) (a : BitVec 6) (b : BitVec 6)
  /-- SRA (R74): Shifts a right arithmetically by b[5:0]. -/
  | sra (d : BitVec 6) (a : BitVec 6) (b : BitVec 6)
  /-- ROT (R74): Rotates a right by b[5:0]. -/
  | rot (d : BitVec 6) (a : BitVec 6) (b : BitVec 6)
  /-- SLT (R74): Writes 1 when a is signed-less than b, else 0. -/
  | slt (d : BitVec 6) (a : BitVec 6) (b : BitVec 6)
  /-- SLTU (R74): Writes 1 when a is unsigned-less than b, else 0. -/
  | sltu (d : BitVec 6) (a : BitVec 6) (b : BitVec 6)
  /-- MIN (R74): Writes the signed smaller of a and b. -/
  | min (d : BitVec 6) (a : BitVec 6) (b : BitVec 6)
  /-- MAX (R74): Writes the signed larger of a and b. -/
  | max (d : BitVec 6) (a : BitVec 6) (b : BitVec 6)
  /-- MINU (R74): Writes the unsigned smaller of a and b. -/
  | minu (d : BitVec 6) (a : BitVec 6) (b : BitVec 6)
  /-- MAXU (R74): Writes the unsigned larger of a and b. -/
  | maxu (d : BitVec 6) (a : BitVec 6) (b : BitVec 6)
  /-- ADDW (R74): Writes sx32(a + b). -/
  | addw (d : BitVec 6) (a : BitVec 6) (b : BitVec 6)
  /-- SUBW (R74): Writes sx32(a − b). -/
  | subw (d : BitVec 6) (a : BitVec 6) (b : BitVec 6)
  /-- ADDS (R74): Writes the saturated signed sum of a and b. -/
  | adds (d : BitVec 6) (a : BitVec 6) (b : BitVec 6)
  /-- SUBS (R74): Writes the saturated signed difference of a and b. -/
  | subs (d : BitVec 6) (a : BitVec 6) (b : BitVec 6)
  /-- SLLW (R74): Shifts a[31:0] left by b[4:0] and sign-extends. -/
  | sllw (d : BitVec 6) (a : BitVec 6) (b : BitVec 6)
  /-- SRLW (R74): Shifts a[31:0] right logically by b[4:0] and sign-extends. -/
  | srlw (d : BitVec 6) (a : BitVec 6) (b : BitVec 6)
  /-- SRAW (R74): Shifts sx32(a) right arithmetically by b[4:0]. -/
  | sraw (d : BitVec 6) (a : BitVec 6) (b : BitVec 6)
  /-- ADDI (R75): Writes a plus the sign-extended immediate. -/
  | addi (d : BitVec 6) (a : BitVec 6) (i : BitVec 13)
  /-- ANDI (R75): Writes a AND the sign-extended immediate. -/
  | andi (d : BitVec 6) (a : BitVec 6) (i : BitVec 13)
  /-- ORI (R75): Writes a OR the sign-extended immediate. -/
  | ori (d : BitVec 6) (a : BitVec 6) (i : BitVec 13)
  /-- XORI (R75): Writes a XOR the sign-extended immediate. -/
  | xori (d : BitVec 6) (a : BitVec 6) (i : BitVec 13)
  /-- SLLI (R76): Shifts a left by an immediate amount. -/
  | slli (d : BitVec 6) (a : BitVec 6) (h : BitVec 6)
  /-- SRLI (R76): Shifts a right logically by an immediate amount. -/
  | srli (d : BitVec 6) (a : BitVec 6) (h : BitVec 6)
  /-- SRAI (R76): Shifts a right arithmetically by an immediate amount. -/
  | srai (d : BitVec 6) (a : BitVec 6) (h : BitVec 6)
  /-- ROTI (R76): Rotates a right by an immediate amount. -/
  | roti (d : BitVec 6) (a : BitVec 6) (h : BitVec 6)
  /-- SLTI (R75): Writes 1 when a is signed-less than the immediate. -/
  | slti (d : BitVec 6) (a : BitVec 6) (i : BitVec 13)
  /-- SLTIU (R75): Writes 1 when a is unsigned-less than the sign-extended immediate. -/
  | sltiu (d : BitVec 6) (a : BitVec 6) (i : BitVec 13)
  /-- MUL (R77): Writes the low 64 bits of a × b. -/
  | mul (d : BitVec 6) (a : BitVec 6) (b : BitVec 6)
  /-- MULH (R77): Writes the high 64 bits of the signed product. -/
  | mulh (d : BitVec 6) (a : BitVec 6) (b : BitVec 6)
  /-- MULHU (R77): Writes the high 64 bits of the unsigned product. -/
  | mulhu (d : BitVec 6) (a : BitVec 6) (b : BitVec 6)
  /-- MULHM (R77): Writes the high 64 bits of signed a times unsigned b. -/
  | mulhm (d : BitVec 6) (a : BitVec 6) (b : BitVec 6)
  /-- DIV (R77): Writes the signed quotient truncated toward zero, with fixed results for zero and overflow. -/
  | div (d : BitVec 6) (a : BitVec 6) (b : BitVec 6)
  /-- DIVU (R77): Writes the unsigned quotient, all ones for a zero divisor. -/
  | divu (d : BitVec 6) (a : BitVec 6) (b : BitVec 6)
  /-- REM (R77): Writes the signed remainder with the dividend's sign. -/
  | rem (d : BitVec 6) (a : BitVec 6) (b : BitVec 6)
  /-- REMU (R77): Writes the unsigned remainder. -/
  | remu (d : BitVec 6) (a : BitVec 6) (b : BitVec 6)
  /-- MULW (R77): Writes sx32 of the 32-bit product. -/
  | mulw (d : BitVec 6) (a : BitVec 6) (b : BitVec 6)
  /-- DIVW (R77): Writes the sign-extended 32-bit signed quotient. -/
  | divw (d : BitVec 6) (a : BitVec 6) (b : BitVec 6)
  /-- REMW (R77): Writes the sign-extended 32-bit signed remainder. -/
  | remw (d : BitVec 6) (a : BitVec 6) (b : BitVec 6)
  /-- CLZ (R78): Writes the count of leading zero bits of a. -/
  | clz (d : BitVec 6) (a : BitVec 6)
  /-- CTZ (R78): Writes the count of trailing zero bits of a. -/
  | ctz (d : BitVec 6) (a : BitVec 6)
  /-- POPC (R78): Writes the number of 1 bits of a. -/
  | popc (d : BitVec 6) (a : BitVec 6)
  /-- BSWAP (R78): Writes a with its bytes reversed. -/
  | bswap (d : BitVec 6) (a : BitVec 6)
  /-- SEL (R78): Writes a when old g[rd] is nonzero, else b. -/
  | sel (d : BitVec 6) (a : BitVec 6) (b : BitVec 6)
  /-- EXT (R79): Extracts a bit field of a and sign-extends it. -/
  | ext (d : BitVec 6) (a : BitVec 6) (b : BitVec 6)
  /-- EXTU (R79): Extracts a bit field of a and zero-extends it. -/
  | extu (d : BitVec 6) (a : BitVec 6) (b : BitVec 6)
  /-- INS (R79): Inserts low bits of a into a bit field of g[rd]. -/
  | ins (d : BitVec 6) (a : BitVec 6) (b : BitVec 6)
  /-- LUI (R80): Writes the sign-extended imm19 times 2^13. -/
  | lui (d : BitVec 6) (i : BitVec 19)
  /-- ADDPC (R80): Writes PC plus the scaled imm19. -/
  | addpc (d : BitVec 6) (i : BitVec 19)
  /-- PADD (R111): Adds a signed offset to a pointer's address, trapping TAG on carry. -/
  | padd (d : BitVec 6) (a : BitVec 6) (b : BitVec 6)
  /-- PSUB (R111): Subtracts a signed offset from a pointer's address, trapping TAG on borrow. -/
  | psub (d : BitVec 6) (a : BitVec 6) (b : BitVec 6)
  /-- PTAG (R111): Places a format and block length onto an address, trapping TAG if malformed. -/
  | ptag (d : BitVec 6) (a : BitVec 6) (b : BitVec 6)
  /-- PGTAG (R111): Writes the packed format and block length of a pointer. -/
  | pgtag (d : BitVec 6) (a : BitVec 6)
  /-- PIDX (R111): Moves a pointer by an element count times its element width. -/
  | pidx (d : BitVec 6) (a : BitVec 6) (b : BitVec 6)
  /-- PBLK (R111): Moves a block-scaled pointer by a block count. -/
  | pblk (d : BitVec 6) (a : BitVec 6) (b : BitVec 6)
  /-- PCHK (R111): Writes three check bits about a pointer and never traps. -/
  | pchk (d : BitVec 6) (a : BitVec 6) (b : BitVec 6)
  /-- PADDI (R112): Moves a pointer's address by a signed immediate. -/
  | paddi (d : BitVec 6) (a : BitVec 6) (i : BitVec 13)
  /-- RGET (R81): Reads the general register base plus index register, trapping REGBOUND beyond the window. -/
  | rget (d : BitVec 6) (a : BitVec 6) (k : BitVec 2)
  /-- RPUT (R81): Writes the general register base plus index register. -/
  | rput (d : BitVec 6) (a : BitVec 6) (k : BitVec 2)
  /-- IXSET (R81): Sets an index register to a. -/
  | ixset (a : BitVec 6) (k : BitVec 2)
  /-- IXADD (R81): Adds a to an index register, wrapping. -/
  | ixadd (a : BitVec 6) (k : BitVec 2)
  /-- IXGET (R81): Reads an index register into g[rd]. -/
  | ixget (d : BitVec 6) (k : BitVec 2)
  /-- FADD (R83): Adds two FP32 or FP64 values rounded under FRM. -/
  | fadd (d : BitVec 6) (a : BitVec 6) (b : BitVec 6) (w : BitVec 1)
  /-- FSUB (R83): Subtracts two floating values rounded under FRM. -/
  | fsub (d : BitVec 6) (a : BitVec 6) (b : BitVec 6) (w : BitVec 1)
  /-- FMUL (R83): Multiplies two floating values rounded under FRM. -/
  | fmul (d : BitVec 6) (a : BitVec 6) (b : BitVec 6) (w : BitVec 1)
  /-- FDIV (R83): Divides two floating values rounded under FRM. -/
  | fdiv (d : BitVec 6) (a : BitVec 6) (b : BitVec 6) (w : BitVec 1)
  /-- FSQRT (R83): Takes the square root of a floating value. -/
  | fsqrt (d : BitVec 6) (a : BitVec 6) (w : BitVec 1)
  /-- FMIN (R84): Delivers the smaller floating operand, −0 below +0. -/
  | fmin (d : BitVec 6) (a : BitVec 6) (b : BitVec 6) (w : BitVec 1)
  /-- FMAX (R84): Delivers the larger floating operand. -/
  | fmax (d : BitVec 6) (a : BitVec 6) (b : BitVec 6) (w : BitVec 1)
  /-- FSCPY (R86): Copies a's magnitude with b's sign. -/
  | fscpy (d : BitVec 6) (a : BitVec 6) (b : BitVec 6) (w : BitVec 1)
  /-- FSINV (R86): Copies a's magnitude with the inverse of b's sign. -/
  | fsinv (d : BitVec 6) (a : BitVec 6) (b : BitVec 6) (w : BitVec 1)
  /-- FSXOR (R86): Copies a's magnitude with the XOR of both signs. -/
  | fsxor (d : BitVec 6) (a : BitVec 6) (b : BitVec 6) (w : BitVec 1)
  /-- FEQ (R85): Writes 1 when a equals b. -/
  | feq (d : BitVec 6) (a : BitVec 6) (b : BitVec 6) (w : BitVec 1)
  /-- FLT (R85): Writes 1 when a is less than b. -/
  | flt (d : BitVec 6) (a : BitVec 6) (b : BitVec 6) (w : BitVec 1)
  /-- FLE (R85): Writes 1 when a is less than or equal to b. -/
  | fle (d : BitVec 6) (a : BitVec 6) (b : BitVec 6) (w : BitVec 1)
  /-- FKIND (R87): Writes the kind, sign and exponent of a floating operand. -/
  | fkind (d : BitVec 6) (a : BitVec 6) (w : BitVec 1)
  /-- FCVT (R89): Converts a scalar between two formats under a rounding code and saturate bit. -/
  | fcvt (d : BitVec 6) (a : BitVec 6) (r : BitVec 3) (u : BitVec 1) (e : BitVec 3) (s : BitVec 3)
  /-- FFMA (R90): Computes a × b + c with one rounding under FRM. -/
  | ffma (d : BitVec 6) (a : BitVec 6) (b : BitVec 6) (w : BitVec 1) (c : BitVec 6)
  /-- BEQ (R91): Branches when a equals b. -/
  | beq (a : BitVec 6) (b : BitVec 6) (o : BitVec 13)
  /-- BNE (R91): Branches when a differs from b. -/
  | bne (a : BitVec 6) (b : BitVec 6) (o : BitVec 13)
  /-- BLT (R91): Branches when a is signed-less than b. -/
  | blt (a : BitVec 6) (b : BitVec 6) (o : BitVec 13)
  /-- BGE (R91): Branches when a is signed-greater or equal to b. -/
  | bge (a : BitVec 6) (b : BitVec 6) (o : BitVec 13)
  /-- BLTU (R91): Branches when a is unsigned-less than b. -/
  | bltu (a : BitVec 6) (b : BitVec 6) (o : BitVec 13)
  /-- BGEU (R91): Branches when a is unsigned-greater or equal to b. -/
  | bgeu (a : BitVec 6) (b : BitVec 6) (o : BitVec 13)
  /-- J (R92): Jumps PC-relative. -/
  | j (o : BitVec 25)
  /-- JAL (R92): Jumps PC-relative and writes the return address to g10. -/
  | jal (o : BitVec 25)
  /-- JALR (R93): Jumps to a + imm after target checks, writing the return address. -/
  | jalr (d : BitVec 6) (a : BitVec 6) (i : BitVec 13)
  /-- LOOP (R94): Increments a counter and branches while it stays below the bound. -/
  | loop (a : BitVec 6) (b : BitVec 6) (o : BitVec 13)
  /-- LD (R105): Loads and sign-extends n bytes located by the address mode. -/
  | ld (d : BitVec 6) (a : BitVec 6) (s : BitVec 2) (m : BitVec 3) (o : BitVec 8)
  /-- LDU (R105): Loads and zero-extends n bytes. -/
  | ldu (d : BitVec 6) (a : BitVec 6) (s : BitVec 2) (m : BitVec 3) (o : BitVec 8)
  /-- ST (R105): Stores n bytes into the store buffer after its checks. -/
  | st (d : BitVec 6) (a : BitVec 6) (s : BitVec 2) (m : BitVec 3) (o : BitVec 8)
  /-- LDX (R107): Loads with a scaled signed register index. -/
  | ldx (d : BitVec 6) (a : BitVec 6) (b : BitVec 6) (m : BitVec 3) (s : BitVec 2)
  /-- LDUX (R107): Loads zero-extended with a scaled signed register index. -/
  | ldux (d : BitVec 6) (a : BitVec 6) (b : BitVec 6) (m : BitVec 3) (s : BitVec 2)
  /-- STX (R107): Stores with a scaled signed register index. -/
  | stx (d : BitVec 6) (a : BitVec 6) (b : BitVec 6) (m : BitVec 3) (s : BitVec 2)
  /-- PST (R108): Sends a posted store to a rank's local store on class 1. -/
  | pst (d : BitVec 6) (a : BitVec 6) (s : BitVec 2) (m : BitVec 3) (o : BitVec 8)
  /-- PREF (R110): Prefetches a line by hint and never traps after decode. -/
  | pref (h : BitVec 6) (a : BitVec 6) (o : BitVec 8)
  /-- LDV (R267): Loads 64 bytes into a vector register. -/
  | ldv (d : BitVec 6) (a : BitVec 6) (m : BitVec 3) (o : BitVec 8)
  /-- STV (R267): Stores a vector register's 64 bytes. -/
  | stv (d : BitVec 6) (a : BitVec 6) (m : BitVec 3) (o : BitVec 8)
  /-- VLDS (R268): Loads strided elements into active lanes. -/
  | vlds (d : BitVec 6) (a : BitVec 6) (b : BitVec 6) (s : BitVec 2) (m : BitVec 2)
  /-- VSTS (R268): Stores active lanes with a stride. -/
  | vsts (d : BitVec 6) (a : BitVec 6) (b : BitVec 6) (s : BitVec 2) (m : BitVec 2)
  /-- VGATH (R268): Gathers elements by an index vector. -/
  | vgath (d : BitVec 6) (a : BitVec 6) (b : BitVec 6) (s : BitVec 2) (m : BitVec 2)
  /-- VSCAT (R268): Scatters elements by an index vector. -/
  | vscat (d : BitVec 6) (a : BitVec 6) (b : BitVec 6) (s : BitVec 2) (m : BitVec 2)
  /-- VLDB (R268): Loads one element and broadcasts it to every lane. -/
  | vldb (d : BitVec 6) (a : BitVec 6) (s : BitVec 2) (m : BitVec 2)
  /-- AMOADD (R113): Atomically adds b to memory and returns the old value. -/
  | amoadd (d : BitVec 6) (a : BitVec 6) (b : BitVec 6) (s : BitVec 2) (o : BitVec 2)
  /-- AMOAND (R113): Atomically ANDs b into memory. -/
  | amoand (d : BitVec 6) (a : BitVec 6) (b : BitVec 6) (s : BitVec 2) (o : BitVec 2)
  /-- AMOOR (R113): Atomically ORs b into memory. -/
  | amoor (d : BitVec 6) (a : BitVec 6) (b : BitVec 6) (s : BitVec 2) (o : BitVec 2)
  /-- AMOXOR (R113): Atomically XORs b into memory. -/
  | amoxor (d : BitVec 6) (a : BitVec 6) (b : BitVec 6) (s : BitVec 2) (o : BitVec 2)
  /-- AMOMIN (R113): Atomically stores the signed minimum. -/
  | amomin (d : BitVec 6) (a : BitVec 6) (b : BitVec 6) (s : BitVec 2) (o : BitVec 2)
  /-- AMOMAX (R113): Atomically stores the signed maximum. -/
  | amomax (d : BitVec 6) (a : BitVec 6) (b : BitVec 6) (s : BitVec 2) (o : BitVec 2)
  /-- AMOSWP (R113): Atomically swaps b with memory. -/
  | amoswp (d : BitVec 6) (a : BitVec 6) (b : BitVec 6) (s : BitVec 2) (o : BitVec 2)
  /-- AMOFADD (R114): Atomically adds a floating value under FRM at the home. -/
  | amofadd (d : BitVec 6) (a : BitVec 6) (b : BitVec 6) (s : BitVec 2) (o : BitVec 2)
  /-- CAS (R116): Compares memory with g[rd] and swaps in b on match, returning the old value. -/
  | cas (d : BitVec 6) (a : BitVec 6) (b : BitVec 6) (o : BitVec 2) (s : BitVec 2)
  /-- CAS2 (R116): Compares and swaps 16 bytes using register pairs. -/
  | cas2 (d : BitVec 6) (a : BitVec 6) (b : BitVec 6) (o : BitVec 2)
  /-- FENCE (R135): Blocks the thread until the waits of its kind and scope complete. -/
  | fence (s : BitVec 3) (k : BitVec 2)
  /-- VADD (R270): Adds lanes, wrapping. -/
  | vadd (d : BitVec 6) (a : BitVec 6) (b : BitVec 6) (s : BitVec 2)
  /-- VSUB (R270): Subtracts lanes, wrapping. -/
  | vsub (d : BitVec 6) (a : BitVec 6) (b : BitVec 6) (s : BitVec 2)
  /-- VMUL (R270): Multiplies lanes, low half. -/
  | vmul (d : BitVec 6) (a : BitVec 6) (b : BitVec 6) (s : BitVec 2)
  /-- VMULH (R270): Multiplies lanes signed, high half. -/
  | vmulh (d : BitVec 6) (a : BitVec 6) (b : BitVec 6) (s : BitVec 2)
  /-- VAND (R270): Bitwise AND of lanes. -/
  | vand (d : BitVec 6) (a : BitVec 6) (b : BitVec 6) (s : BitVec 2)
  /-- VOR (R270): Bitwise OR of lanes. -/
  | vor (d : BitVec 6) (a : BitVec 6) (b : BitVec 6) (s : BitVec 2)
  /-- VXOR (R270): Bitwise XOR of lanes. -/
  | vxor (d : BitVec 6) (a : BitVec 6) (b : BitVec 6) (s : BitVec 2)
  /-- VSLL (R270): Shifts lanes left. -/
  | vsll (d : BitVec 6) (a : BitVec 6) (b : BitVec 6) (s : BitVec 2)
  /-- VSRL (R270): Shifts lanes right logically. -/
  | vsrl (d : BitVec 6) (a : BitVec 6) (b : BitVec 6) (s : BitVec 2)
  /-- VSRA (R270): Shifts lanes right arithmetically. -/
  | vsra (d : BitVec 6) (a : BitVec 6) (b : BitVec 6) (s : BitVec 2)
  /-- VMIN (R270): Signed lane minimum. -/
  | vmin (d : BitVec 6) (a : BitVec 6) (b : BitVec 6) (s : BitVec 2)
  /-- VMAX (R270): Signed lane maximum. -/
  | vmax (d : BitVec 6) (a : BitVec 6) (b : BitVec 6) (s : BitVec 2)
  /-- VMINU (R270): Unsigned lane minimum. -/
  | vminu (d : BitVec 6) (a : BitVec 6) (b : BitVec 6) (s : BitVec 2)
  /-- VMAXU (R270): Unsigned lane maximum. -/
  | vmaxu (d : BitVec 6) (a : BitVec 6) (b : BitVec 6) (s : BitVec 2)
  /-- VADDS (R270): Saturating signed lane addition. -/
  | vadds (d : BitVec 6) (a : BitVec 6) (b : BitVec 6) (s : BitVec 2)
  /-- VSUBS (R270): Saturating signed lane subtraction. -/
  | vsubs (d : BitVec 6) (a : BitVec 6) (b : BitVec 6) (s : BitVec 2)
  /-- VABSD (R270): Absolute lane difference. -/
  | vabsd (d : BitVec 6) (a : BitVec 6) (b : BitVec 6) (s : BitVec 2)
  /-- VDOT4 (R270): Accumulates four-byte signed dot products into 32-bit lanes. -/
  | vdot4 (d : BitVec 6) (a : BitVec 6) (b : BitVec 6)
  /-- VFADD (R271): Floating lane addition under FRM. -/
  | vfadd (d : BitVec 6) (a : BitVec 6) (b : BitVec 6) (t : BitVec 2)
  /-- VFSUB (R271): Floating lane subtraction. -/
  | vfsub (d : BitVec 6) (a : BitVec 6) (b : BitVec 6) (t : BitVec 2)
  /-- VFMUL (R271): Floating lane multiplication. -/
  | vfmul (d : BitVec 6) (a : BitVec 6) (b : BitVec 6) (t : BitVec 2)
  /-- VFMIN (R271): Floating lane minimum as FMIN. -/
  | vfmin (d : BitVec 6) (a : BitVec 6) (b : BitVec 6) (t : BitVec 2)
  /-- VFMAX (R271): Floating lane maximum as FMAX. -/
  | vfmax (d : BitVec 6) (a : BitVec 6) (b : BitVec 6) (t : BitVec 2)
  /-- VFABS (R271): Clears the sign bit of each lane. -/
  | vfabs (d : BitVec 6) (a : BitVec 6) (t : BitVec 2)
  /-- VFNEG (R271): Inverts the sign bit of each lane. -/
  | vfneg (d : BitVec 6) (a : BitVec 6) (t : BitVec 2)
  /-- VFDIV (R271): Floating lane division. -/
  | vfdiv (d : BitVec 6) (a : BitVec 6) (b : BitVec 6) (t : BitVec 2)
  /-- VFMA (R271): Fused multiply-add per lane with one rounding. -/
  | vfma (d : BitVec 6) (a : BitVec 6) (b : BitVec 6) (f : BitVec 1) (c : BitVec 6)
  /-- VCVT (R273): Converts vector elements between a format pair. -/
  | vcvt (d : BitVec 6) (a : BitVec 6) (r : BitVec 3) (u : BitVec 1) (p : BitVec 4)
  /-- VQNT (R274): Quantizes 16 FP32 lanes to one block-scaled block. -/
  | vqnt (d : BitVec 6) (a : BitVec 6) (b : BitVec 6) (k : BitVec 1) (r : BitVec 3)
  /-- VDQNT (R274): Dequantizes 16 block-scaled bytes to FP32 lanes. -/
  | vdqnt (d : BitVec 6) (a : BitVec 6) (b : BitVec 6) (k : BitVec 1)
  /-- VECFD (R275): Decodes one ECF8 block from memory into lanes. -/
  | vecfd (d : BitVec 6) (a : BitVec 6) (k : BitVec 1) (m : BitVec 3)
  /-- VECFE (R275): Encodes lanes as one ECF8 block and stores it. -/
  | vecfe (d : BitVec 6) (a : BitVec 6) (k : BitVec 1) (m : BitVec 3)
  /-- VBCAST (R276): Broadcasts a general register to every lane. -/
  | vbcast (d : BitVec 6) (a : BitVec 6) (s : BitVec 2)
  /-- VMOVGV (R276): Writes a general register into one lane. -/
  | vmovgv (d : BitVec 6) (a : BitVec 6) (b : BitVec 6) (s : BitVec 2)
  /-- VMOVVG (R276): Reads one lane into a general register. -/
  | vmovvg (d : BitVec 6) (a : BitVec 6) (b : BitVec 6) (s : BitVec 2)
  /-- VPERM (R276): Permutes bytes by a selector vector. -/
  | vperm (d : BitVec 6) (a : BitVec 6) (b : BitVec 6)
  /-- VRED (R277): Reduces lanes by a fixed pairwise tree into element 0. -/
  | vred (d : BitVec 6) (a : BitVec 6) (s : BitVec 2) (o : BitVec 2)
  /-- VSLIDE (R276): Slides lanes by a signed count with zero fill. -/
  | vslide (d : BitVec 6) (a : BitVec 6) (b : BitVec 6) (s : BitVec 2)
  /-- VSEL (R276): Selects lanes from two vectors by a mask. -/
  | vsel (d : BitVec 6) (a : BitVec 6) (b : BitVec 6) (s : BitVec 2) (m : BitVec 2)
  /-- VRCP (R272): Correctly rounded reciprocal per lane. -/
  | vrcp (d : BitVec 6) (a : BitVec 6) (t : BitVec 2)
  /-- VRSQ (R272): Correctly rounded reciprocal square root per lane. -/
  | vrsq (d : BitVec 6) (a : BitVec 6) (t : BitVec 2)
  /-- VEXP2 (R272): Correctly rounded 2^x per lane. -/
  | vexp2 (d : BitVec 6) (a : BitVec 6) (t : BitVec 2)
  /-- VLOG2 (R272): Correctly rounded log2 per lane. -/
  | vlog2 (d : BitVec 6) (a : BitVec 6) (t : BitVec 2)
  /-- VTANH (R272): Correctly rounded tanh per lane. -/
  | vtanh (d : BitVec 6) (a : BitVec 6) (t : BitVec 2)
  /-- VCMP (R278): Compares lanes and writes a mask register. -/
  | vcmp (m : BitVec 3) (c : BitVec 3) (a : BitVec 6) (b : BitVec 6) (t : BitVec 4)
  /-- MAND (R278): ANDs two mask registers. -/
  | mand (d : BitVec 6) (a : BitVec 6) (b : BitVec 6)
  /-- MOR (R278): ORs two mask registers. -/
  | mor (d : BitVec 6) (a : BitVec 6) (b : BitVec 6)
  /-- MXOR (R278): XORs two mask registers. -/
  | mxor (d : BitVec 6) (a : BitVec 6) (b : BitVec 6)
  /-- MNOT (R278): Inverts a mask register. -/
  | mnot (d : BitVec 6) (a : BitVec 6)
  /-- MCNT (R278): Writes a mask's bit count or the mask itself to a general register. -/
  | mcnt (d : BitVec 6) (a : BitVec 6) (x : BitVec 1)
  /-- MSET (R278): Sets a mask register from a general register. -/
  | mset (d : BitVec 6) (a : BitVec 6)
  /-- GANG (R279): Locks 2, 4 or 8 neighbouring cores into a gang, starting followers. -/
  | gang (d : BitVec 6) (a : BitVec 6)
  /-- XCHG (R283): Arrives at an exchange barrier and transposes vector chunks among participants. -/
  | xchg (d : BitVec 6) (a : BitVec 6) (s : BitVec 2)
  /-- GBCAST (R282): Copies the leader's register into every member. -/
  | gbcast (d : BitVec 6) (a : BitVec 6) (v : BitVec 1)
  /-- GSTAT (R282): Returns gang status or the last follower trap value. -/
  | gstat (d : BitVec 6) (a : BitVec 6)
  /-- MPUSH (R245): Claims named tiles and appends a 64-byte command to the tenant queue. -/
  | mpush (d : BitVec 6) (a : BitVec 6)
  /-- MPOP (R246): Pops a matrix completion element. -/
  | mpop (d : BitVec 6)
  /-- MWAIT (R247): Waits until at most a commands of the thread are outstanding. -/
  | mwait (d : BitVec 6) (a : BitVec 6)
  /-- MSTAT (R248): Returns the state of a tenant queue. -/
  | mstat (d : BitVec 6) (a : BitVec 6)
  /-- MSPLIT (R249): Sets row-split or full mode once both tenant queues are idle. -/
  | msplit (a : BitVec 6)
  /-- RGDEF (R251): Defines or undefines an operand ring. -/
  | rgdef (a : BitVec 6) (k : BitVec 2)
  /-- RGPUSH (R252): Releases and advances a ring's tail. -/
  | rgpush (a : BitVec 6) (k : BitVec 2)
  /-- RGSTAT (R253): Returns a ring's head, tail and state. -/
  | rgstat (d : BitVec 6) (k : BitVec 2)
  /-- RGRST (R254): Resets a ring's head and tail to zero. -/
  | rgrst (k : BitVec 2)
  /-- QPUSH (R170): Releases and appends a word to a bound queue, waiting while full. -/
  | qpush (a : BitVec 6) (n : BitVec 4)
  /-- QPOP (R170): Waits for and removes the head of a bound queue. -/
  | qpop (d : BitVec 6) (n : BitVec 4)
  /-- QPEEK (R170): Waits for and reads the head of a bound queue. -/
  | qpeek (d : BitVec 6) (n : BitVec 4)
  /-- QTRY (R170): Pops the head if present, writing a success status. -/
  | qtry (d : BitVec 6) (a : BitVec 6) (n : BitVec 4)
  /-- QTRYP (R170): Peeks the head if present, writing a success status. -/
  | qtryp (d : BitVec 6) (a : BitVec 6) (n : BitVec 4)
  /-- QBIND (R170): Binds or releases a queue register. -/
  | qbind (a : BitVec 6) (n : BitVec 4)
  /-- QSTAT (R170): Returns a queue register's status word. -/
  | qstat (d : BitVec 6) (n : BitVec 4)
  /-- SOPEN (R184): Opens a stream by sending a head flit and waits for the answer. -/
  | sopen (d : BitVec 6) (a : BitVec 6) (p : BitVec 3)
  /-- SCLOSE (R185): Appends the marker and sets the out-port Closing. -/
  | sclose (p : BitVec 3)
  /-- SSTAT (R185): Returns a stream port's state. -/
  | sstat (d : BitVec 6) (p : BitVec 3)
  /-- SEND (R177): Sends eight words to a mailbox and waits for the status. -/
  | send (d : BitVec 6) (a : BitVec 6)
  /-- SEND4 (R177): Sends four words to a mailbox and waits for the status. -/
  | send4 (d : BitVec 6) (a : BitVec 6)
  /-- SEND1 (R177): Sends one word to a mailbox or as an event to a slot. -/
  | send1 (d : BitVec 6) (a : BitVec 6)
  /-- REPLY (R177): Sends four words to the reply mailbox named by a header. -/
  | reply (d : BitVec 6) (a : BitVec 6)
  /-- MBXDEF (R179): Defines or releases a mailbox from a descriptor. -/
  | mbxdef (a : BitVec 6) (b : BitVec 3)
  /-- BIND (R180): Binds a mailbox class to a class descriptor. -/
  | bind (a : BitVec 6) (b : BitVec 3) (c : BitVec 4)
  /-- UNBIND (R180): Returns a mailbox class to unbound. -/
  | unbind (b : BitVec 3) (c : BitVec 4)
  /-- SUSPEND (R148): Parks the thread as a continuation record and frees its slot. -/
  | suspend (a : BitVec 6)
  /-- RESUMEC (R149): Claims a continuation record and starts a thread from it. -/
  | resumec (d : BitVec 6) (a : BitVec 6) (m : BitVec 3)
  /-- RECV (R182): Waits for a pull-class head message and takes it into registers. -/
  | recv (d : BitVec 6) (b : BitVec 3)
  /-- XFER (R295): Checks a parameter block and sends a transfer to its source streamer. -/
  | xfer (d : BitVec 6) (a : BitVec 6)
  /-- XMCAST (R295): Sends a multicast transfer to many receivers of one position. -/
  | xmcast (d : BitVec 6) (a : BitVec 6)
  /-- XFREE (R304): Releases and sends a multicast free token to the tile router. -/
  | xfree (a : BitVec 6)
  /-- XWAIT (R301): Waits until at most a transfers are outstanding, reporting unreported faults. -/
  | xwait (d : BitVec 6) (a : BitVec 6)
  /-- XSTAT (R302): Returns the state of a transfer. -/
  | xstat (d : BitVec 6) (a : BitVec 6)
  /-- RFORK (R210): Parks the forker in a join cell and starts range tasks on recruited cores. -/
  | rfork (a : BitVec 6)
  /-- JOIN (R211): Decrements a join cell and resumes the forker when it reaches zero. -/
  | join (a : BitVec 6)
  /-- KLAUNCH (R195): Starts a task thread from a task record. -/
  | klaunch (d : BitVec 6) (a : BitVec 6)
  /-- KSTAT (R209): Returns the status of a kernel by KID. -/
  | kstat (d : BitVec 6) (a : BitVec 6)
  /-- DLGET (R207): Optionally sets rem and returns the kernel's slack. -/
  | dlget (d : BitVec 6) (a : BitVec 6)
  /-- WRAPDONE (R205): Fences, writes the validity flag and closes the kernel. -/
  | wrapdone (a : BitVec 6)
  /-- BUDGET (R208): Returns KBUDGET and imposes, shortens or reloads the task budget. -/
  | budget (d : BitVec 6) (a : BitVec 6)
  /-- BARINIT (R288): Sets a barrier's count and returns its phase. -/
  | barinit (d : BitVec 6) (a : BitVec 6) (l : BitVec 2) (i : BitVec 4)
  /-- BARARR (R288): Releases and arrives at a barrier without waiting. -/
  | bararr (d : BitVec 6) (a : BitVec 6) (l : BitVec 2) (i : BitVec 4)
  /-- BARWAIT (R288): Waits until a phase has ended, then acquires. -/
  | barwait (d : BitVec 6) (a : BitVec 6) (l : BitVec 2) (i : BitVec 4)
  /-- BARARW (R288): Arrives and waits for the phase to end. -/
  | bararw (d : BitVec 6) (a : BitVec 6) (l : BitVec 2) (i : BitVec 4)
  /-- BARTEST (R288): Reads a barrier's phase and counts, acquiring if the phase is done. -/
  | bartest (d : BitVec 6) (a : BitVec 6) (l : BitVec 2) (i : BitVec 4)
  /-- SHGET (R199): Reads one word of a shape record. -/
  | shget (d : BitVec 6) (a : BitVec 6) (n : BitVec 3)
  /-- SHSLICE (R199): Computes the core's slice pointer and per-dimension ranges. -/
  | shslice (d : BitVec 6) (n : BitVec 3)
  /-- SHREC (R199): Returns the global address of a shape record. -/
  | shrec (d : BitVec 6) (n : BitVec 3)
  /-- CREG (R357): Registers a collective buffer and returns a handle. -/
  | creg (d : BitVec 6) (a : BitVec 6)
  /-- CPOST (R358): Releases and posts the next collective of a registration. -/
  | cpost (d : BitVec 6) (a : BitVec 6)
  /-- CSTAT (R362): Returns the state of a registration. -/
  | cstat (d : BitVec 6) (a : BitVec 6)
  /-- CDEREG (R363): Deregisters a handle, failing the other participants. -/
  | cdereg (a : BitVec 6)
  /-- CSRR (R162): Reads a CSR into a general register. -/
  | csrr (d : BitVec 6) (c : BitVec 12)
  /-- CSRW (R162): Writes a to every writable field of a CSR. -/
  | csrw (a : BitVec 6) (c : BitVec 12)
  /-- CSRS (R162): Sets bits of a CSR's RW fields. -/
  | csrs (a : BitVec 6) (c : BitVec 12)
  /-- CSRC (R162): Clears bits of a CSR's RW fields. -/
  | csrc (a : BitVec 6) (c : BitVec 12)
  /-- TRAP (R153): Raises cause TRAP with its code. -/
  | trap (c : BitVec 10)
  /-- WFE (R156): Blocks until the thread's event bit is set or a timeout passes. -/
  | wfe (a : BitVec 6)
  /-- BREAK (R153): Raises cause BREAK with its code, or halts under invasive debug. -/
  | brk (c : BitVec 10)
  /-- CTXSAVE (R164): Saves a Held slot's context to a save area and frees the slot. -/
  | ctxsave (d : BitVec 6) (a : BitVec 6)
  /-- CTXLOAD (R165): Loads a saved context into a Free slot. -/
  | ctxload (d : BitVec 6) (a : BitVec 6)
  /-- LD_W_COMPACT (R57): Compact word load of mode OWN. -/
  | ldWCompact (d : BitVec 4) (s : BitVec 4) (k : BitVec 2)
  /-- LD_D_COMPACT (R57): Compact doubleword load of mode OWN. -/
  | ldDCompact (d : BitVec 4) (s : BitVec 4) (k : BitVec 2)
  /-- ST_W_COMPACT (R57): Compact word store of mode OWN. -/
  | stWCompact (t : BitVec 4) (s : BitVec 4) (k : BitVec 2)
  /-- ST_D_COMPACT (R57): Compact doubleword store of mode OWN. -/
  | stDCompact (t : BitVec 4) (s : BitVec 4) (k : BitVec 2)
  /-- QPOP_COMPACT (R57): Compact form of QPOP. -/
  | qpopCompact (d : BitVec 4) (n : BitVec 4)
  /-- QPUSH_COMPACT (R57): Compact form of QPUSH. -/
  | qpushCompact (n : BitVec 4) (s : BitVec 4)
  /-- MOV (R57): Compact form of OR gd, gs, g0. -/
  | mov (d : BitVec 4) (s : BitVec 4)
  /-- LI (R57): Compact form of ADDI gd, g0, imm6. -/
  | li (d : BitVec 4) (i : BitVec 6)
  /-- ADD_COMPACT (R57): Compact form of ADD gd, gd, gs. -/
  | addCompact (d : BitVec 4) (s : BitVec 4)
  /-- SUB_COMPACT (R57): Compact form of SUB gd, gd, gs. -/
  | subCompact (d : BitVec 4) (s : BitVec 4)
  /-- ADDI_COMPACT (R57): Compact form of ADDI gd, gd, imm6. -/
  | addiCompact (d : BitVec 4) (i : BitVec 6)
  /-- AND_COMPACT (R57): Compact form of AND gd, gd, gs. -/
  | andCompact (d : BitVec 4) (s : BitVec 4)
  /-- OR_COMPACT (R57): Compact form of OR gd, gd, gs. -/
  | orCompact (d : BitVec 4) (s : BitVec 4)
  /-- XOR_COMPACT (R57): Compact form of XOR gd, gd, gs. -/
  | xorCompact (d : BitVec 4) (s : BitVec 4)
  /-- SLLI_COMPACT (R57): Compact form of SLLI gd, gd, sh. -/
  | slliCompact (d : BitVec 4) (h : BitVec 6)
  /-- SRLI_COMPACT (R57): Compact form of SRLI gd, gd, sh. -/
  | srliCompact (d : BitVec 4) (h : BitVec 6)
  /-- SRAI_COMPACT (R57): Compact form of SRAI gd, gd, sh. -/
  | sraiCompact (d : BitVec 4) (h : BitVec 6)
  /-- BEQZ (R57): Compact form of BEQ gs, g0. -/
  | beqz (s : BitVec 4) (o : BitVec 6)
  /-- BNEZ (R57): Compact form of BNE gs, g0. -/
  | bnez (s : BitVec 4) (o : BitVec 6)
  /-- J_COMPACT (R57): Compact PC-relative jump. -/
  | jCompact (o : BitVec 10)
  /-- UNGANG (R280): Ends every follower and continues the leader. -/
  | ungang
  /-- DONE (R146): Waits for coprocessor work and ends the thread, freeing its slot. -/
  | done
  /-- XRET (R300): Returns from a transfer handler to XEPC. -/
  | xret
  /-- SHFENCE (R200): Acts as FENCE.OWNER and invalidates the owner's record cache. -/
  | shfence
  /-- NOP (R65): Does nothing. -/
  | nop
  /-- UTRET (R154): Returns from a user handler to UEPC. -/
  | utret
  /-- SEQSYNC (R159): Waits until every coprocessor dispatch has ended. -/
  | seqsync
  /-- TRET (R154): Returns from a supervisor handler to TEPC and the prior mode. -/
  | tret
  /-- HALT (R155): Puts the issuing slot in Held. -/
  | halt
  /-- TLBINV (R331): Invalidates translations named by TLBIV and waits for accesses by them. -/
  | tlbinv
  /-- BKCLR (R338): Clears logical sub-banks named in BKSEL. -/
  | bkclr
  /-- OWNSET (R337): Sets an owner's sub-bank grant on a position. -/
  | ownset
  /-- MSPILL (R256): Saves an accumulator tile to its area and frees it. -/
  | mspill
  /-- MFILL (R256): Loads an accumulator tile from its area and assigns its owner. -/
  | mfill
  /-- ROTHOLD (R352): Adds or releases a hold that defers the stack's rotation step. -/
  | rothold
  /-- NOP_COMPACT (R57): Compact form of NOP. -/
  | nopCompact
  /-- RET (R57): Compact form of JALR g0, g10, 0. -/
  | ret
  /-- DONE_COMPACT (R57): Compact form of DONE. -/
  | doneCompact
  /-- BREAK_COMPACT (R57): Compact form of BREAK with code 0. -/
  | brkCompact
  /-- MMA (R237): Command. Matrix command that accumulates tile-pair products exactly into an accumulator tile. -/
  | mma (core ten : Nat)
  /-- MMAS (R237): Command. Matrix command that accumulates block-scaled tile-pair products. -/
  | mmas (core ten : Nat)
  /-- MZERO (R239): Command. Matrix command that zeroes the masked accumulator tiles. -/
  | mzero (core ten : Nat)
  /-- MLDACC (R240): Command. Matrix command that loads an accumulator tile from memory. -/
  | mldacc (core ten : Nat)
  /-- MSTACC (R240): Command. Matrix command that stores an accumulator tile to memory. -/
  | mstacc (core ten : Nat)
  /-- MPERM (R241): Command. Matrix command that routes a source tile's words through a permutation. -/
  | mperm (core ten : Nat)
  /-- RETIRE (R237): Event. A running matrix command ends, popping ring slots and posting its completion. -/
  | retire (core ten : Nat)
  /-- COMPLETION_POST (R242): Event. A held matrix completion element is posted once its destination has room. -/
  | completionPost (core owner ten : Nat)
  /-- MATRIX_STEP (R20): Event. A 32-clk matrix step begins and the exclusion pair's rates are decided. -/
  | matrixStep (stack pair col tc : Nat)
  /-- PERFORM_HEAD_ENTRY (R125): Event. The head entry of a core's store buffer is performed at its home or copy. -/
  | performHeadEntry (core : Nat)
  /-- WRITE_BACK (R127): Event. A release-buffer entry is written back to its home. -/
  | writeBack (core n : Nat)
  /-- DROP_CLEAN_COPY (R127): Event. A clean copied byte of a stack is dropped. -/
  | dropCleanCopy (stack addr : Nat)
  /-- PERFORM_POSTED_STORE (R129): Event. A posted store from a core's pool is performed at its home and acknowledged. -/
  | performPostedStore (core n : Nat)
  /-- MEMORY_REPLY (R119): Event. A reply to a load, AMO, CAS or CAS2 arrives and completes the instruction. -/
  | memoryReply (core slot : Nat)
  /-- HOST_COMPLETION (R142): Event. A host completion acknowledges a write to host memory. -/
  | hostCompletion (n : Nat)
  /-- PACKET_DROP (R318): Event. A router drops a packet with an uncorrectable owner field and reports it. -/
  | packetDrop (k : DropKind) (core n : Nat) (srcOk : Bool)
  /-- CLASS_STARVATION (R317): Event. A class's waiting count reaches 4,088 and it sends its next flit ahead of arbitration. -/
  | classStarvation (out cls : Nat)
  /-- ISSUE_STARVATION (R315): Event. An eligible thread's wait reaches 48 and it issues ahead of priority. -/
  | issueStarvation (core slot : Nat)
  /-- MESSAGE_ARRIVAL (R173): Event. The network interface accepts a message into a receive queue, the pond, or refuses it. -/
  | messageArrival (n : Nat)
  /-- MESSAGE_STATUS (R177): Event. The destination's status returns and completes the sending instruction. -/
  | messageStatus (core slot : Nat)
  /-- POND_MOVE (R175): Event. The head pond entry moves into its mailbox's receive queue. -/
  | pondMove (core owner : Nat)
  /-- DISPATCH (R181): Event. A mailbox head message is dispatched into a new handler thread. -/
  | dispatch (core : Nat)
  /-- MBXOVF (R175): Event. The resident loop takes MBXOVF for a mailbox that became Spilled. -/
  | mbxovf
  /-- HEAD_FLIT (R184): Event. A stream head flit reaches the target in-port, which accepts, rejects or holds it. -/
  | headFlit (core port : Nat)
  /-- STREAM_WORD (R184): Event. A stream word travels the held route into the in-queue. -/
  | streamWord (core port : Nat)
  /-- MARKER (R185): Event. A stream marker frees the in-port and sets the closed bit. -/
  | marker (core port : Nat)
  /-- ATTACH (R187): Event. The front end attaches a command ring and checks its privileged words. -/
  | attach (owner qcb shadow32 shadow40 : Nat)
  /-- DOORBELL (R188): Event. A doorbell write makes the front end reread a command ring. -/
  | doorbell (owner ring : Nat)
  /-- RING_POLL (R188): Event. The front end rereads a ring at least every 10 µs. -/
  | ringPoll (owner ring : Nat)
  /-- PLACEMENT_PASS (R313): Event. The front end places head kernels and back-fills others onto usable groups. -/
  | placementPass (owner : Nat)
  /-- SUCCESSOR_LIST (R201): Event. The front end reads a closed kernel's successor list and consumes its records. -/
  | successorList (owner kid : Nat)
  /-- DEADLINE_EXPIRY (R204): Event. The front end detects TIME at DLINE and sets the kernel WrappingUp. -/
  | deadlineExpiry (owner kid : Nat)
  /-- DIVERSION (R204): Event. A thread of an expired kernel is diverted to WRAPENT at a boundary. -/
  | diversion
  /-- WRAPUP_BUDGET_EXPIRY (R206): Event. The wrap-up budget runs out, writing INVALID and killing the kernel. -/
  | wrapupBudgetExpiry (owner kid : Nat)
  /-- BUDGET_EXPIRY (R145): Event. A thread's task budget reaches zero and it takes BUDGET at a boundary. -/
  | budgetExpiry
  /-- LATE_FAULT (R158): Event. A pending late fault is taken at a thread boundary. -/
  | lateFault
  /-- WFE_TIMEOUT (R156): Event. A WFE's timeout on CYCLE passes and the wait ends. -/
  | wfeTimeout (core slot : Nat)
  /-- HANG_WATCHDOG (R166): Event. The hang watchdog reaches HWLIM and ends a save or load. -/
  | hangWatchdog (core : Nat)
  /-- TRANSFER_REQUEST (R296): Event. A source streamer receives a transfer and queues, spills or refuses it. -/
  | transferRequest (n : Nat)
  /-- XOVF_INTAKE (R296): Event. A streamer with a free entry takes a request from an overflow ring. -/
  | xovfIntake (streamer : Nat)
  /-- TRANSFER_START (R297): Event. A streamer starts a queued transfer and copies its rows. -/
  | transferStart (n : Nat)
  /-- TRANSFER_COMPLETION (R298): Event. A transfer ends Complete or Faulted and notifies, feeds, posts and interrupts. -/
  | transferCompletion (n : Nat)
  /-- TRANSFER_INTERRUPT (R299): Event. A pending transfer interrupt is delivered to the issuing thread's handler. -/
  | transferInterrupt
  /-- FREE_INCREMENT (R303): Event. A tile router's combined free reaches the sender and may make the multicast Freed. -/
  | freeIncrement (owner n tile : Nat)
  /-- FAULT_RETRY (R330): Event. An engine waiting on an open fault-table entry retries its walk. -/
  | faultRetry (stack n : Nat)
  /-- DUE_POINT (R341): Event. A rotation step falls due and enters Lead or Deferred. -/
  | duePoint (stack : Nat)
  /-- DEFERRAL_END (R342): Event. A deferred step's causes end or 2 ms pass, and its Lead begins. -/
  | deferralEnd (stack : Nat)
  /-- ROTATION_PAUSE (R344): Event. The Lead ends and the stack pauses, moves every site's content and resumes. -/
  | rotationPause (stack resends : Nat)
  /-- HOLD_EXPIRY (R352): Event. A ROTHOLD hold reaches its end time and stops deferring. -/
  | holdExpiry (stack n : Nat)
  /-- SWAP_REQUEST (R350): Event. The control cores request an owner swap and the position starts Draining. -/
  | swapRequest (stack pos owner : Nat)
  /-- OWNER_SWAP (R350): Event. A drained position exchanges owner contexts on all 64 cores. -/
  | ownerSwap (stack pos : Nat)
  /-- PORT_TRAINING (R355): Event. The control cores start training an arcade port. -/
  | portTraining (port : Nat)
  /-- TRAINING_END (R355): Event. Training ends Up, Degraded or Down by lanes passed or 100 ms elapsed. -/
  | trainingEnd (port lanes : Nat)
  /-- LANE_FAILURE (R355): Event. An arcade lane fails and the port degrades or goes Down. -/
  | laneFailure (port : Nat)
  /-- PORT_STOP (R355): Event. The control cores stop an arcade port. -/
  | portStop (port : Nat)
  /-- COLLECTIVE_START (R359): Event. Once all posts are made the arcade computes a collective. -/
  | collectiveStart (owner handle : Nat) (remote : List RemotePost)
  /-- COLLECTIVE_END (R360): Event. A collective ends, results are at their homes and barriers receive arrivals. -/
  | collectiveEnd (owner handle : Nat) (lost : Bool)
  /-- HOST_READ (R366): Event. The endpoint performs a host read of BAR2. -/
  | hostRead (slot off len : Nat)
  /-- HOST_WRITE (R366): Event. The endpoint performs a host write to BAR2 in arrival order. -/
  | hostWrite (slot off : Nat) (bytes : List Byte)
  /-- HOST_ATOMIC (R366): Event. The endpoint performs a host AtomicOp indivisibly. -/
  | hostAtomic (op : HostOp) (slot off size : Nat) (x y : BitVec 128)
  /-- COLD_START (R369): Event. The module boots, verifies, trains, tests and clears all state. -/
  | coldStart (st : StartRecord)
  /-- WARM_START (R369): Event. The module restarts at the control cores' request reusing verified records. -/
  | warmStart (st : StartRecord)
  /-- START_TIMEOUT (R370): Event. No ready record is written within 300 s and the start fails. -/
  | startTimeout
  /-- CONFIGURATION_RECORD (R372): Event. A signed configuration record raises minimum accepted versions. -/
  | configurationRecord (record : Signed) (minimums : List (Nat × BitVec 32)) (settings : RecordSettings)
  /-- ATTESTATION_REQUEST (R373): Event. The module returns a doubly signed attestation report. -/
  | attestationRequest (nonce : List Byte)
  /-- DEBUG_TOKEN (R375): Event. A signed debug token enters the Debug-Authorised state. -/
  | debugToken (token : DebugToken)
  /-- DEBUG_LEVEL_SET (R375): Event. The control cores set the debug level within what the state allows. -/
  | debugLevelSet (level : BitVec 2)
  /-- DEBUGGER_ACCESS (R376): Event. A debugger reads or writes a debug-Held context. -/
  | debuggerAccess (core slot : Nat) (reg : DebugReg) (write : Option Word)
  /-- DEBUGGER_RESUME (R376): Event. A debugger resume makes a Held slot Ready. -/
  | debuggerResume (core slot : Nat)
  /-- IDLE_ENTRY (R377): Event. A stack with no work for 100 µs enters Idle. -/
  | idleEntry (stack : Nat)
  /-- IDLE_EXIT (R377): Event. An arrival or due point brings a stack back to Active. -/
  | idleExit (stack : Nat)
  /-- RETENTION_ENTRY (R377): Event. The control cores put the module in Retention. -/
  | retentionEntry
  /-- RETENTION_EXIT (R377): Event. The control cores bring the module out of Retention. -/
  | retentionExit
  /-- POWER_OFF (R377): Event. The control cores turn the module Off. -/
  | powerOff
  /-- ERROR_CONTAINMENT (R379): Event. An uncorrectable error stops the owner, kills its kernels and reports. -/
  | errorContainment (owner kind loc : Nat)
  /-- SCRUB (R380): Event. The rake reads a word and writes back a correction if nothing wrote it meanwhile. -/
  | scrub (addr : Nat) (read corrected : Byte)
  /-- ZERO_FILL (R334): Event. The rake zeroes invalid lines of a handed-over sub-bank. -/
  | zeroFill (core sub : Nat)
  /-- POWER_MEASUREMENT (R383): Event. Every 10 µs power is estimated and duty limits and THRCAUSE updated. -/
  | powerMeasurement (draw : List (Nat × Nat)) (hot : List Nat)
  /-- CAP_FRAME (R382): Event. An authenticated cap frame sets hall budget and class caps. -/
  | capFrame (etherType : BitVec 16) (frame : List Byte)
  /-- PTP_MESSAGE (R381): Event. An IEEE 1588 message disciplines TIME by stepping or slewing. -/
  | ptpMessage (m : PtpMessage)
  /-- MANAGEMENT_WRITE (R316): Event. The control cores write a register through the management block. -/
  | managementWrite (reg : MgmtReg)
  /-- UNASSIGNED_ENCODING (R58): Event. Decoding an instruction word that the opcode map and compact table do not assign raises ILLEGAL before any effect. -/
  | unassignedEncoding (w : BitVec 32)
  /-- FETCH_FAULT (R54): Event. A fetch from an unmapped page or beyond local-store capacity raises PAGE, ACCESS or LSBOUND at the PC before any word is decoded. -/
  | fetchFault
  /-- VECTOR_COMPLETION (R157): Event. The vector unit completes, faults or cancels a dispatched vector instruction in sequence order and updates the dispatch ring. -/
  | vectorCompletion (core slot : Nat)
  /-- HOLDOVER (R381): Event. When no IEEE 1588 master is heard, TIME holds over on the module oscillator and SYSSTAT.ptp shows holdover. -/
  | holdover
  /-- OWNER_CREATION (R368): Event. The control-core system creates an owner, sets its page-table roots, grants positions and attaches it to cores, defining mailbox 0 and the resident loop. -/
  | ownerCreation (spec : OwnerSpec)
  /-- OWNER_WITHDRAWAL (R356): Event. The supervisor withdraws a position or an owner, killing its kernels with cause 0x22 and deregistering its collectives. -/
  | ownerWithdrawal (owner : Nat) (pos : Option Nat)
  /-- PARTICIPANT_REGISTRATION (R356): Event. A registration from another module's participant reaches the name table, making the registration Ready or Failed with code 1. -/
  | participantRegistration (p : Participant)
  /-- PARTICIPANT_DEREGISTRATION (R363): Event. Another participant deregisters, and this module's registration of that name becomes Failed with code 4. -/
  | participantDeregistration (dom name index : Nat)
deriving DecidableEq, Repr

end Sys2Proof
end

