-- ==== Sys2Proof/WellFormed.lean ====
section
/-! DEFINITION. The static rules an instruction's fields obey: a word that breaks one is unassigned and raises
ILLEGAL (R58). Rules that depend on the machine's state (FRM, the control profile, the mode) stand with the meanings. -/

namespace Sys2Proof

/-- The CSR numbers that the CSR tables assign (R69, R70, R161, R183, R203, R261, R305, R320, R339, R353, R364, R384). -/
def csrNumbers : List Nat :=
  [0x000, 0x001, 0x002, 0x003, 0x004, 0x005, 0x006, 0x008, 0x009, 0x00A, 0x00B,
   0x040, 0x041, 0x042, 0x043, 0x044, 0x045, 0x048, 0x049, 0x04A, 0x04B, 0x04C, 0x04D, 0x04E, 0x050, 0x051, 0x058, 0x059,
   0x080, 0x081, 0x082, 0x083, 0x084, 0x0C0, 0x0C1, 0x0C2, 0x0C3, 0x0C4, 0x0E0, 0x0E1, 0x0E2, 0x0E3,
   0x100, 0x101, 0x102, 0x103, 0x104, 0x105, 0x106, 0x120, 0x121, 0x140, 0x141, 0x160, 0x161, 0x162, 0x163, 0x164,
   0x170, 0x171, 0x172, 0x173, 0x174, 0x175, 0x190, 0x191]

/-- The CSRs all of whose fields are RO: a write-class instruction that names one is ILLEGAL (R69). -/
def csrReadOnly : List Nat :=
  [0x000, 0x001, 0x002, 0x003, 0x004, 0x005, 0x006, 0x051, 0x058, 0x080, 0x084, 0x0C1, 0x0C3, 0x0E0, 0x0E2,
   0x100, 0x101, 0x102, 0x104, 0x105, 0x106, 0x140, 0x160, 0x161, 0x162, 0x163, 0x170, 0x171, 0x173, 0x175, 0x190, 0x191]

/-- The CSRs that only supervisor mode may name (R161, R183, R261, R305, R339, R353, R384). -/
def csrSupervisor : List Nat :=
  [0x048, 0x049, 0x04A, 0x04B, 0x04C, 0x04D, 0x04E, 0x058, 0x059, 0x080, 0x081, 0x0C0, 0x0C2, 0x0E3, 0x141, 0x164,
   0x171, 0x172, 0x173, 0x174, 0x175]

/-- The CSRs that user mode may read and not write (R161, R320). -/
def csrUserReadOnly : List Nat := [0x044, 0x121]

/-- A CSR a write-class instruction may name. -/
def csrWritable (c : BitVec 12) : Bool := csrNumbers.contains c.toNat && !csrReadOnly.contains c.toNat

/-- The cell index and the address field of a barrier instruction (R286). -/
def barrierFields (i : BitVec 4) (l : BitVec 2) (a : BitVec 6) : Bool :=
  match l.toNat with
  | 0 => i.toNat < 4 && a == 0
  | 1 => i.toNat < 8 && a == 0
  | 2 => a == 0
  | _ => i == 0

/-- The destination formats that stochastic rounding may have (R36), as numbered in R88. -/
def srDest (e : BitVec 3) : Bool := e == 2 || e == 3 || e == 6 || e == 7

/-- The VCVT pairs whose destination stochastic rounding may have (R36, R273). -/
def srPair (p : BitVec 4) : Bool := [0, 1, 4, 5, 6, 7, 8, 9].contains p.toNat

/-- A member of m0 to m7 (R265: a value from 8 to 63 raises ILLEGAL). -/
def maskReg (r : BitVec 6) : Bool := r.toNat < 8

/-- The static rules of each instruction; an instruction named nowhere here has none beyond its encoding's fixed bits. -/
def Instr.wf : Instr → Bool
  | .fcvt _ _ r _ e s =>
    s != e && !(s == 0 && e == 1) && !(s == 1 && e == 0) && r != 7 && (r != 5 || srDest e)
  | .ldu _ _ s _ _ => s != 3
  | .ldux _ _ _ _ s => s != 3
  | .pst _ _ _ m _ => 2 ≤ m.toNat && m.toNat ≤ 5
  | .pref h _ _ => h.toNat < 4
  | .amoadd _ _ _ s _ | .amoand _ _ _ s _ | .amoor _ _ _ s _ | .amoxor _ _ _ s _
  | .amomin _ _ _ s _ | .amomax _ _ _ s _ | .amoswp _ _ _ s _ | .amofadd _ _ _ s _ => 2 ≤ s.toNat
  | .cas _ _ _ _ s => 2 ≤ s.toNat
  | .cas2 d _ b _ => !d.getLsbD 0 && !b.getLsbD 0
  | .fence _ k => k != 3
  | .vfadd _ _ _ t | .vfsub _ _ _ t | .vfmul _ _ _ t | .vfmin _ _ _ t | .vfmax _ _ _ t | .vfdiv _ _ _ t => t != 3
  | .vfabs _ _ t | .vfneg _ _ t => t != 3
  | .vrcp _ _ t | .vrsq _ _ t | .vexp2 _ _ t | .vlog2 _ _ t | .vtanh _ _ t => t != 3
  | .vcvt _ _ r _ p => r != 7 && (r != 5 || srPair p)
  | .vqnt _ _ _ k r => r != 7 && (r != 5 || k == 1)
  | .vecfd _ _ _ m | .vecfe _ _ _ m => m == 0 || m == 2 || m == 6 || m == 7
  | .vred _ _ s o => !(o == 1 || o == 2) || s == 1 || s == 2
  | .vcmp _ c _ _ t => t.toNat ≤ 6 && c.toNat ≤ 5 && (c.toNat < 4 || t.toNat < 4)
  | .mand d a b | .mor d a b | .mxor d a b => maskReg d && maskReg a && maskReg b
  | .mnot d a => maskReg d && maskReg a
  | .mcnt _ a _ => maskReg a
  | .mset d _ => maskReg d
  | .xchg _ _ s => s != 3
  | .qtry d a _ | .qtryp d a _ => !(d == a && d != 0)
  | .sopen _ _ p => p.toNat < 4
  | .sclose p => p.toNat < 4
  | .resumec _ _ m => m == 0 || (2 ≤ m.toNat && m.toNat ≤ 5)
  | .barinit _ a l i | .bararr _ a l i | .barwait _ a l i | .bararw _ a l i | .bartest _ a l i => barrierFields i l a
  | .csrr _ c => csrNumbers.contains c.toNat
  | .csrw _ c | .csrs _ c | .csrc _ c => csrWritable c
  | _ => true

end Sys2Proof
end

