-- ==== Sys2Proof/Decode.lean ====
section
/-! DEFINITION. Decoding and encoding of instruction words (R51, R55 to R58, R65 to R69).
The decoder reads 16-bit and 32-bit words; a word that no row of the opcode map or the compact table assigns, or
whose fields break a static rule of its instruction, has no instruction and becomes `unassignedEncoding`. The encoder
stands after it, written from the same encoding tables. Lean's compiled code cannot build a constructor whose number is
above 244, so the decoders that build one are marked noncomputable; the kernel evaluates them like any other. -/

namespace Sys2Proof

namespace Decode

/-- Major 0x00: ADD, SUB, AND, OR, XOR, ANDN, ORN, XNOR, SLL, SRL, SRA, ROT, SLT, SLTU, MIN, MAX, MINU, MAXU, ADDW, SUBW, ADDS, SUBS, SLLW, SRLW, SRAW. -/
def major00 (w : BitVec 32) : Option Instr :=
  if w.extractLsb' 25 7 = 0x0#7 then some (.add (w.extractLsb' 7 6) (w.extractLsb' 13 6) (w.extractLsb' 19 6))
  else if w.extractLsb' 25 7 = 0x1#7 then some (.sub (w.extractLsb' 7 6) (w.extractLsb' 13 6) (w.extractLsb' 19 6))
  else if w.extractLsb' 25 7 = 0x2#7 then some (.and (w.extractLsb' 7 6) (w.extractLsb' 13 6) (w.extractLsb' 19 6))
  else if w.extractLsb' 25 7 = 0x3#7 then some (.or (w.extractLsb' 7 6) (w.extractLsb' 13 6) (w.extractLsb' 19 6))
  else if w.extractLsb' 25 7 = 0x4#7 then some (.xor (w.extractLsb' 7 6) (w.extractLsb' 13 6) (w.extractLsb' 19 6))
  else if w.extractLsb' 25 7 = 0x5#7 then some (.andn (w.extractLsb' 7 6) (w.extractLsb' 13 6) (w.extractLsb' 19 6))
  else if w.extractLsb' 25 7 = 0x6#7 then some (.orn (w.extractLsb' 7 6) (w.extractLsb' 13 6) (w.extractLsb' 19 6))
  else if w.extractLsb' 25 7 = 0x7#7 then some (.xnor (w.extractLsb' 7 6) (w.extractLsb' 13 6) (w.extractLsb' 19 6))
  else if w.extractLsb' 25 7 = 0x8#7 then some (.sll (w.extractLsb' 7 6) (w.extractLsb' 13 6) (w.extractLsb' 19 6))
  else if w.extractLsb' 25 7 = 0x9#7 then some (.srl (w.extractLsb' 7 6) (w.extractLsb' 13 6) (w.extractLsb' 19 6))
  else if w.extractLsb' 25 7 = 0xA#7 then some (.sra (w.extractLsb' 7 6) (w.extractLsb' 13 6) (w.extractLsb' 19 6))
  else if w.extractLsb' 25 7 = 0xB#7 then some (.rot (w.extractLsb' 7 6) (w.extractLsb' 13 6) (w.extractLsb' 19 6))
  else if w.extractLsb' 25 7 = 0xC#7 then some (.slt (w.extractLsb' 7 6) (w.extractLsb' 13 6) (w.extractLsb' 19 6))
  else if w.extractLsb' 25 7 = 0xD#7 then some (.sltu (w.extractLsb' 7 6) (w.extractLsb' 13 6) (w.extractLsb' 19 6))
  else if w.extractLsb' 25 7 = 0xE#7 then some (.min (w.extractLsb' 7 6) (w.extractLsb' 13 6) (w.extractLsb' 19 6))
  else if w.extractLsb' 25 7 = 0xF#7 then some (.max (w.extractLsb' 7 6) (w.extractLsb' 13 6) (w.extractLsb' 19 6))
  else if w.extractLsb' 25 7 = 0x10#7 then some (.minu (w.extractLsb' 7 6) (w.extractLsb' 13 6) (w.extractLsb' 19 6))
  else if w.extractLsb' 25 7 = 0x11#7 then some (.maxu (w.extractLsb' 7 6) (w.extractLsb' 13 6) (w.extractLsb' 19 6))
  else if w.extractLsb' 25 7 = 0x12#7 then some (.addw (w.extractLsb' 7 6) (w.extractLsb' 13 6) (w.extractLsb' 19 6))
  else if w.extractLsb' 25 7 = 0x13#7 then some (.subw (w.extractLsb' 7 6) (w.extractLsb' 13 6) (w.extractLsb' 19 6))
  else if w.extractLsb' 25 7 = 0x14#7 then some (.adds (w.extractLsb' 7 6) (w.extractLsb' 13 6) (w.extractLsb' 19 6))
  else if w.extractLsb' 25 7 = 0x15#7 then some (.subs (w.extractLsb' 7 6) (w.extractLsb' 13 6) (w.extractLsb' 19 6))
  else if w.extractLsb' 25 7 = 0x16#7 then some (.sllw (w.extractLsb' 7 6) (w.extractLsb' 13 6) (w.extractLsb' 19 6))
  else if w.extractLsb' 25 7 = 0x17#7 then some (.srlw (w.extractLsb' 7 6) (w.extractLsb' 13 6) (w.extractLsb' 19 6))
  else if w.extractLsb' 25 7 = 0x18#7 then some (.sraw (w.extractLsb' 7 6) (w.extractLsb' 13 6) (w.extractLsb' 19 6))
  else none

/-- Major 0x01: ADDI. -/
def major01 (w : BitVec 32) : Option Instr :=
  some (.addi (w.extractLsb' 7 6) (w.extractLsb' 13 6) (w.extractLsb' 19 13))

/-- Major 0x02: ANDI. -/
def major02 (w : BitVec 32) : Option Instr :=
  some (.andi (w.extractLsb' 7 6) (w.extractLsb' 13 6) (w.extractLsb' 19 13))

/-- Major 0x03: ORI. -/
def major03 (w : BitVec 32) : Option Instr :=
  some (.ori (w.extractLsb' 7 6) (w.extractLsb' 13 6) (w.extractLsb' 19 13))

/-- Major 0x04: XORI. -/
def major04 (w : BitVec 32) : Option Instr :=
  some (.xori (w.extractLsb' 7 6) (w.extractLsb' 13 6) (w.extractLsb' 19 13))

/-- Major 0x05: SLLI, SRLI, SRAI, ROTI. -/
def major05 (w : BitVec 32) : Option Instr :=
  if w.extractLsb' 25 7 = 0x0#7 then some (.slli (w.extractLsb' 7 6) (w.extractLsb' 13 6) (w.extractLsb' 19 6))
  else if w.extractLsb' 25 7 = 0x20#7 then some (.srli (w.extractLsb' 7 6) (w.extractLsb' 13 6) (w.extractLsb' 19 6))
  else if w.extractLsb' 25 7 = 0x40#7 then some (.srai (w.extractLsb' 7 6) (w.extractLsb' 13 6) (w.extractLsb' 19 6))
  else if w.extractLsb' 25 7 = 0x60#7 then some (.roti (w.extractLsb' 7 6) (w.extractLsb' 13 6) (w.extractLsb' 19 6))
  else none

/-- Major 0x06: SLTI. -/
def major06 (w : BitVec 32) : Option Instr :=
  some (.slti (w.extractLsb' 7 6) (w.extractLsb' 13 6) (w.extractLsb' 19 13))

/-- Major 0x07: SLTIU. -/
def major07 (w : BitVec 32) : Option Instr :=
  some (.sltiu (w.extractLsb' 7 6) (w.extractLsb' 13 6) (w.extractLsb' 19 13))

/-- Major 0x08: MUL, MULH, MULHU, MULHM, DIV, DIVU, REM, REMU, MULW, DIVW, REMW. -/
def major08 (w : BitVec 32) : Option Instr :=
  if w.extractLsb' 25 7 = 0x0#7 then some (.mul (w.extractLsb' 7 6) (w.extractLsb' 13 6) (w.extractLsb' 19 6))
  else if w.extractLsb' 25 7 = 0x1#7 then some (.mulh (w.extractLsb' 7 6) (w.extractLsb' 13 6) (w.extractLsb' 19 6))
  else if w.extractLsb' 25 7 = 0x2#7 then some (.mulhu (w.extractLsb' 7 6) (w.extractLsb' 13 6) (w.extractLsb' 19 6))
  else if w.extractLsb' 25 7 = 0x3#7 then some (.mulhm (w.extractLsb' 7 6) (w.extractLsb' 13 6) (w.extractLsb' 19 6))
  else if w.extractLsb' 25 7 = 0x4#7 then some (.div (w.extractLsb' 7 6) (w.extractLsb' 13 6) (w.extractLsb' 19 6))
  else if w.extractLsb' 25 7 = 0x5#7 then some (.divu (w.extractLsb' 7 6) (w.extractLsb' 13 6) (w.extractLsb' 19 6))
  else if w.extractLsb' 25 7 = 0x6#7 then some (.rem (w.extractLsb' 7 6) (w.extractLsb' 13 6) (w.extractLsb' 19 6))
  else if w.extractLsb' 25 7 = 0x7#7 then some (.remu (w.extractLsb' 7 6) (w.extractLsb' 13 6) (w.extractLsb' 19 6))
  else if w.extractLsb' 25 7 = 0x8#7 then some (.mulw (w.extractLsb' 7 6) (w.extractLsb' 13 6) (w.extractLsb' 19 6))
  else if w.extractLsb' 25 7 = 0x9#7 then some (.divw (w.extractLsb' 7 6) (w.extractLsb' 13 6) (w.extractLsb' 19 6))
  else if w.extractLsb' 25 7 = 0xA#7 then some (.remw (w.extractLsb' 7 6) (w.extractLsb' 13 6) (w.extractLsb' 19 6))
  else none

/-- Major 0x09: CLZ, CTZ, POPC, BSWAP, SEL, EXT, EXTU, INS. -/
def major09 (w : BitVec 32) : Option Instr :=
  if w.extractLsb' 25 7 = 0x0#7 ∧ w.extractLsb' 19 6 = 0x0#6 then some (.clz (w.extractLsb' 7 6) (w.extractLsb' 13 6))
  else if w.extractLsb' 25 7 = 0x1#7 ∧ w.extractLsb' 19 6 = 0x0#6 then some (.ctz (w.extractLsb' 7 6) (w.extractLsb' 13 6))
  else if w.extractLsb' 25 7 = 0x2#7 ∧ w.extractLsb' 19 6 = 0x0#6 then some (.popc (w.extractLsb' 7 6) (w.extractLsb' 13 6))
  else if w.extractLsb' 25 7 = 0x3#7 ∧ w.extractLsb' 19 6 = 0x0#6 then some (.bswap (w.extractLsb' 7 6) (w.extractLsb' 13 6))
  else if w.extractLsb' 25 7 = 0x4#7 then some (.sel (w.extractLsb' 7 6) (w.extractLsb' 13 6) (w.extractLsb' 19 6))
  else if w.extractLsb' 25 7 = 0x5#7 then some (.ext (w.extractLsb' 7 6) (w.extractLsb' 13 6) (w.extractLsb' 19 6))
  else if w.extractLsb' 25 7 = 0x6#7 then some (.extu (w.extractLsb' 7 6) (w.extractLsb' 13 6) (w.extractLsb' 19 6))
  else if w.extractLsb' 25 7 = 0x7#7 then some (.ins (w.extractLsb' 7 6) (w.extractLsb' 13 6) (w.extractLsb' 19 6))
  else none

/-- Major 0x0A: LUI. -/
def major0A (w : BitVec 32) : Option Instr :=
  some (.lui (w.extractLsb' 7 6) (w.extractLsb' 13 19))

/-- Major 0x0B: ADDPC. -/
def major0B (w : BitVec 32) : Option Instr :=
  some (.addpc (w.extractLsb' 7 6) (w.extractLsb' 13 19))

/-- Major 0x0C: PADD, PSUB, PTAG, PGTAG, PIDX, PBLK, PCHK. -/
def major0C (w : BitVec 32) : Option Instr :=
  if w.extractLsb' 25 7 = 0x0#7 then some (.padd (w.extractLsb' 7 6) (w.extractLsb' 13 6) (w.extractLsb' 19 6))
  else if w.extractLsb' 25 7 = 0x1#7 then some (.psub (w.extractLsb' 7 6) (w.extractLsb' 13 6) (w.extractLsb' 19 6))
  else if w.extractLsb' 25 7 = 0x2#7 then some (.ptag (w.extractLsb' 7 6) (w.extractLsb' 13 6) (w.extractLsb' 19 6))
  else if w.extractLsb' 25 7 = 0x3#7 ∧ w.extractLsb' 19 6 = 0x0#6 then some (.pgtag (w.extractLsb' 7 6) (w.extractLsb' 13 6))
  else if w.extractLsb' 25 7 = 0x4#7 then some (.pidx (w.extractLsb' 7 6) (w.extractLsb' 13 6) (w.extractLsb' 19 6))
  else if w.extractLsb' 25 7 = 0x5#7 then some (.pblk (w.extractLsb' 7 6) (w.extractLsb' 13 6) (w.extractLsb' 19 6))
  else if w.extractLsb' 25 7 = 0x6#7 then some (.pchk (w.extractLsb' 7 6) (w.extractLsb' 13 6) (w.extractLsb' 19 6))
  else none

/-- Major 0x0D: PADDI. -/
def major0D (w : BitVec 32) : Option Instr :=
  some (.paddi (w.extractLsb' 7 6) (w.extractLsb' 13 6) (w.extractLsb' 19 13))

/-- Major 0x0E: RGET, RPUT, IXSET, IXADD, IXGET. -/
def major0E (w : BitVec 32) : Option Instr :=
  if w.extractLsb' 21 11 = 0x0#11 then some (.rget (w.extractLsb' 7 6) (w.extractLsb' 13 6) (w.extractLsb' 19 2))
  else if w.extractLsb' 21 11 = 0x10#11 then some (.rput (w.extractLsb' 7 6) (w.extractLsb' 13 6) (w.extractLsb' 19 2))
  else if w.extractLsb' 21 11 = 0x20#11 ∧ w.extractLsb' 7 6 = 0x0#6 then some (.ixset (w.extractLsb' 13 6) (w.extractLsb' 19 2))
  else if w.extractLsb' 21 11 = 0x30#11 ∧ w.extractLsb' 7 6 = 0x0#6 then some (.ixadd (w.extractLsb' 13 6) (w.extractLsb' 19 2))
  else if w.extractLsb' 21 11 = 0x40#11 ∧ w.extractLsb' 13 6 = 0x0#6 then some (.ixget (w.extractLsb' 7 6) (w.extractLsb' 19 2))
  else none

/-- Major 0x0F: FADD, FSUB, FMUL, FDIV, FSQRT, FMIN, FMAX, FSCPY, FSINV, FSXOR, FEQ, FLT, FLE, FKIND. -/
def major0F (w : BitVec 32) : Option Instr :=
  if w.extractLsb' 25 6 = 0x0#6 then some (.fadd (w.extractLsb' 7 6) (w.extractLsb' 13 6) (w.extractLsb' 19 6) (w.extractLsb' 31 1))
  else if w.extractLsb' 25 6 = 0x1#6 then some (.fsub (w.extractLsb' 7 6) (w.extractLsb' 13 6) (w.extractLsb' 19 6) (w.extractLsb' 31 1))
  else if w.extractLsb' 25 6 = 0x2#6 then some (.fmul (w.extractLsb' 7 6) (w.extractLsb' 13 6) (w.extractLsb' 19 6) (w.extractLsb' 31 1))
  else if w.extractLsb' 25 6 = 0x3#6 then some (.fdiv (w.extractLsb' 7 6) (w.extractLsb' 13 6) (w.extractLsb' 19 6) (w.extractLsb' 31 1))
  else if w.extractLsb' 25 6 = 0x4#6 ∧ w.extractLsb' 19 6 = 0x0#6 then some (.fsqrt (w.extractLsb' 7 6) (w.extractLsb' 13 6) (w.extractLsb' 31 1))
  else if w.extractLsb' 25 6 = 0x5#6 then some (.fmin (w.extractLsb' 7 6) (w.extractLsb' 13 6) (w.extractLsb' 19 6) (w.extractLsb' 31 1))
  else if w.extractLsb' 25 6 = 0x6#6 then some (.fmax (w.extractLsb' 7 6) (w.extractLsb' 13 6) (w.extractLsb' 19 6) (w.extractLsb' 31 1))
  else if w.extractLsb' 25 6 = 0x7#6 then some (.fscpy (w.extractLsb' 7 6) (w.extractLsb' 13 6) (w.extractLsb' 19 6) (w.extractLsb' 31 1))
  else if w.extractLsb' 25 6 = 0x8#6 then some (.fsinv (w.extractLsb' 7 6) (w.extractLsb' 13 6) (w.extractLsb' 19 6) (w.extractLsb' 31 1))
  else if w.extractLsb' 25 6 = 0x9#6 then some (.fsxor (w.extractLsb' 7 6) (w.extractLsb' 13 6) (w.extractLsb' 19 6) (w.extractLsb' 31 1))
  else if w.extractLsb' 25 6 = 0xA#6 then some (.feq (w.extractLsb' 7 6) (w.extractLsb' 13 6) (w.extractLsb' 19 6) (w.extractLsb' 31 1))
  else if w.extractLsb' 25 6 = 0xB#6 then some (.flt (w.extractLsb' 7 6) (w.extractLsb' 13 6) (w.extractLsb' 19 6) (w.extractLsb' 31 1))
  else if w.extractLsb' 25 6 = 0xC#6 then some (.fle (w.extractLsb' 7 6) (w.extractLsb' 13 6) (w.extractLsb' 19 6) (w.extractLsb' 31 1))
  else if w.extractLsb' 25 6 = 0xD#6 ∧ w.extractLsb' 19 6 = 0x0#6 then some (.fkind (w.extractLsb' 7 6) (w.extractLsb' 13 6) (w.extractLsb' 31 1))
  else none

/-- Major 0x10: FCVT. -/
def major10 (w : BitVec 32) : Option Instr :=
  if w.extractLsb' 31 1 = 0x0#1 ∧ w.extractLsb' 23 2 = 0x0#2 then some (.fcvt (w.extractLsb' 7 6) (w.extractLsb' 13 6) (w.extractLsb' 19 3) (w.extractLsb' 22 1) (w.extractLsb' 25 3) (w.extractLsb' 28 3))
  else none

/-- Major 0x11: FFMA. -/
def major11 (w : BitVec 32) : Option Instr :=
  some (.ffma (w.extractLsb' 7 6) (w.extractLsb' 13 6) (w.extractLsb' 19 6) (w.extractLsb' 25 1) (w.extractLsb' 26 6))

/-- Major 0x12: BEQ. -/
def major12 (w : BitVec 32) : Option Instr :=
  some (.beq (w.extractLsb' 7 6) (w.extractLsb' 13 6) (w.extractLsb' 19 13))

/-- Major 0x13: BNE. -/
def major13 (w : BitVec 32) : Option Instr :=
  some (.bne (w.extractLsb' 7 6) (w.extractLsb' 13 6) (w.extractLsb' 19 13))

/-- Major 0x14: BLT. -/
def major14 (w : BitVec 32) : Option Instr :=
  some (.blt (w.extractLsb' 7 6) (w.extractLsb' 13 6) (w.extractLsb' 19 13))

/-- Major 0x15: BGE. -/
def major15 (w : BitVec 32) : Option Instr :=
  some (.bge (w.extractLsb' 7 6) (w.extractLsb' 13 6) (w.extractLsb' 19 13))

/-- Major 0x16: BLTU. -/
def major16 (w : BitVec 32) : Option Instr :=
  some (.bltu (w.extractLsb' 7 6) (w.extractLsb' 13 6) (w.extractLsb' 19 13))

/-- Major 0x17: BGEU. -/
def major17 (w : BitVec 32) : Option Instr :=
  some (.bgeu (w.extractLsb' 7 6) (w.extractLsb' 13 6) (w.extractLsb' 19 13))

/-- Major 0x18: J. -/
def major18 (w : BitVec 32) : Option Instr :=
  some (.j (w.extractLsb' 7 25))

/-- Major 0x19: JAL. -/
def major19 (w : BitVec 32) : Option Instr :=
  some (.jal (w.extractLsb' 7 25))

/-- Major 0x1A: JALR. -/
def major1A (w : BitVec 32) : Option Instr :=
  some (.jalr (w.extractLsb' 7 6) (w.extractLsb' 13 6) (w.extractLsb' 19 13))

/-- Major 0x1B: LOOP. -/
def major1B (w : BitVec 32) : Option Instr :=
  some (.loop (w.extractLsb' 7 6) (w.extractLsb' 13 6) (w.extractLsb' 19 13))

/-- Major 0x1C: LD. -/
def major1C (w : BitVec 32) : Option Instr :=
  some (.ld (w.extractLsb' 7 6) (w.extractLsb' 13 6) (w.extractLsb' 19 2) (w.extractLsb' 21 3) (w.extractLsb' 24 8))

/-- Major 0x1D: LDU. -/
def major1D (w : BitVec 32) : Option Instr :=
  some (.ldu (w.extractLsb' 7 6) (w.extractLsb' 13 6) (w.extractLsb' 19 2) (w.extractLsb' 21 3) (w.extractLsb' 24 8))

/-- Major 0x1E: ST. -/
def major1E (w : BitVec 32) : Option Instr :=
  some (.st (w.extractLsb' 7 6) (w.extractLsb' 13 6) (w.extractLsb' 19 2) (w.extractLsb' 21 3) (w.extractLsb' 24 8))

/-- Major 0x1F: LDX, LDUX, STX. -/
def major1F (w : BitVec 32) : Option Instr :=
  if w.extractLsb' 30 2 = 0x0#2 then some (.ldx (w.extractLsb' 7 6) (w.extractLsb' 13 6) (w.extractLsb' 19 6) (w.extractLsb' 25 3) (w.extractLsb' 28 2))
  else if w.extractLsb' 30 2 = 0x1#2 then some (.ldux (w.extractLsb' 7 6) (w.extractLsb' 13 6) (w.extractLsb' 19 6) (w.extractLsb' 25 3) (w.extractLsb' 28 2))
  else if w.extractLsb' 30 2 = 0x2#2 then some (.stx (w.extractLsb' 7 6) (w.extractLsb' 13 6) (w.extractLsb' 19 6) (w.extractLsb' 25 3) (w.extractLsb' 28 2))
  else none

/-- Major 0x20: PST. -/
def major20 (w : BitVec 32) : Option Instr :=
  some (.pst (w.extractLsb' 7 6) (w.extractLsb' 13 6) (w.extractLsb' 19 2) (w.extractLsb' 21 3) (w.extractLsb' 24 8))

/-- Major 0x21: LDV. -/
def major21 (w : BitVec 32) : Option Instr :=
  if w.extractLsb' 19 2 = 0x0#2 then some (.ldv (w.extractLsb' 7 6) (w.extractLsb' 13 6) (w.extractLsb' 21 3) (w.extractLsb' 24 8))
  else none

/-- Major 0x22: STV. -/
def major22 (w : BitVec 32) : Option Instr :=
  if w.extractLsb' 19 2 = 0x0#2 then some (.stv (w.extractLsb' 7 6) (w.extractLsb' 13 6) (w.extractLsb' 21 3) (w.extractLsb' 24 8))
  else none

/-- Major 0x23: VLDS, VSTS, VGATH, VSCAT, VLDB. -/
def major23 (w : BitVec 32) : Option Instr :=
  if w.extractLsb' 25 3 = 0x0#3 then some (.vlds (w.extractLsb' 7 6) (w.extractLsb' 13 6) (w.extractLsb' 19 6) (w.extractLsb' 28 2) (w.extractLsb' 30 2))
  else if w.extractLsb' 25 3 = 0x1#3 then some (.vsts (w.extractLsb' 7 6) (w.extractLsb' 13 6) (w.extractLsb' 19 6) (w.extractLsb' 28 2) (w.extractLsb' 30 2))
  else if w.extractLsb' 25 3 = 0x2#3 then some (.vgath (w.extractLsb' 7 6) (w.extractLsb' 13 6) (w.extractLsb' 19 6) (w.extractLsb' 28 2) (w.extractLsb' 30 2))
  else if w.extractLsb' 25 3 = 0x3#3 then some (.vscat (w.extractLsb' 7 6) (w.extractLsb' 13 6) (w.extractLsb' 19 6) (w.extractLsb' 28 2) (w.extractLsb' 30 2))
  else if w.extractLsb' 25 3 = 0x4#3 ∧ w.extractLsb' 19 6 = 0x0#6 then some (.vldb (w.extractLsb' 7 6) (w.extractLsb' 13 6) (w.extractLsb' 28 2) (w.extractLsb' 30 2))
  else none

/-- Major 0x24: AMOADD, AMOAND, AMOOR, AMOXOR, AMOMIN, AMOMAX, AMOSWP, AMOFADD. -/
def major24 (w : BitVec 32) : Option Instr :=
  if w.extractLsb' 25 3 = 0x0#3 then some (.amoadd (w.extractLsb' 7 6) (w.extractLsb' 13 6) (w.extractLsb' 19 6) (w.extractLsb' 28 2) (w.extractLsb' 30 2))
  else if w.extractLsb' 25 3 = 0x1#3 then some (.amoand (w.extractLsb' 7 6) (w.extractLsb' 13 6) (w.extractLsb' 19 6) (w.extractLsb' 28 2) (w.extractLsb' 30 2))
  else if w.extractLsb' 25 3 = 0x2#3 then some (.amoor (w.extractLsb' 7 6) (w.extractLsb' 13 6) (w.extractLsb' 19 6) (w.extractLsb' 28 2) (w.extractLsb' 30 2))
  else if w.extractLsb' 25 3 = 0x3#3 then some (.amoxor (w.extractLsb' 7 6) (w.extractLsb' 13 6) (w.extractLsb' 19 6) (w.extractLsb' 28 2) (w.extractLsb' 30 2))
  else if w.extractLsb' 25 3 = 0x4#3 then some (.amomin (w.extractLsb' 7 6) (w.extractLsb' 13 6) (w.extractLsb' 19 6) (w.extractLsb' 28 2) (w.extractLsb' 30 2))
  else if w.extractLsb' 25 3 = 0x5#3 then some (.amomax (w.extractLsb' 7 6) (w.extractLsb' 13 6) (w.extractLsb' 19 6) (w.extractLsb' 28 2) (w.extractLsb' 30 2))
  else if w.extractLsb' 25 3 = 0x6#3 then some (.amoswp (w.extractLsb' 7 6) (w.extractLsb' 13 6) (w.extractLsb' 19 6) (w.extractLsb' 28 2) (w.extractLsb' 30 2))
  else if w.extractLsb' 25 3 = 0x7#3 then some (.amofadd (w.extractLsb' 7 6) (w.extractLsb' 13 6) (w.extractLsb' 19 6) (w.extractLsb' 28 2) (w.extractLsb' 30 2))
  else none

/-- Major 0x25: CAS, CAS2. -/
def major25 (w : BitVec 32) : Option Instr :=
  if w.extractLsb' 30 2 = 0x0#2 ∧ w.extractLsb' 25 1 = 0x0#1 then some (.cas (w.extractLsb' 7 6) (w.extractLsb' 13 6) (w.extractLsb' 19 6) (w.extractLsb' 26 2) (w.extractLsb' 28 2))
  else if w.extractLsb' 30 2 = 0x0#2 ∧ w.extractLsb' 28 2 = 0x3#2 ∧ w.extractLsb' 25 1 = 0x1#1 then some (.cas2 (w.extractLsb' 7 6) (w.extractLsb' 13 6) (w.extractLsb' 19 6) (w.extractLsb' 26 2))
  else none

/-- Major 0x26: FENCE. -/
def major26 (w : BitVec 32) : Option Instr :=
  if w.extractLsb' 24 8 = 0x0#8 ∧ w.extractLsb' 7 12 = 0x0#12 then some (.fence (w.extractLsb' 19 3) (w.extractLsb' 22 2))
  else none

/-- Major 0x27: PREF. -/
def major27 (w : BitVec 32) : Option Instr :=
  if w.extractLsb' 19 5 = 0x18#5 then some (.pref (w.extractLsb' 7 6) (w.extractLsb' 13 6) (w.extractLsb' 24 8))
  else none

/-- Major 0x28: VADD, VSUB, VMUL, VMULH, VAND, VOR, VXOR, VSLL, VSRL, VSRA, VMIN, VMAX, VMINU, VMAXU, VADDS, VSUBS, VABSD, VDOT4. -/
def major28 (w : BitVec 32) : Option Instr :=
  if w.extractLsb' 25 5 = 0x0#5 then some (.vadd (w.extractLsb' 7 6) (w.extractLsb' 13 6) (w.extractLsb' 19 6) (w.extractLsb' 30 2))
  else if w.extractLsb' 25 5 = 0x1#5 then some (.vsub (w.extractLsb' 7 6) (w.extractLsb' 13 6) (w.extractLsb' 19 6) (w.extractLsb' 30 2))
  else if w.extractLsb' 25 5 = 0x2#5 then some (.vmul (w.extractLsb' 7 6) (w.extractLsb' 13 6) (w.extractLsb' 19 6) (w.extractLsb' 30 2))
  else if w.extractLsb' 25 5 = 0x3#5 then some (.vmulh (w.extractLsb' 7 6) (w.extractLsb' 13 6) (w.extractLsb' 19 6) (w.extractLsb' 30 2))
  else if w.extractLsb' 25 5 = 0x4#5 then some (.vand (w.extractLsb' 7 6) (w.extractLsb' 13 6) (w.extractLsb' 19 6) (w.extractLsb' 30 2))
  else if w.extractLsb' 25 5 = 0x5#5 then some (.vor (w.extractLsb' 7 6) (w.extractLsb' 13 6) (w.extractLsb' 19 6) (w.extractLsb' 30 2))
  else if w.extractLsb' 25 5 = 0x6#5 then some (.vxor (w.extractLsb' 7 6) (w.extractLsb' 13 6) (w.extractLsb' 19 6) (w.extractLsb' 30 2))
  else if w.extractLsb' 25 5 = 0x7#5 then some (.vsll (w.extractLsb' 7 6) (w.extractLsb' 13 6) (w.extractLsb' 19 6) (w.extractLsb' 30 2))
  else if w.extractLsb' 25 5 = 0x8#5 then some (.vsrl (w.extractLsb' 7 6) (w.extractLsb' 13 6) (w.extractLsb' 19 6) (w.extractLsb' 30 2))
  else if w.extractLsb' 25 5 = 0x9#5 then some (.vsra (w.extractLsb' 7 6) (w.extractLsb' 13 6) (w.extractLsb' 19 6) (w.extractLsb' 30 2))
  else if w.extractLsb' 25 5 = 0xA#5 then some (.vmin (w.extractLsb' 7 6) (w.extractLsb' 13 6) (w.extractLsb' 19 6) (w.extractLsb' 30 2))
  else if w.extractLsb' 25 5 = 0xB#5 then some (.vmax (w.extractLsb' 7 6) (w.extractLsb' 13 6) (w.extractLsb' 19 6) (w.extractLsb' 30 2))
  else if w.extractLsb' 25 5 = 0xC#5 then some (.vminu (w.extractLsb' 7 6) (w.extractLsb' 13 6) (w.extractLsb' 19 6) (w.extractLsb' 30 2))
  else if w.extractLsb' 25 5 = 0xD#5 then some (.vmaxu (w.extractLsb' 7 6) (w.extractLsb' 13 6) (w.extractLsb' 19 6) (w.extractLsb' 30 2))
  else if w.extractLsb' 25 5 = 0xE#5 then some (.vadds (w.extractLsb' 7 6) (w.extractLsb' 13 6) (w.extractLsb' 19 6) (w.extractLsb' 30 2))
  else if w.extractLsb' 25 5 = 0xF#5 then some (.vsubs (w.extractLsb' 7 6) (w.extractLsb' 13 6) (w.extractLsb' 19 6) (w.extractLsb' 30 2))
  else if w.extractLsb' 25 5 = 0x10#5 then some (.vabsd (w.extractLsb' 7 6) (w.extractLsb' 13 6) (w.extractLsb' 19 6) (w.extractLsb' 30 2))
  else if w.extractLsb' 30 2 = 0x2#2 ∧ w.extractLsb' 25 5 = 0x11#5 then some (.vdot4 (w.extractLsb' 7 6) (w.extractLsb' 13 6) (w.extractLsb' 19 6))
  else none

/-- Major 0x29: VFADD, VFSUB, VFMUL, VFMIN, VFMAX, VFABS, VFNEG, VFDIV. -/
def major29 (w : BitVec 32) : Option Instr :=
  if w.extractLsb' 25 5 = 0x0#5 then some (.vfadd (w.extractLsb' 7 6) (w.extractLsb' 13 6) (w.extractLsb' 19 6) (w.extractLsb' 30 2))
  else if w.extractLsb' 25 5 = 0x1#5 then some (.vfsub (w.extractLsb' 7 6) (w.extractLsb' 13 6) (w.extractLsb' 19 6) (w.extractLsb' 30 2))
  else if w.extractLsb' 25 5 = 0x2#5 then some (.vfmul (w.extractLsb' 7 6) (w.extractLsb' 13 6) (w.extractLsb' 19 6) (w.extractLsb' 30 2))
  else if w.extractLsb' 25 5 = 0x3#5 then some (.vfmin (w.extractLsb' 7 6) (w.extractLsb' 13 6) (w.extractLsb' 19 6) (w.extractLsb' 30 2))
  else if w.extractLsb' 25 5 = 0x4#5 then some (.vfmax (w.extractLsb' 7 6) (w.extractLsb' 13 6) (w.extractLsb' 19 6) (w.extractLsb' 30 2))
  else if w.extractLsb' 25 5 = 0x5#5 ∧ w.extractLsb' 19 6 = 0x0#6 then some (.vfabs (w.extractLsb' 7 6) (w.extractLsb' 13 6) (w.extractLsb' 30 2))
  else if w.extractLsb' 25 5 = 0x6#5 ∧ w.extractLsb' 19 6 = 0x0#6 then some (.vfneg (w.extractLsb' 7 6) (w.extractLsb' 13 6) (w.extractLsb' 30 2))
  else if w.extractLsb' 25 5 = 0x7#5 then some (.vfdiv (w.extractLsb' 7 6) (w.extractLsb' 13 6) (w.extractLsb' 19 6) (w.extractLsb' 30 2))
  else none

/-- Major 0x2A: VFMA. -/
def major2A (w : BitVec 32) : Option Instr :=
  some (.vfma (w.extractLsb' 7 6) (w.extractLsb' 13 6) (w.extractLsb' 19 6) (w.extractLsb' 25 1) (w.extractLsb' 26 6))

/-- Major 0x2B: VCVT, VQNT, VDQNT, VECFD, VECFE. -/
def major2B (w : BitVec 32) : Option Instr :=
  if w.extractLsb' 25 3 = 0x0#3 ∧ w.extractLsb' 23 2 = 0x0#2 then some (.vcvt (w.extractLsb' 7 6) (w.extractLsb' 13 6) (w.extractLsb' 19 3) (w.extractLsb' 22 1) (w.extractLsb' 28 4))
  else if w.extractLsb' 25 3 = 0x1#3 then some (.vqnt (w.extractLsb' 7 6) (w.extractLsb' 13 6) (w.extractLsb' 19 6) (w.extractLsb' 28 1) (w.extractLsb' 29 3))
  else if w.extractLsb' 29 3 = 0x0#3 ∧ w.extractLsb' 25 3 = 0x2#3 then some (.vdqnt (w.extractLsb' 7 6) (w.extractLsb' 13 6) (w.extractLsb' 19 6) (w.extractLsb' 28 1))
  else if w.extractLsb' 25 3 = 0x3#3 ∧ w.extractLsb' 19 6 = 0x0#6 then some (.vecfd (w.extractLsb' 7 6) (w.extractLsb' 13 6) (w.extractLsb' 28 1) (w.extractLsb' 29 3))
  else if w.extractLsb' 25 3 = 0x4#3 ∧ w.extractLsb' 19 6 = 0x0#6 then some (.vecfe (w.extractLsb' 7 6) (w.extractLsb' 13 6) (w.extractLsb' 28 1) (w.extractLsb' 29 3))
  else none

/-- Major 0x2C: VBCAST, VMOVGV, VMOVVG, VPERM, VRED, VSLIDE, VSEL. -/
def major2C (w : BitVec 32) : Option Instr :=
  if w.extractLsb' 30 2 = 0x0#2 ∧ w.extractLsb' 25 3 = 0x0#3 ∧ w.extractLsb' 19 6 = 0x0#6 then some (.vbcast (w.extractLsb' 7 6) (w.extractLsb' 13 6) (w.extractLsb' 28 2))
  else if w.extractLsb' 30 2 = 0x0#2 ∧ w.extractLsb' 25 3 = 0x1#3 then some (.vmovgv (w.extractLsb' 7 6) (w.extractLsb' 13 6) (w.extractLsb' 19 6) (w.extractLsb' 28 2))
  else if w.extractLsb' 30 2 = 0x0#2 ∧ w.extractLsb' 25 3 = 0x2#3 then some (.vmovvg (w.extractLsb' 7 6) (w.extractLsb' 13 6) (w.extractLsb' 19 6) (w.extractLsb' 28 2))
  else if w.extractLsb' 28 4 = 0x0#4 ∧ w.extractLsb' 25 3 = 0x3#3 then some (.vperm (w.extractLsb' 7 6) (w.extractLsb' 13 6) (w.extractLsb' 19 6))
  else if w.extractLsb' 25 3 = 0x4#3 ∧ w.extractLsb' 19 6 = 0x0#6 then some (.vred (w.extractLsb' 7 6) (w.extractLsb' 13 6) (w.extractLsb' 28 2) (w.extractLsb' 30 2))
  else if w.extractLsb' 30 2 = 0x0#2 ∧ w.extractLsb' 25 3 = 0x5#3 then some (.vslide (w.extractLsb' 7 6) (w.extractLsb' 13 6) (w.extractLsb' 19 6) (w.extractLsb' 28 2))
  else if w.extractLsb' 25 3 = 0x6#3 then some (.vsel (w.extractLsb' 7 6) (w.extractLsb' 13 6) (w.extractLsb' 19 6) (w.extractLsb' 28 2) (w.extractLsb' 30 2))
  else none

/-- Major 0x2D: VRCP, VRSQ, VEXP2, VLOG2, VTANH. -/
def major2D (w : BitVec 32) : Option Instr :=
  if w.extractLsb' 30 2 = 0x0#2 ∧ w.extractLsb' 19 9 = 0x0#9 then some (.vrcp (w.extractLsb' 7 6) (w.extractLsb' 13 6) (w.extractLsb' 28 2))
  else if w.extractLsb' 30 2 = 0x0#2 ∧ w.extractLsb' 19 9 = 0x40#9 then some (.vrsq (w.extractLsb' 7 6) (w.extractLsb' 13 6) (w.extractLsb' 28 2))
  else if w.extractLsb' 30 2 = 0x0#2 ∧ w.extractLsb' 19 9 = 0x80#9 then some (.vexp2 (w.extractLsb' 7 6) (w.extractLsb' 13 6) (w.extractLsb' 28 2))
  else if w.extractLsb' 30 2 = 0x0#2 ∧ w.extractLsb' 19 9 = 0xC0#9 then some (.vlog2 (w.extractLsb' 7 6) (w.extractLsb' 13 6) (w.extractLsb' 28 2))
  else if w.extractLsb' 30 2 = 0x0#2 ∧ w.extractLsb' 19 9 = 0x100#9 then some (.vtanh (w.extractLsb' 7 6) (w.extractLsb' 13 6) (w.extractLsb' 28 2))
  else none

/-- Major 0x2E: VCMP, MAND, MOR, MXOR, MNOT, MCNT, MSET. -/
def major2E (w : BitVec 32) : Option Instr :=
  if w.extractLsb' 25 3 = 0x0#3 then some (.vcmp (w.extractLsb' 7 3) (w.extractLsb' 10 3) (w.extractLsb' 13 6) (w.extractLsb' 19 6) (w.extractLsb' 28 4))
  else if w.extractLsb' 28 4 = 0x0#4 ∧ w.extractLsb' 25 3 = 0x1#3 then some (.mand (w.extractLsb' 7 6) (w.extractLsb' 13 6) (w.extractLsb' 19 6))
  else if w.extractLsb' 28 4 = 0x0#4 ∧ w.extractLsb' 25 3 = 0x2#3 then some (.mor (w.extractLsb' 7 6) (w.extractLsb' 13 6) (w.extractLsb' 19 6))
  else if w.extractLsb' 28 4 = 0x0#4 ∧ w.extractLsb' 25 3 = 0x3#3 then some (.mxor (w.extractLsb' 7 6) (w.extractLsb' 13 6) (w.extractLsb' 19 6))
  else if w.extractLsb' 28 4 = 0x0#4 ∧ w.extractLsb' 25 3 = 0x4#3 ∧ w.extractLsb' 19 6 = 0x0#6 then some (.mnot (w.extractLsb' 7 6) (w.extractLsb' 13 6))
  else if w.extractLsb' 29 3 = 0x0#3 ∧ w.extractLsb' 25 3 = 0x5#3 ∧ w.extractLsb' 19 6 = 0x0#6 then some (.mcnt (w.extractLsb' 7 6) (w.extractLsb' 13 6) (w.extractLsb' 28 1))
  else if w.extractLsb' 28 4 = 0x0#4 ∧ w.extractLsb' 25 3 = 0x6#3 ∧ w.extractLsb' 19 6 = 0x0#6 then some (.mset (w.extractLsb' 7 6) (w.extractLsb' 13 6))
  else none

/-- Major 0x2F: GANG, XCHG, GBCAST, GSTAT, UNGANG. -/
def major2F (w : BitVec 32) : Option Instr :=
  if w.extractLsb' 24 8 = 0x0#8 ∧ w.extractLsb' 22 2 = 0x0#2 ∧ w.extractLsb' 19 3 = 0x0#3 then some (.gang (w.extractLsb' 7 6) (w.extractLsb' 13 6))
  else if w.extractLsb' 24 8 = 0x0#8 ∧ w.extractLsb' 19 3 = 0x2#3 then some (.xchg (w.extractLsb' 7 6) (w.extractLsb' 13 6) (w.extractLsb' 22 2))
  else if w.extractLsb' 24 8 = 0x0#8 ∧ w.extractLsb' 23 1 = 0x0#1 ∧ w.extractLsb' 19 3 = 0x3#3 then some (.gbcast (w.extractLsb' 7 6) (w.extractLsb' 13 6) (w.extractLsb' 22 1))
  else if w.extractLsb' 24 8 = 0x0#8 ∧ w.extractLsb' 22 2 = 0x0#2 ∧ w.extractLsb' 19 3 = 0x4#3 then some (.gstat (w.extractLsb' 7 6) (w.extractLsb' 13 6))
  else if w.extractLsb' 24 8 = 0x0#8 ∧ w.extractLsb' 22 2 = 0x0#2 ∧ w.extractLsb' 19 3 = 0x1#3 ∧ w.extractLsb' 7 12 = 0x0#12 then some (.ungang)
  else none

/-- Major 0x30: MPUSH, MPOP, MWAIT, MSTAT, MSPLIT. -/
def major30 (w : BitVec 32) : Option Instr :=
  if w.extractLsb' 19 13 = 0x0#13 then some (.mpush (w.extractLsb' 7 6) (w.extractLsb' 13 6))
  else if w.extractLsb' 19 13 = 0x1#13 ∧ w.extractLsb' 13 6 = 0x0#6 then some (.mpop (w.extractLsb' 7 6))
  else if w.extractLsb' 19 13 = 0x2#13 then some (.mwait (w.extractLsb' 7 6) (w.extractLsb' 13 6))
  else if w.extractLsb' 19 13 = 0x3#13 then some (.mstat (w.extractLsb' 7 6) (w.extractLsb' 13 6))
  else if w.extractLsb' 19 13 = 0x4#13 ∧ w.extractLsb' 7 6 = 0x0#6 then some (.msplit (w.extractLsb' 13 6))
  else none

/-- Major 0x31: RGDEF, RGPUSH, RGSTAT, RGRST. -/
def major31 (w : BitVec 32) : Option Instr :=
  if w.extractLsb' 24 8 = 0x0#8 ∧ w.extractLsb' 19 3 = 0x0#3 ∧ w.extractLsb' 7 6 = 0x0#6 then some (.rgdef (w.extractLsb' 13 6) (w.extractLsb' 22 2))
  else if w.extractLsb' 24 8 = 0x0#8 ∧ w.extractLsb' 19 3 = 0x1#3 ∧ w.extractLsb' 7 6 = 0x0#6 then some (.rgpush (w.extractLsb' 13 6) (w.extractLsb' 22 2))
  else if w.extractLsb' 24 8 = 0x0#8 ∧ w.extractLsb' 19 3 = 0x2#3 ∧ w.extractLsb' 13 6 = 0x0#6 then some (.rgstat (w.extractLsb' 7 6) (w.extractLsb' 22 2))
  else if w.extractLsb' 24 8 = 0x0#8 ∧ w.extractLsb' 19 3 = 0x3#3 ∧ w.extractLsb' 7 12 = 0x0#12 then some (.rgrst (w.extractLsb' 22 2))
  else none

/-- Major 0x32: QPUSH, QPOP, QPEEK, QTRY, QTRYP, QBIND, QSTAT. -/
def major32 (w : BitVec 32) : Option Instr :=
  if w.extractLsb' 26 6 = 0x0#6 ∧ w.extractLsb' 19 3 = 0x0#3 ∧ w.extractLsb' 7 6 = 0x0#6 then some (.qpush (w.extractLsb' 13 6) (w.extractLsb' 22 4))
  else if w.extractLsb' 26 6 = 0x0#6 ∧ w.extractLsb' 19 3 = 0x1#3 ∧ w.extractLsb' 13 6 = 0x0#6 then some (.qpop (w.extractLsb' 7 6) (w.extractLsb' 22 4))
  else if w.extractLsb' 26 6 = 0x0#6 ∧ w.extractLsb' 19 3 = 0x2#3 ∧ w.extractLsb' 13 6 = 0x0#6 then some (.qpeek (w.extractLsb' 7 6) (w.extractLsb' 22 4))
  else if w.extractLsb' 26 6 = 0x0#6 ∧ w.extractLsb' 19 3 = 0x3#3 then some (.qtry (w.extractLsb' 7 6) (w.extractLsb' 13 6) (w.extractLsb' 22 4))
  else if w.extractLsb' 26 6 = 0x0#6 ∧ w.extractLsb' 19 3 = 0x4#3 then some (.qtryp (w.extractLsb' 7 6) (w.extractLsb' 13 6) (w.extractLsb' 22 4))
  else if w.extractLsb' 26 6 = 0x0#6 ∧ w.extractLsb' 19 3 = 0x5#3 ∧ w.extractLsb' 7 6 = 0x0#6 then some (.qbind (w.extractLsb' 13 6) (w.extractLsb' 22 4))
  else if w.extractLsb' 26 6 = 0x0#6 ∧ w.extractLsb' 19 3 = 0x6#3 ∧ w.extractLsb' 13 6 = 0x0#6 then some (.qstat (w.extractLsb' 7 6) (w.extractLsb' 22 4))
  else none

/-- Major 0x33: SOPEN, SCLOSE, SSTAT. -/
def major33 (w : BitVec 32) : Option Instr :=
  if w.extractLsb' 25 7 = 0x0#7 ∧ w.extractLsb' 19 3 = 0x0#3 then some (.sopen (w.extractLsb' 7 6) (w.extractLsb' 13 6) (w.extractLsb' 22 3))
  else if w.extractLsb' 25 7 = 0x0#7 ∧ w.extractLsb' 19 3 = 0x1#3 ∧ w.extractLsb' 7 12 = 0x0#12 then some (.sclose (w.extractLsb' 22 3))
  else if w.extractLsb' 25 7 = 0x0#7 ∧ w.extractLsb' 19 3 = 0x2#3 ∧ w.extractLsb' 13 6 = 0x0#6 then some (.sstat (w.extractLsb' 7 6) (w.extractLsb' 22 3))
  else none

/-- Major 0x34: SEND, SEND4, SEND1, REPLY. -/
def major34 (w : BitVec 32) : Option Instr :=
  if w.extractLsb' 19 13 = 0x0#13 then some (.send (w.extractLsb' 7 6) (w.extractLsb' 13 6))
  else if w.extractLsb' 19 13 = 0x1#13 then some (.send4 (w.extractLsb' 7 6) (w.extractLsb' 13 6))
  else if w.extractLsb' 19 13 = 0x2#13 then some (.send1 (w.extractLsb' 7 6) (w.extractLsb' 13 6))
  else if w.extractLsb' 19 13 = 0x3#13 then some (.reply (w.extractLsb' 7 6) (w.extractLsb' 13 6))
  else none

/-- Major 0x35: MBXDEF, BIND, UNBIND, SUSPEND, RESUMEC, RECV, DONE. -/
def major35 (w : BitVec 32) : Option Instr :=
  if w.extractLsb' 29 3 = 0x0#3 ∧ w.extractLsb' 25 4 = 0x0#4 ∧ w.extractLsb' 19 3 = 0x0#3 ∧ w.extractLsb' 7 6 = 0x0#6 then some (.mbxdef (w.extractLsb' 13 6) (w.extractLsb' 22 3))
  else if w.extractLsb' 29 3 = 0x0#3 ∧ w.extractLsb' 19 3 = 0x1#3 ∧ w.extractLsb' 7 6 = 0x0#6 then some (.bind (w.extractLsb' 13 6) (w.extractLsb' 22 3) (w.extractLsb' 25 4))
  else if w.extractLsb' 29 3 = 0x0#3 ∧ w.extractLsb' 19 3 = 0x2#3 ∧ w.extractLsb' 7 12 = 0x0#12 then some (.unbind (w.extractLsb' 22 3) (w.extractLsb' 25 4))
  else if w.extractLsb' 29 3 = 0x0#3 ∧ w.extractLsb' 22 7 = 0x0#7 ∧ w.extractLsb' 19 3 = 0x4#3 ∧ w.extractLsb' 7 6 = 0x0#6 then some (.suspend (w.extractLsb' 13 6))
  else if w.extractLsb' 29 3 = 0x0#3 ∧ w.extractLsb' 25 4 = 0x0#4 ∧ w.extractLsb' 19 3 = 0x5#3 then some (.resumec (w.extractLsb' 7 6) (w.extractLsb' 13 6) (w.extractLsb' 22 3))
  else if w.extractLsb' 29 3 = 0x0#3 ∧ w.extractLsb' 25 4 = 0x0#4 ∧ w.extractLsb' 19 3 = 0x6#3 ∧ w.extractLsb' 13 6 = 0x0#6 then some (.recv (w.extractLsb' 7 6) (w.extractLsb' 22 3))
  else if w.extractLsb' 29 3 = 0x0#3 ∧ w.extractLsb' 22 7 = 0x0#7 ∧ w.extractLsb' 19 3 = 0x3#3 ∧ w.extractLsb' 7 12 = 0x0#12 then some (.done)
  else none

/-- Major 0x36: XFER, XMCAST, XFREE, XWAIT, XSTAT, XRET. -/
def major36 (w : BitVec 32) : Option Instr :=
  if w.extractLsb' 19 13 = 0x0#13 then some (.xfer (w.extractLsb' 7 6) (w.extractLsb' 13 6))
  else if w.extractLsb' 19 13 = 0x1#13 then some (.xmcast (w.extractLsb' 7 6) (w.extractLsb' 13 6))
  else if w.extractLsb' 19 13 = 0x2#13 ∧ w.extractLsb' 7 6 = 0x0#6 then some (.xfree (w.extractLsb' 13 6))
  else if w.extractLsb' 19 13 = 0x3#13 then some (.xwait (w.extractLsb' 7 6) (w.extractLsb' 13 6))
  else if w.extractLsb' 19 13 = 0x4#13 then some (.xstat (w.extractLsb' 7 6) (w.extractLsb' 13 6))
  else if w.extractLsb' 19 13 = 0x5#13 ∧ w.extractLsb' 7 12 = 0x0#12 then some (.xret)
  else none

/-- Major 0x37: RFORK, JOIN, KLAUNCH, KSTAT, DLGET, WRAPDONE, BUDGET. -/
def major37 (w : BitVec 32) : Option Instr :=
  if w.extractLsb' 19 13 = 0x0#13 ∧ w.extractLsb' 7 6 = 0x0#6 then some (.rfork (w.extractLsb' 13 6))
  else if w.extractLsb' 19 13 = 0x1#13 ∧ w.extractLsb' 7 6 = 0x0#6 then some (.join (w.extractLsb' 13 6))
  else if w.extractLsb' 19 13 = 0x2#13 then some (.klaunch (w.extractLsb' 7 6) (w.extractLsb' 13 6))
  else if w.extractLsb' 19 13 = 0x3#13 then some (.kstat (w.extractLsb' 7 6) (w.extractLsb' 13 6))
  else if w.extractLsb' 19 13 = 0x4#13 then some (.dlget (w.extractLsb' 7 6) (w.extractLsb' 13 6))
  else if w.extractLsb' 19 13 = 0x5#13 ∧ w.extractLsb' 7 6 = 0x0#6 then some (.wrapdone (w.extractLsb' 13 6))
  else if w.extractLsb' 19 13 = 0x6#13 then some (.budget (w.extractLsb' 7 6) (w.extractLsb' 13 6))
  else none

/-- Major 0x38: BARINIT, BARARR, BARWAIT, BARARW, BARTEST. -/
def major38 (w : BitVec 32) : Option Instr :=
  if w.extractLsb' 28 4 = 0x0#4 ∧ w.extractLsb' 19 3 = 0x0#3 then some (.barinit (w.extractLsb' 7 6) (w.extractLsb' 13 6) (w.extractLsb' 22 2) (w.extractLsb' 24 4))
  else if w.extractLsb' 28 4 = 0x0#4 ∧ w.extractLsb' 19 3 = 0x1#3 then some (.bararr (w.extractLsb' 7 6) (w.extractLsb' 13 6) (w.extractLsb' 22 2) (w.extractLsb' 24 4))
  else if w.extractLsb' 28 4 = 0x0#4 ∧ w.extractLsb' 19 3 = 0x2#3 then some (.barwait (w.extractLsb' 7 6) (w.extractLsb' 13 6) (w.extractLsb' 22 2) (w.extractLsb' 24 4))
  else if w.extractLsb' 28 4 = 0x0#4 ∧ w.extractLsb' 19 3 = 0x3#3 then some (.bararw (w.extractLsb' 7 6) (w.extractLsb' 13 6) (w.extractLsb' 22 2) (w.extractLsb' 24 4))
  else if w.extractLsb' 28 4 = 0x0#4 ∧ w.extractLsb' 19 3 = 0x4#3 then some (.bartest (w.extractLsb' 7 6) (w.extractLsb' 13 6) (w.extractLsb' 22 2) (w.extractLsb' 24 4))
  else none

/-- Major 0x39: SHGET, SHSLICE, SHREC, SHFENCE. -/
def major39 (w : BitVec 32) : Option Instr :=
  if w.extractLsb' 25 7 = 0x0#7 ∧ w.extractLsb' 19 3 = 0x0#3 then some (.shget (w.extractLsb' 7 6) (w.extractLsb' 13 6) (w.extractLsb' 22 3))
  else if w.extractLsb' 25 7 = 0x0#7 ∧ w.extractLsb' 19 3 = 0x1#3 ∧ w.extractLsb' 13 6 = 0x0#6 then some (.shslice (w.extractLsb' 7 6) (w.extractLsb' 22 3))
  else if w.extractLsb' 25 7 = 0x0#7 ∧ w.extractLsb' 19 3 = 0x2#3 ∧ w.extractLsb' 13 6 = 0x0#6 then some (.shrec (w.extractLsb' 7 6) (w.extractLsb' 22 3))
  else if w.extractLsb' 25 7 = 0x0#7 ∧ w.extractLsb' 22 3 = 0x0#3 ∧ w.extractLsb' 19 3 = 0x3#3 ∧ w.extractLsb' 7 12 = 0x0#12 then some (.shfence)
  else none

/-- Major 0x3A: CREG, CPOST, CSTAT, CDEREG. -/
def major3A (w : BitVec 32) : Option Instr :=
  if w.extractLsb' 19 13 = 0x0#13 then some (.creg (w.extractLsb' 7 6) (w.extractLsb' 13 6))
  else if w.extractLsb' 19 13 = 0x1#13 then some (.cpost (w.extractLsb' 7 6) (w.extractLsb' 13 6))
  else if w.extractLsb' 19 13 = 0x2#13 then some (.cstat (w.extractLsb' 7 6) (w.extractLsb' 13 6))
  else if w.extractLsb' 19 13 = 0x3#13 ∧ w.extractLsb' 7 6 = 0x0#6 then some (.cdereg (w.extractLsb' 13 6))
  else none

/-- Major 0x3B: CSRR, CSRW, CSRS, CSRC. -/
def major3B (w : BitVec 32) : Option Instr :=
  if w.extractLsb' 31 1 = 0x0#1 ∧ w.extractLsb' 13 6 = 0x0#6 then some (.csrr (w.extractLsb' 7 6) (w.extractLsb' 19 12))
  else if w.extractLsb' 31 1 = 0x1#1 ∧ w.extractLsb' 7 6 = 0x0#6 then some (.csrw (w.extractLsb' 13 6) (w.extractLsb' 19 12))
  else if w.extractLsb' 31 1 = 0x1#1 ∧ w.extractLsb' 7 6 = 0x1#6 then some (.csrs (w.extractLsb' 13 6) (w.extractLsb' 19 12))
  else if w.extractLsb' 31 1 = 0x1#1 ∧ w.extractLsb' 7 6 = 0x2#6 then some (.csrc (w.extractLsb' 13 6) (w.extractLsb' 19 12))
  else none

/-- Major 0x3C: TRAP, WFE, BREAK, NOP, UTRET, SEQSYNC. -/
def major3C (w : BitVec 32) : Option Instr :=
  if w.extractLsb' 19 3 = 0x1#3 ∧ w.extractLsb' 13 6 = 0x0#6 ∧ w.extractLsb' 7 6 = 0x0#6 then some (.trap (w.extractLsb' 22 10))
  else if w.extractLsb' 22 10 = 0x0#10 ∧ w.extractLsb' 19 3 = 0x3#3 ∧ w.extractLsb' 7 6 = 0x0#6 then some (.wfe (w.extractLsb' 13 6))
  else if w.extractLsb' 19 3 = 0x4#3 ∧ w.extractLsb' 13 6 = 0x0#6 ∧ w.extractLsb' 7 6 = 0x0#6 then some (.brk (w.extractLsb' 22 10))
  else if w.extractLsb' 22 10 = 0x0#10 ∧ w.extractLsb' 19 3 = 0x0#3 ∧ w.extractLsb' 13 6 = 0x0#6 ∧ w.extractLsb' 7 6 = 0x0#6 then some (.nop)
  else if w.extractLsb' 22 10 = 0x0#10 ∧ w.extractLsb' 19 3 = 0x2#3 ∧ w.extractLsb' 13 6 = 0x0#6 ∧ w.extractLsb' 7 6 = 0x0#6 then some (.utret)
  else if w.extractLsb' 22 10 = 0x0#10 ∧ w.extractLsb' 19 3 = 0x5#3 ∧ w.extractLsb' 13 6 = 0x0#6 ∧ w.extractLsb' 7 6 = 0x0#6 then some (.seqsync)
  else none

/-- Major 0x3D: CTXSAVE, CTXLOAD, TRET, HALT, TLBINV, BKCLR, OWNSET, MSPILL, MFILL, ROTHOLD. -/
def major3D (w : BitVec 32) : Option Instr :=
  if w.extractLsb' 19 13 = 0x7#13 then some (.ctxsave (w.extractLsb' 7 6) (w.extractLsb' 13 6))
  else if w.extractLsb' 19 13 = 0x8#13 then some (.ctxload (w.extractLsb' 7 6) (w.extractLsb' 13 6))
  else if w.extractLsb' 19 13 = 0x0#13 ∧ w.extractLsb' 7 12 = 0x0#12 then some (.tret)
  else if w.extractLsb' 19 13 = 0x1#13 ∧ w.extractLsb' 7 12 = 0x0#12 then some (.halt)
  else if w.extractLsb' 19 13 = 0x2#13 ∧ w.extractLsb' 7 12 = 0x0#12 then some (.tlbinv)
  else if w.extractLsb' 19 13 = 0x3#13 ∧ w.extractLsb' 7 12 = 0x0#12 then some (.bkclr)
  else if w.extractLsb' 19 13 = 0x4#13 ∧ w.extractLsb' 7 12 = 0x0#12 then some (.ownset)
  else if w.extractLsb' 19 13 = 0x5#13 ∧ w.extractLsb' 7 12 = 0x0#12 then some (.mspill)
  else if w.extractLsb' 19 13 = 0x6#13 ∧ w.extractLsb' 7 12 = 0x0#12 then some (.mfill)
  else if w.extractLsb' 19 13 = 0x9#13 ∧ w.extractLsb' 7 12 = 0x0#12 then some (.rothold)
  else none

/-- Compact code 0: NOP_COMPACT. -/
def compact0 (w : BitVec 16) : Option Instr :=
  if w.extractLsb' 1 10 = 0x0#10 then some (.nopCompact)
  else none

/-- Compact code 1: MOV. -/
noncomputable def compact1 (w : BitVec 16) : Option Instr :=
  if w.extractLsb' 1 2 = 0x0#2 then some (.mov (w.extractLsb' 7 4) (w.extractLsb' 3 4))
  else none

/-- Compact code 2: LI. -/
noncomputable def compact2 (w : BitVec 16) : Option Instr :=
  some (.li (w.extractLsb' 7 4) (w.extractLsb' 1 6))

/-- Compact code 3: ADD_COMPACT. -/
noncomputable def compact3 (w : BitVec 16) : Option Instr :=
  if w.extractLsb' 1 2 = 0x0#2 then some (.addCompact (w.extractLsb' 7 4) (w.extractLsb' 3 4))
  else none

/-- Compact code 4: SUB_COMPACT. -/
noncomputable def compact4 (w : BitVec 16) : Option Instr :=
  if w.extractLsb' 1 2 = 0x0#2 then some (.subCompact (w.extractLsb' 7 4) (w.extractLsb' 3 4))
  else none

/-- Compact code 5: ADDI_COMPACT. -/
noncomputable def compact5 (w : BitVec 16) : Option Instr :=
  some (.addiCompact (w.extractLsb' 7 4) (w.extractLsb' 1 6))

/-- Compact code 6: AND_COMPACT. -/
noncomputable def compact6 (w : BitVec 16) : Option Instr :=
  if w.extractLsb' 1 2 = 0x0#2 then some (.andCompact (w.extractLsb' 7 4) (w.extractLsb' 3 4))
  else none

/-- Compact code 7: OR_COMPACT. -/
noncomputable def compact7 (w : BitVec 16) : Option Instr :=
  if w.extractLsb' 1 2 = 0x0#2 then some (.orCompact (w.extractLsb' 7 4) (w.extractLsb' 3 4))
  else none

/-- Compact code 8: XOR_COMPACT. -/
noncomputable def compact8 (w : BitVec 16) : Option Instr :=
  if w.extractLsb' 1 2 = 0x0#2 then some (.xorCompact (w.extractLsb' 7 4) (w.extractLsb' 3 4))
  else none

/-- Compact code 9: SLLI_COMPACT. -/
noncomputable def compact9 (w : BitVec 16) : Option Instr :=
  some (.slliCompact (w.extractLsb' 7 4) (w.extractLsb' 1 6))

/-- Compact code 10: SRLI_COMPACT. -/
noncomputable def compact10 (w : BitVec 16) : Option Instr :=
  some (.srliCompact (w.extractLsb' 7 4) (w.extractLsb' 1 6))

/-- Compact code 11: SRAI_COMPACT. -/
noncomputable def compact11 (w : BitVec 16) : Option Instr :=
  some (.sraiCompact (w.extractLsb' 7 4) (w.extractLsb' 1 6))

/-- Compact code 12: LD_W_COMPACT. -/
def compact12 (w : BitVec 16) : Option Instr :=
  some (.ldWCompact (w.extractLsb' 7 4) (w.extractLsb' 3 4) (w.extractLsb' 1 2))

/-- Compact code 13: LD_D_COMPACT. -/
def compact13 (w : BitVec 16) : Option Instr :=
  some (.ldDCompact (w.extractLsb' 7 4) (w.extractLsb' 3 4) (w.extractLsb' 1 2))

/-- Compact code 14: ST_W_COMPACT. -/
def compact14 (w : BitVec 16) : Option Instr :=
  some (.stWCompact (w.extractLsb' 7 4) (w.extractLsb' 3 4) (w.extractLsb' 1 2))

/-- Compact code 15: ST_D_COMPACT. -/
def compact15 (w : BitVec 16) : Option Instr :=
  some (.stDCompact (w.extractLsb' 7 4) (w.extractLsb' 3 4) (w.extractLsb' 1 2))

/-- Compact code 16: BEQZ. -/
noncomputable def compact16 (w : BitVec 16) : Option Instr :=
  some (.beqz (w.extractLsb' 7 4) (w.extractLsb' 1 6))

/-- Compact code 17: BNEZ. -/
noncomputable def compact17 (w : BitVec 16) : Option Instr :=
  some (.bnez (w.extractLsb' 7 4) (w.extractLsb' 1 6))

/-- Compact code 18: J_COMPACT. -/
noncomputable def compact18 (w : BitVec 16) : Option Instr :=
  some (.jCompact (w.extractLsb' 1 10))

/-- Compact code 19: RET. -/
def compact19 (w : BitVec 16) : Option Instr :=
  if w.extractLsb' 1 10 = 0x0#10 then some (.ret)
  else none

/-- Compact code 20: QPOP_COMPACT. -/
def compact20 (w : BitVec 16) : Option Instr :=
  if w.extractLsb' 1 2 = 0x0#2 then some (.qpopCompact (w.extractLsb' 7 4) (w.extractLsb' 3 4))
  else none

/-- Compact code 21: QPUSH_COMPACT. -/
def compact21 (w : BitVec 16) : Option Instr :=
  if w.extractLsb' 1 2 = 0x0#2 then some (.qpushCompact (w.extractLsb' 7 4) (w.extractLsb' 3 4))
  else none

/-- Compact code 22: DONE_COMPACT. -/
def compact22 (w : BitVec 16) : Option Instr :=
  if w.extractLsb' 1 10 = 0x0#10 then some (.doneCompact)
  else none

/-- Compact code 23: BREAK_COMPACT. -/
def compact23 (w : BitVec 16) : Option Instr :=
  if w.extractLsb' 1 10 = 0x0#10 then some (.brkCompact)
  else none

end Decode

/-- The 32-bit instruction of a word whose bit 0 is 1, by its major in bits [6:1] (R55, R65). -/
def decodeMajor (w : BitVec 32) : Option Instr :=
  match (w.extractLsb' 1 6).toNat with
  | 0x00 => Decode.major00 w
  | 0x01 => Decode.major01 w
  | 0x02 => Decode.major02 w
  | 0x03 => Decode.major03 w
  | 0x04 => Decode.major04 w
  | 0x05 => Decode.major05 w
  | 0x06 => Decode.major06 w
  | 0x07 => Decode.major07 w
  | 0x08 => Decode.major08 w
  | 0x09 => Decode.major09 w
  | 0x0A => Decode.major0A w
  | 0x0B => Decode.major0B w
  | 0x0C => Decode.major0C w
  | 0x0D => Decode.major0D w
  | 0x0E => Decode.major0E w
  | 0x0F => Decode.major0F w
  | 0x10 => Decode.major10 w
  | 0x11 => Decode.major11 w
  | 0x12 => Decode.major12 w
  | 0x13 => Decode.major13 w
  | 0x14 => Decode.major14 w
  | 0x15 => Decode.major15 w
  | 0x16 => Decode.major16 w
  | 0x17 => Decode.major17 w
  | 0x18 => Decode.major18 w
  | 0x19 => Decode.major19 w
  | 0x1A => Decode.major1A w
  | 0x1B => Decode.major1B w
  | 0x1C => Decode.major1C w
  | 0x1D => Decode.major1D w
  | 0x1E => Decode.major1E w
  | 0x1F => Decode.major1F w
  | 0x20 => Decode.major20 w
  | 0x21 => Decode.major21 w
  | 0x22 => Decode.major22 w
  | 0x23 => Decode.major23 w
  | 0x24 => Decode.major24 w
  | 0x25 => Decode.major25 w
  | 0x26 => Decode.major26 w
  | 0x27 => Decode.major27 w
  | 0x28 => Decode.major28 w
  | 0x29 => Decode.major29 w
  | 0x2A => Decode.major2A w
  | 0x2B => Decode.major2B w
  | 0x2C => Decode.major2C w
  | 0x2D => Decode.major2D w
  | 0x2E => Decode.major2E w
  | 0x2F => Decode.major2F w
  | 0x30 => Decode.major30 w
  | 0x31 => Decode.major31 w
  | 0x32 => Decode.major32 w
  | 0x33 => Decode.major33 w
  | 0x34 => Decode.major34 w
  | 0x35 => Decode.major35 w
  | 0x36 => Decode.major36 w
  | 0x37 => Decode.major37 w
  | 0x38 => Decode.major38 w
  | 0x39 => Decode.major39 w
  | 0x3A => Decode.major3A w
  | 0x3B => Decode.major3B w
  | 0x3C => Decode.major3C w
  | 0x3D => Decode.major3D w
  | _ => none

/-- The compact instruction of a halfword whose bit 0 is 0, by its op5 in bits [15:11] (R57). -/
noncomputable def decodeOp5 (w : BitVec 16) : Option Instr :=
  match (w.extractLsb' 11 5).toNat with
  | 0 => Decode.compact0 w
  | 1 => Decode.compact1 w
  | 2 => Decode.compact2 w
  | 3 => Decode.compact3 w
  | 4 => Decode.compact4 w
  | 5 => Decode.compact5 w
  | 6 => Decode.compact6 w
  | 7 => Decode.compact7 w
  | 8 => Decode.compact8 w
  | 9 => Decode.compact9 w
  | 10 => Decode.compact10 w
  | 11 => Decode.compact11 w
  | 12 => Decode.compact12 w
  | 13 => Decode.compact13 w
  | 14 => Decode.compact14 w
  | 15 => Decode.compact15 w
  | 16 => Decode.compact16 w
  | 17 => Decode.compact17 w
  | 18 => Decode.compact18 w
  | 19 => Decode.compact19 w
  | 20 => Decode.compact20 w
  | 21 => Decode.compact21 w
  | 22 => Decode.compact22 w
  | 23 => Decode.compact23 w
  | _ => none

/-- An instruction that breaks a static rule of its own is no instruction (R58). -/
def wellFormedOnly : Option Instr → Option Instr
  | some i => if i.wf then some i else none
  | none => none

/-- A 32-bit word's instruction; its bit 0 is 1 (R51). -/
def decode32 (w : BitVec 32) : Option Instr :=
  if w.getLsbD 0 then wellFormedOnly (decodeMajor w) else none

/-- A halfword's compact instruction; its bit 0 is 0 (R51). -/
noncomputable def decode16 (w : BitVec 16) : Option Instr :=
  if w.getLsbD 0 then none else wellFormedOnly (decodeOp5 w)

/-- An instruction's code: one halfword or two (R51). -/
inductive Code where
  | c16 (w : BitVec 16)
  | c32 (w : BitVec 32)
deriving DecidableEq, Repr

/-- The instruction of a code, if one is assigned to it. -/
noncomputable def Code.decode : Code → Option Instr
  | .c16 w => decode16 w
  | .c32 w => decode32 w

/-- The code's word, zero-extended: the trap value of ILLEGAL and PRIV (R58, R67). -/
def Code.value : Code → Word
  | .c16 w => w.setWidth 64
  | .c32 w => w.setWidth 64

/-- The code's length in bytes (R51). -/
def Code.size : Code → Nat
  | .c16 _ => 2
  | .c32 _ => 4

/-- What a code runs: its instruction, or the UNASSIGNED_ENCODING event that raises ILLEGAL (R58). Total. -/
noncomputable def Code.instr (c : Code) : Instr :=
  match c.decode with
  | some i => i
  | none => .unassignedEncoding (c.value.setWidth 32)

/-- The two reasons a byte string gives no code (R51). -/
inductive ShortCode where
  | noFirstHalfword
  | noSecondHalfword
deriving DecidableEq, Repr

/-- The code at the front of a byte string, lowest address first (R51: little-endian halfwords), and the rest. -/
def decodeBytes : List Byte → Except ShortCode (Code × List Byte)
  | b0 :: b1 :: rest =>
    if b0.getLsbD 0 then
      match rest with
      | b2 :: b3 :: rest' => .ok (.c32 (b3 ++ b2 ++ b1 ++ b0), rest')
      | _ => .error .noSecondHalfword
    else .ok (.c16 (b1 ++ b0), rest)
  | _ => .error .noFirstHalfword

/-- The encoding of an instruction, from the encoding tables; an event of the machine has none. -/
def encode : Instr → Option Code
  | .add d a b => some (.c32 (0x0#7 ++ b ++ a ++ d ++ 0x1#7))
  | .sub d a b => some (.c32 (0x1#7 ++ b ++ a ++ d ++ 0x1#7))
  | .and d a b => some (.c32 (0x2#7 ++ b ++ a ++ d ++ 0x1#7))
  | .or d a b => some (.c32 (0x3#7 ++ b ++ a ++ d ++ 0x1#7))
  | .xor d a b => some (.c32 (0x4#7 ++ b ++ a ++ d ++ 0x1#7))
  | .andn d a b => some (.c32 (0x5#7 ++ b ++ a ++ d ++ 0x1#7))
  | .orn d a b => some (.c32 (0x6#7 ++ b ++ a ++ d ++ 0x1#7))
  | .xnor d a b => some (.c32 (0x7#7 ++ b ++ a ++ d ++ 0x1#7))
  | .sll d a b => some (.c32 (0x8#7 ++ b ++ a ++ d ++ 0x1#7))
  | .srl d a b => some (.c32 (0x9#7 ++ b ++ a ++ d ++ 0x1#7))
  | .sra d a b => some (.c32 (0xA#7 ++ b ++ a ++ d ++ 0x1#7))
  | .rot d a b => some (.c32 (0xB#7 ++ b ++ a ++ d ++ 0x1#7))
  | .slt d a b => some (.c32 (0xC#7 ++ b ++ a ++ d ++ 0x1#7))
  | .sltu d a b => some (.c32 (0xD#7 ++ b ++ a ++ d ++ 0x1#7))
  | .min d a b => some (.c32 (0xE#7 ++ b ++ a ++ d ++ 0x1#7))
  | .max d a b => some (.c32 (0xF#7 ++ b ++ a ++ d ++ 0x1#7))
  | .minu d a b => some (.c32 (0x10#7 ++ b ++ a ++ d ++ 0x1#7))
  | .maxu d a b => some (.c32 (0x11#7 ++ b ++ a ++ d ++ 0x1#7))
  | .addw d a b => some (.c32 (0x12#7 ++ b ++ a ++ d ++ 0x1#7))
  | .subw d a b => some (.c32 (0x13#7 ++ b ++ a ++ d ++ 0x1#7))
  | .adds d a b => some (.c32 (0x14#7 ++ b ++ a ++ d ++ 0x1#7))
  | .subs d a b => some (.c32 (0x15#7 ++ b ++ a ++ d ++ 0x1#7))
  | .sllw d a b => some (.c32 (0x16#7 ++ b ++ a ++ d ++ 0x1#7))
  | .srlw d a b => some (.c32 (0x17#7 ++ b ++ a ++ d ++ 0x1#7))
  | .sraw d a b => some (.c32 (0x18#7 ++ b ++ a ++ d ++ 0x1#7))
  | .addi d a i => some (.c32 (i ++ a ++ d ++ 0x3#7))
  | .andi d a i => some (.c32 (i ++ a ++ d ++ 0x5#7))
  | .ori d a i => some (.c32 (i ++ a ++ d ++ 0x7#7))
  | .xori d a i => some (.c32 (i ++ a ++ d ++ 0x9#7))
  | .slli d a h => some (.c32 (0x0#7 ++ h ++ a ++ d ++ 0xB#7))
  | .srli d a h => some (.c32 (0x20#7 ++ h ++ a ++ d ++ 0xB#7))
  | .srai d a h => some (.c32 (0x40#7 ++ h ++ a ++ d ++ 0xB#7))
  | .roti d a h => some (.c32 (0x60#7 ++ h ++ a ++ d ++ 0xB#7))
  | .slti d a i => some (.c32 (i ++ a ++ d ++ 0xD#7))
  | .sltiu d a i => some (.c32 (i ++ a ++ d ++ 0xF#7))
  | .mul d a b => some (.c32 (0x0#7 ++ b ++ a ++ d ++ 0x11#7))
  | .mulh d a b => some (.c32 (0x1#7 ++ b ++ a ++ d ++ 0x11#7))
  | .mulhu d a b => some (.c32 (0x2#7 ++ b ++ a ++ d ++ 0x11#7))
  | .mulhm d a b => some (.c32 (0x3#7 ++ b ++ a ++ d ++ 0x11#7))
  | .div d a b => some (.c32 (0x4#7 ++ b ++ a ++ d ++ 0x11#7))
  | .divu d a b => some (.c32 (0x5#7 ++ b ++ a ++ d ++ 0x11#7))
  | .rem d a b => some (.c32 (0x6#7 ++ b ++ a ++ d ++ 0x11#7))
  | .remu d a b => some (.c32 (0x7#7 ++ b ++ a ++ d ++ 0x11#7))
  | .mulw d a b => some (.c32 (0x8#7 ++ b ++ a ++ d ++ 0x11#7))
  | .divw d a b => some (.c32 (0x9#7 ++ b ++ a ++ d ++ 0x11#7))
  | .remw d a b => some (.c32 (0xA#7 ++ b ++ a ++ d ++ 0x11#7))
  | .clz d a => some (.c32 (0x0#7 ++ 0x0#6 ++ a ++ d ++ 0x13#7))
  | .ctz d a => some (.c32 (0x1#7 ++ 0x0#6 ++ a ++ d ++ 0x13#7))
  | .popc d a => some (.c32 (0x2#7 ++ 0x0#6 ++ a ++ d ++ 0x13#7))
  | .bswap d a => some (.c32 (0x3#7 ++ 0x0#6 ++ a ++ d ++ 0x13#7))
  | .sel d a b => some (.c32 (0x4#7 ++ b ++ a ++ d ++ 0x13#7))
  | .ext d a b => some (.c32 (0x5#7 ++ b ++ a ++ d ++ 0x13#7))
  | .extu d a b => some (.c32 (0x6#7 ++ b ++ a ++ d ++ 0x13#7))
  | .ins d a b => some (.c32 (0x7#7 ++ b ++ a ++ d ++ 0x13#7))
  | .lui d i => some (.c32 (i ++ d ++ 0x15#7))
  | .addpc d i => some (.c32 (i ++ d ++ 0x17#7))
  | .padd d a b => some (.c32 (0x0#7 ++ b ++ a ++ d ++ 0x19#7))
  | .psub d a b => some (.c32 (0x1#7 ++ b ++ a ++ d ++ 0x19#7))
  | .ptag d a b => some (.c32 (0x2#7 ++ b ++ a ++ d ++ 0x19#7))
  | .pgtag d a => some (.c32 (0x3#7 ++ 0x0#6 ++ a ++ d ++ 0x19#7))
  | .pidx d a b => some (.c32 (0x4#7 ++ b ++ a ++ d ++ 0x19#7))
  | .pblk d a b => some (.c32 (0x5#7 ++ b ++ a ++ d ++ 0x19#7))
  | .pchk d a b => some (.c32 (0x6#7 ++ b ++ a ++ d ++ 0x19#7))
  | .paddi d a i => some (.c32 (i ++ a ++ d ++ 0x1B#7))
  | .rget d a k => some (.c32 (0x0#11 ++ k ++ a ++ d ++ 0x1D#7))
  | .rput d a k => some (.c32 (0x10#11 ++ k ++ a ++ d ++ 0x1D#7))
  | .ixset a k => some (.c32 (0x20#11 ++ k ++ a ++ 0x0#6 ++ 0x1D#7))
  | .ixadd a k => some (.c32 (0x30#11 ++ k ++ a ++ 0x0#6 ++ 0x1D#7))
  | .ixget d k => some (.c32 (0x40#11 ++ k ++ 0x0#6 ++ d ++ 0x1D#7))
  | .fadd d a b w => some (.c32 (w ++ 0x0#6 ++ b ++ a ++ d ++ 0x1F#7))
  | .fsub d a b w => some (.c32 (w ++ 0x1#6 ++ b ++ a ++ d ++ 0x1F#7))
  | .fmul d a b w => some (.c32 (w ++ 0x2#6 ++ b ++ a ++ d ++ 0x1F#7))
  | .fdiv d a b w => some (.c32 (w ++ 0x3#6 ++ b ++ a ++ d ++ 0x1F#7))
  | .fsqrt d a w => some (.c32 (w ++ 0x4#6 ++ 0x0#6 ++ a ++ d ++ 0x1F#7))
  | .fmin d a b w => some (.c32 (w ++ 0x5#6 ++ b ++ a ++ d ++ 0x1F#7))
  | .fmax d a b w => some (.c32 (w ++ 0x6#6 ++ b ++ a ++ d ++ 0x1F#7))
  | .fscpy d a b w => some (.c32 (w ++ 0x7#6 ++ b ++ a ++ d ++ 0x1F#7))
  | .fsinv d a b w => some (.c32 (w ++ 0x8#6 ++ b ++ a ++ d ++ 0x1F#7))
  | .fsxor d a b w => some (.c32 (w ++ 0x9#6 ++ b ++ a ++ d ++ 0x1F#7))
  | .feq d a b w => some (.c32 (w ++ 0xA#6 ++ b ++ a ++ d ++ 0x1F#7))
  | .flt d a b w => some (.c32 (w ++ 0xB#6 ++ b ++ a ++ d ++ 0x1F#7))
  | .fle d a b w => some (.c32 (w ++ 0xC#6 ++ b ++ a ++ d ++ 0x1F#7))
  | .fkind d a w => some (.c32 (w ++ 0xD#6 ++ 0x0#6 ++ a ++ d ++ 0x1F#7))
  | .fcvt d a r u e s => some (.c32 (0x0#1 ++ s ++ e ++ 0x0#2 ++ u ++ r ++ a ++ d ++ 0x21#7))
  | .ffma d a b w c => some (.c32 (c ++ w ++ b ++ a ++ d ++ 0x23#7))
  | .beq a b o => some (.c32 (o ++ b ++ a ++ 0x25#7))
  | .bne a b o => some (.c32 (o ++ b ++ a ++ 0x27#7))
  | .blt a b o => some (.c32 (o ++ b ++ a ++ 0x29#7))
  | .bge a b o => some (.c32 (o ++ b ++ a ++ 0x2B#7))
  | .bltu a b o => some (.c32 (o ++ b ++ a ++ 0x2D#7))
  | .bgeu a b o => some (.c32 (o ++ b ++ a ++ 0x2F#7))
  | .j o => some (.c32 (o ++ 0x31#7))
  | .jal o => some (.c32 (o ++ 0x33#7))
  | .jalr d a i => some (.c32 (i ++ a ++ d ++ 0x35#7))
  | .loop a b o => some (.c32 (o ++ b ++ a ++ 0x37#7))
  | .ld d a s m o => some (.c32 (o ++ m ++ s ++ a ++ d ++ 0x39#7))
  | .ldu d a s m o => some (.c32 (o ++ m ++ s ++ a ++ d ++ 0x3B#7))
  | .st d a s m o => some (.c32 (o ++ m ++ s ++ a ++ d ++ 0x3D#7))
  | .ldx d a b m s => some (.c32 (0x0#2 ++ s ++ m ++ b ++ a ++ d ++ 0x3F#7))
  | .ldux d a b m s => some (.c32 (0x1#2 ++ s ++ m ++ b ++ a ++ d ++ 0x3F#7))
  | .stx d a b m s => some (.c32 (0x2#2 ++ s ++ m ++ b ++ a ++ d ++ 0x3F#7))
  | .pst d a s m o => some (.c32 (o ++ m ++ s ++ a ++ d ++ 0x41#7))
  | .pref h a o => some (.c32 (o ++ 0x18#5 ++ a ++ h ++ 0x4F#7))
  | .ldv d a m o => some (.c32 (o ++ m ++ 0x0#2 ++ a ++ d ++ 0x43#7))
  | .stv d a m o => some (.c32 (o ++ m ++ 0x0#2 ++ a ++ d ++ 0x45#7))
  | .vlds d a b s m => some (.c32 (m ++ s ++ 0x0#3 ++ b ++ a ++ d ++ 0x47#7))
  | .vsts d a b s m => some (.c32 (m ++ s ++ 0x1#3 ++ b ++ a ++ d ++ 0x47#7))
  | .vgath d a b s m => some (.c32 (m ++ s ++ 0x2#3 ++ b ++ a ++ d ++ 0x47#7))
  | .vscat d a b s m => some (.c32 (m ++ s ++ 0x3#3 ++ b ++ a ++ d ++ 0x47#7))
  | .vldb d a s m => some (.c32 (m ++ s ++ 0x4#3 ++ 0x0#6 ++ a ++ d ++ 0x47#7))
  | .amoadd d a b s o => some (.c32 (o ++ s ++ 0x0#3 ++ b ++ a ++ d ++ 0x49#7))
  | .amoand d a b s o => some (.c32 (o ++ s ++ 0x1#3 ++ b ++ a ++ d ++ 0x49#7))
  | .amoor d a b s o => some (.c32 (o ++ s ++ 0x2#3 ++ b ++ a ++ d ++ 0x49#7))
  | .amoxor d a b s o => some (.c32 (o ++ s ++ 0x3#3 ++ b ++ a ++ d ++ 0x49#7))
  | .amomin d a b s o => some (.c32 (o ++ s ++ 0x4#3 ++ b ++ a ++ d ++ 0x49#7))
  | .amomax d a b s o => some (.c32 (o ++ s ++ 0x5#3 ++ b ++ a ++ d ++ 0x49#7))
  | .amoswp d a b s o => some (.c32 (o ++ s ++ 0x6#3 ++ b ++ a ++ d ++ 0x49#7))
  | .amofadd d a b s o => some (.c32 (o ++ s ++ 0x7#3 ++ b ++ a ++ d ++ 0x49#7))
  | .cas d a b o s => some (.c32 (0x0#2 ++ s ++ o ++ 0x0#1 ++ b ++ a ++ d ++ 0x4B#7))
  | .cas2 d a b o => some (.c32 (0x0#2 ++ 0x3#2 ++ o ++ 0x1#1 ++ b ++ a ++ d ++ 0x4B#7))
  | .fence s k => some (.c32 (0x0#8 ++ k ++ s ++ 0x0#12 ++ 0x4D#7))
  | .vadd d a b s => some (.c32 (s ++ 0x0#5 ++ b ++ a ++ d ++ 0x51#7))
  | .vsub d a b s => some (.c32 (s ++ 0x1#5 ++ b ++ a ++ d ++ 0x51#7))
  | .vmul d a b s => some (.c32 (s ++ 0x2#5 ++ b ++ a ++ d ++ 0x51#7))
  | .vmulh d a b s => some (.c32 (s ++ 0x3#5 ++ b ++ a ++ d ++ 0x51#7))
  | .vand d a b s => some (.c32 (s ++ 0x4#5 ++ b ++ a ++ d ++ 0x51#7))
  | .vor d a b s => some (.c32 (s ++ 0x5#5 ++ b ++ a ++ d ++ 0x51#7))
  | .vxor d a b s => some (.c32 (s ++ 0x6#5 ++ b ++ a ++ d ++ 0x51#7))
  | .vsll d a b s => some (.c32 (s ++ 0x7#5 ++ b ++ a ++ d ++ 0x51#7))
  | .vsrl d a b s => some (.c32 (s ++ 0x8#5 ++ b ++ a ++ d ++ 0x51#7))
  | .vsra d a b s => some (.c32 (s ++ 0x9#5 ++ b ++ a ++ d ++ 0x51#7))
  | .vmin d a b s => some (.c32 (s ++ 0xA#5 ++ b ++ a ++ d ++ 0x51#7))
  | .vmax d a b s => some (.c32 (s ++ 0xB#5 ++ b ++ a ++ d ++ 0x51#7))
  | .vminu d a b s => some (.c32 (s ++ 0xC#5 ++ b ++ a ++ d ++ 0x51#7))
  | .vmaxu d a b s => some (.c32 (s ++ 0xD#5 ++ b ++ a ++ d ++ 0x51#7))
  | .vadds d a b s => some (.c32 (s ++ 0xE#5 ++ b ++ a ++ d ++ 0x51#7))
  | .vsubs d a b s => some (.c32 (s ++ 0xF#5 ++ b ++ a ++ d ++ 0x51#7))
  | .vabsd d a b s => some (.c32 (s ++ 0x10#5 ++ b ++ a ++ d ++ 0x51#7))
  | .vdot4 d a b => some (.c32 (0x2#2 ++ 0x11#5 ++ b ++ a ++ d ++ 0x51#7))
  | .vfadd d a b t => some (.c32 (t ++ 0x0#5 ++ b ++ a ++ d ++ 0x53#7))
  | .vfsub d a b t => some (.c32 (t ++ 0x1#5 ++ b ++ a ++ d ++ 0x53#7))
  | .vfmul d a b t => some (.c32 (t ++ 0x2#5 ++ b ++ a ++ d ++ 0x53#7))
  | .vfmin d a b t => some (.c32 (t ++ 0x3#5 ++ b ++ a ++ d ++ 0x53#7))
  | .vfmax d a b t => some (.c32 (t ++ 0x4#5 ++ b ++ a ++ d ++ 0x53#7))
  | .vfabs d a t => some (.c32 (t ++ 0x5#5 ++ 0x0#6 ++ a ++ d ++ 0x53#7))
  | .vfneg d a t => some (.c32 (t ++ 0x6#5 ++ 0x0#6 ++ a ++ d ++ 0x53#7))
  | .vfdiv d a b t => some (.c32 (t ++ 0x7#5 ++ b ++ a ++ d ++ 0x53#7))
  | .vfma d a b f c => some (.c32 (c ++ f ++ b ++ a ++ d ++ 0x55#7))
  | .vcvt d a r u p => some (.c32 (p ++ 0x0#3 ++ 0x0#2 ++ u ++ r ++ a ++ d ++ 0x57#7))
  | .vqnt d a b k r => some (.c32 (r ++ k ++ 0x1#3 ++ b ++ a ++ d ++ 0x57#7))
  | .vdqnt d a b k => some (.c32 (0x0#3 ++ k ++ 0x2#3 ++ b ++ a ++ d ++ 0x57#7))
  | .vecfd d a k m => some (.c32 (m ++ k ++ 0x3#3 ++ 0x0#6 ++ a ++ d ++ 0x57#7))
  | .vecfe d a k m => some (.c32 (m ++ k ++ 0x4#3 ++ 0x0#6 ++ a ++ d ++ 0x57#7))
  | .vbcast d a s => some (.c32 (0x0#2 ++ s ++ 0x0#3 ++ 0x0#6 ++ a ++ d ++ 0x59#7))
  | .vmovgv d a b s => some (.c32 (0x0#2 ++ s ++ 0x1#3 ++ b ++ a ++ d ++ 0x59#7))
  | .vmovvg d a b s => some (.c32 (0x0#2 ++ s ++ 0x2#3 ++ b ++ a ++ d ++ 0x59#7))
  | .vperm d a b => some (.c32 (0x0#4 ++ 0x3#3 ++ b ++ a ++ d ++ 0x59#7))
  | .vred d a s o => some (.c32 (o ++ s ++ 0x4#3 ++ 0x0#6 ++ a ++ d ++ 0x59#7))
  | .vslide d a b s => some (.c32 (0x0#2 ++ s ++ 0x5#3 ++ b ++ a ++ d ++ 0x59#7))
  | .vsel d a b s m => some (.c32 (m ++ s ++ 0x6#3 ++ b ++ a ++ d ++ 0x59#7))
  | .vrcp d a t => some (.c32 (0x0#2 ++ t ++ 0x0#9 ++ a ++ d ++ 0x5B#7))
  | .vrsq d a t => some (.c32 (0x0#2 ++ t ++ 0x40#9 ++ a ++ d ++ 0x5B#7))
  | .vexp2 d a t => some (.c32 (0x0#2 ++ t ++ 0x80#9 ++ a ++ d ++ 0x5B#7))
  | .vlog2 d a t => some (.c32 (0x0#2 ++ t ++ 0xC0#9 ++ a ++ d ++ 0x5B#7))
  | .vtanh d a t => some (.c32 (0x0#2 ++ t ++ 0x100#9 ++ a ++ d ++ 0x5B#7))
  | .vcmp m c a b t => some (.c32 (t ++ 0x0#3 ++ b ++ a ++ c ++ m ++ 0x5D#7))
  | .mand d a b => some (.c32 (0x0#4 ++ 0x1#3 ++ b ++ a ++ d ++ 0x5D#7))
  | .mor d a b => some (.c32 (0x0#4 ++ 0x2#3 ++ b ++ a ++ d ++ 0x5D#7))
  | .mxor d a b => some (.c32 (0x0#4 ++ 0x3#3 ++ b ++ a ++ d ++ 0x5D#7))
  | .mnot d a => some (.c32 (0x0#4 ++ 0x4#3 ++ 0x0#6 ++ a ++ d ++ 0x5D#7))
  | .mcnt d a x => some (.c32 (0x0#3 ++ x ++ 0x5#3 ++ 0x0#6 ++ a ++ d ++ 0x5D#7))
  | .mset d a => some (.c32 (0x0#4 ++ 0x6#3 ++ 0x0#6 ++ a ++ d ++ 0x5D#7))
  | .gang d a => some (.c32 (0x0#8 ++ 0x0#2 ++ 0x0#3 ++ a ++ d ++ 0x5F#7))
  | .xchg d a s => some (.c32 (0x0#8 ++ s ++ 0x2#3 ++ a ++ d ++ 0x5F#7))
  | .gbcast d a v => some (.c32 (0x0#8 ++ 0x0#1 ++ v ++ 0x3#3 ++ a ++ d ++ 0x5F#7))
  | .gstat d a => some (.c32 (0x0#8 ++ 0x0#2 ++ 0x4#3 ++ a ++ d ++ 0x5F#7))
  | .mpush d a => some (.c32 (0x0#13 ++ a ++ d ++ 0x61#7))
  | .mpop d => some (.c32 (0x1#13 ++ 0x0#6 ++ d ++ 0x61#7))
  | .mwait d a => some (.c32 (0x2#13 ++ a ++ d ++ 0x61#7))
  | .mstat d a => some (.c32 (0x3#13 ++ a ++ d ++ 0x61#7))
  | .msplit a => some (.c32 (0x4#13 ++ a ++ 0x0#6 ++ 0x61#7))
  | .rgdef a k => some (.c32 (0x0#8 ++ k ++ 0x0#3 ++ a ++ 0x0#6 ++ 0x63#7))
  | .rgpush a k => some (.c32 (0x0#8 ++ k ++ 0x1#3 ++ a ++ 0x0#6 ++ 0x63#7))
  | .rgstat d k => some (.c32 (0x0#8 ++ k ++ 0x2#3 ++ 0x0#6 ++ d ++ 0x63#7))
  | .rgrst k => some (.c32 (0x0#8 ++ k ++ 0x3#3 ++ 0x0#12 ++ 0x63#7))
  | .qpush a n => some (.c32 (0x0#6 ++ n ++ 0x0#3 ++ a ++ 0x0#6 ++ 0x65#7))
  | .qpop d n => some (.c32 (0x0#6 ++ n ++ 0x1#3 ++ 0x0#6 ++ d ++ 0x65#7))
  | .qpeek d n => some (.c32 (0x0#6 ++ n ++ 0x2#3 ++ 0x0#6 ++ d ++ 0x65#7))
  | .qtry d a n => some (.c32 (0x0#6 ++ n ++ 0x3#3 ++ a ++ d ++ 0x65#7))
  | .qtryp d a n => some (.c32 (0x0#6 ++ n ++ 0x4#3 ++ a ++ d ++ 0x65#7))
  | .qbind a n => some (.c32 (0x0#6 ++ n ++ 0x5#3 ++ a ++ 0x0#6 ++ 0x65#7))
  | .qstat d n => some (.c32 (0x0#6 ++ n ++ 0x6#3 ++ 0x0#6 ++ d ++ 0x65#7))
  | .sopen d a p => some (.c32 (0x0#7 ++ p ++ 0x0#3 ++ a ++ d ++ 0x67#7))
  | .sclose p => some (.c32 (0x0#7 ++ p ++ 0x1#3 ++ 0x0#12 ++ 0x67#7))
  | .sstat d p => some (.c32 (0x0#7 ++ p ++ 0x2#3 ++ 0x0#6 ++ d ++ 0x67#7))
  | .send d a => some (.c32 (0x0#13 ++ a ++ d ++ 0x69#7))
  | .send4 d a => some (.c32 (0x1#13 ++ a ++ d ++ 0x69#7))
  | .send1 d a => some (.c32 (0x2#13 ++ a ++ d ++ 0x69#7))
  | .reply d a => some (.c32 (0x3#13 ++ a ++ d ++ 0x69#7))
  | .mbxdef a b => some (.c32 (0x0#3 ++ 0x0#4 ++ b ++ 0x0#3 ++ a ++ 0x0#6 ++ 0x6B#7))
  | .bind a b c => some (.c32 (0x0#3 ++ c ++ b ++ 0x1#3 ++ a ++ 0x0#6 ++ 0x6B#7))
  | .unbind b c => some (.c32 (0x0#3 ++ c ++ b ++ 0x2#3 ++ 0x0#12 ++ 0x6B#7))
  | .suspend a => some (.c32 (0x0#3 ++ 0x0#7 ++ 0x4#3 ++ a ++ 0x0#6 ++ 0x6B#7))
  | .resumec d a m => some (.c32 (0x0#3 ++ 0x0#4 ++ m ++ 0x5#3 ++ a ++ d ++ 0x6B#7))
  | .recv d b => some (.c32 (0x0#3 ++ 0x0#4 ++ b ++ 0x6#3 ++ 0x0#6 ++ d ++ 0x6B#7))
  | .xfer d a => some (.c32 (0x0#13 ++ a ++ d ++ 0x6D#7))
  | .xmcast d a => some (.c32 (0x1#13 ++ a ++ d ++ 0x6D#7))
  | .xfree a => some (.c32 (0x2#13 ++ a ++ 0x0#6 ++ 0x6D#7))
  | .xwait d a => some (.c32 (0x3#13 ++ a ++ d ++ 0x6D#7))
  | .xstat d a => some (.c32 (0x4#13 ++ a ++ d ++ 0x6D#7))
  | .rfork a => some (.c32 (0x0#13 ++ a ++ 0x0#6 ++ 0x6F#7))
  | .join a => some (.c32 (0x1#13 ++ a ++ 0x0#6 ++ 0x6F#7))
  | .klaunch d a => some (.c32 (0x2#13 ++ a ++ d ++ 0x6F#7))
  | .kstat d a => some (.c32 (0x3#13 ++ a ++ d ++ 0x6F#7))
  | .dlget d a => some (.c32 (0x4#13 ++ a ++ d ++ 0x6F#7))
  | .wrapdone a => some (.c32 (0x5#13 ++ a ++ 0x0#6 ++ 0x6F#7))
  | .budget d a => some (.c32 (0x6#13 ++ a ++ d ++ 0x6F#7))
  | .barinit d a l i => some (.c32 (0x0#4 ++ i ++ l ++ 0x0#3 ++ a ++ d ++ 0x71#7))
  | .bararr d a l i => some (.c32 (0x0#4 ++ i ++ l ++ 0x1#3 ++ a ++ d ++ 0x71#7))
  | .barwait d a l i => some (.c32 (0x0#4 ++ i ++ l ++ 0x2#3 ++ a ++ d ++ 0x71#7))
  | .bararw d a l i => some (.c32 (0x0#4 ++ i ++ l ++ 0x3#3 ++ a ++ d ++ 0x71#7))
  | .bartest d a l i => some (.c32 (0x0#4 ++ i ++ l ++ 0x4#3 ++ a ++ d ++ 0x71#7))
  | .shget d a n => some (.c32 (0x0#7 ++ n ++ 0x0#3 ++ a ++ d ++ 0x73#7))
  | .shslice d n => some (.c32 (0x0#7 ++ n ++ 0x1#3 ++ 0x0#6 ++ d ++ 0x73#7))
  | .shrec d n => some (.c32 (0x0#7 ++ n ++ 0x2#3 ++ 0x0#6 ++ d ++ 0x73#7))
  | .creg d a => some (.c32 (0x0#13 ++ a ++ d ++ 0x75#7))
  | .cpost d a => some (.c32 (0x1#13 ++ a ++ d ++ 0x75#7))
  | .cstat d a => some (.c32 (0x2#13 ++ a ++ d ++ 0x75#7))
  | .cdereg a => some (.c32 (0x3#13 ++ a ++ 0x0#6 ++ 0x75#7))
  | .csrr d c => some (.c32 (0x0#1 ++ c ++ 0x0#6 ++ d ++ 0x77#7))
  | .csrw a c => some (.c32 (0x1#1 ++ c ++ a ++ 0x0#6 ++ 0x77#7))
  | .csrs a c => some (.c32 (0x1#1 ++ c ++ a ++ 0x1#6 ++ 0x77#7))
  | .csrc a c => some (.c32 (0x1#1 ++ c ++ a ++ 0x2#6 ++ 0x77#7))
  | .trap c => some (.c32 (c ++ 0x1#3 ++ 0x0#6 ++ 0x0#6 ++ 0x79#7))
  | .wfe a => some (.c32 (0x0#10 ++ 0x3#3 ++ a ++ 0x0#6 ++ 0x79#7))
  | .brk c => some (.c32 (c ++ 0x4#3 ++ 0x0#6 ++ 0x0#6 ++ 0x79#7))
  | .ctxsave d a => some (.c32 (0x7#13 ++ a ++ d ++ 0x7B#7))
  | .ctxload d a => some (.c32 (0x8#13 ++ a ++ d ++ 0x7B#7))
  | .ldWCompact d s k => some (.c16 (0xC#5 ++ d ++ s ++ k ++ 0x0#1))
  | .ldDCompact d s k => some (.c16 (0xD#5 ++ d ++ s ++ k ++ 0x0#1))
  | .stWCompact t s k => some (.c16 (0xE#5 ++ t ++ s ++ k ++ 0x0#1))
  | .stDCompact t s k => some (.c16 (0xF#5 ++ t ++ s ++ k ++ 0x0#1))
  | .qpopCompact d n => some (.c16 (0x14#5 ++ d ++ n ++ 0x0#2 ++ 0x0#1))
  | .qpushCompact n s => some (.c16 (0x15#5 ++ n ++ s ++ 0x0#2 ++ 0x0#1))
  | .mov d s => some (.c16 (0x1#5 ++ d ++ s ++ 0x0#2 ++ 0x0#1))
  | .li d i => some (.c16 (0x2#5 ++ d ++ i ++ 0x0#1))
  | .addCompact d s => some (.c16 (0x3#5 ++ d ++ s ++ 0x0#2 ++ 0x0#1))
  | .subCompact d s => some (.c16 (0x4#5 ++ d ++ s ++ 0x0#2 ++ 0x0#1))
  | .addiCompact d i => some (.c16 (0x5#5 ++ d ++ i ++ 0x0#1))
  | .andCompact d s => some (.c16 (0x6#5 ++ d ++ s ++ 0x0#2 ++ 0x0#1))
  | .orCompact d s => some (.c16 (0x7#5 ++ d ++ s ++ 0x0#2 ++ 0x0#1))
  | .xorCompact d s => some (.c16 (0x8#5 ++ d ++ s ++ 0x0#2 ++ 0x0#1))
  | .slliCompact d h => some (.c16 (0x9#5 ++ d ++ h ++ 0x0#1))
  | .srliCompact d h => some (.c16 (0xA#5 ++ d ++ h ++ 0x0#1))
  | .sraiCompact d h => some (.c16 (0xB#5 ++ d ++ h ++ 0x0#1))
  | .beqz s o => some (.c16 (0x10#5 ++ s ++ o ++ 0x0#1))
  | .bnez s o => some (.c16 (0x11#5 ++ s ++ o ++ 0x0#1))
  | .jCompact o => some (.c16 (0x12#5 ++ o ++ 0x0#1))
  | .ungang => some (.c32 (0x0#8 ++ 0x0#2 ++ 0x1#3 ++ 0x0#12 ++ 0x5F#7))
  | .done => some (.c32 (0x0#3 ++ 0x0#7 ++ 0x3#3 ++ 0x0#12 ++ 0x6B#7))
  | .xret => some (.c32 (0x5#13 ++ 0x0#12 ++ 0x6D#7))
  | .shfence => some (.c32 (0x0#7 ++ 0x0#3 ++ 0x3#3 ++ 0x0#12 ++ 0x73#7))
  | .nop => some (.c32 (0x0#10 ++ 0x0#3 ++ 0x0#6 ++ 0x0#6 ++ 0x79#7))
  | .utret => some (.c32 (0x0#10 ++ 0x2#3 ++ 0x0#6 ++ 0x0#6 ++ 0x79#7))
  | .seqsync => some (.c32 (0x0#10 ++ 0x5#3 ++ 0x0#6 ++ 0x0#6 ++ 0x79#7))
  | .tret => some (.c32 (0x0#13 ++ 0x0#12 ++ 0x7B#7))
  | .halt => some (.c32 (0x1#13 ++ 0x0#12 ++ 0x7B#7))
  | .tlbinv => some (.c32 (0x2#13 ++ 0x0#12 ++ 0x7B#7))
  | .bkclr => some (.c32 (0x3#13 ++ 0x0#12 ++ 0x7B#7))
  | .ownset => some (.c32 (0x4#13 ++ 0x0#12 ++ 0x7B#7))
  | .mspill => some (.c32 (0x5#13 ++ 0x0#12 ++ 0x7B#7))
  | .mfill => some (.c32 (0x6#13 ++ 0x0#12 ++ 0x7B#7))
  | .rothold => some (.c32 (0x9#13 ++ 0x0#12 ++ 0x7B#7))
  | .nopCompact => some (.c16 (0x0#5 ++ 0x0#10 ++ 0x0#1))
  | .ret => some (.c16 (0x13#5 ++ 0x0#10 ++ 0x0#1))
  | .doneCompact => some (.c16 (0x16#5 ++ 0x0#10 ++ 0x0#1))
  | .brkCompact => some (.c16 (0x17#5 ++ 0x0#10 ++ 0x0#1))
  | .mma _ _ => none
  | .mmas _ _ => none
  | .mzero _ _ => none
  | .mldacc _ _ => none
  | .mstacc _ _ => none
  | .mperm _ _ => none
  | .retire _ _ => none
  | .completionPost _ _ _ => none
  | .matrixStep _ _ _ _ => none
  | .performHeadEntry _ => none
  | .writeBack _ _ => none
  | .dropCleanCopy _ _ => none
  | .performPostedStore _ _ => none
  | .memoryReply _ _ => none
  | .hostCompletion _ => none
  | .packetDrop _ _ _ _ => none
  | .classStarvation _ _ => none
  | .issueStarvation _ _ => none
  | .messageArrival _ => none
  | .messageStatus _ _ => none
  | .pondMove _ _ => none
  | .dispatch _ => none
  | .mbxovf => none
  | .headFlit _ _ => none
  | .streamWord _ _ => none
  | .marker _ _ => none
  | .attach _ _ _ _ => none
  | .doorbell _ _ => none
  | .ringPoll _ _ => none
  | .placementPass _ => none
  | .successorList _ _ => none
  | .deadlineExpiry _ _ => none
  | .diversion => none
  | .wrapupBudgetExpiry _ _ => none
  | .budgetExpiry => none
  | .lateFault => none
  | .wfeTimeout _ _ => none
  | .hangWatchdog _ => none
  | .transferRequest _ => none
  | .xovfIntake _ => none
  | .transferStart _ => none
  | .transferCompletion _ => none
  | .transferInterrupt => none
  | .freeIncrement _ _ _ => none
  | .faultRetry _ _ => none
  | .duePoint _ => none
  | .deferralEnd _ => none
  | .rotationPause _ _ => none
  | .holdExpiry _ _ => none
  | .swapRequest _ _ _ => none
  | .ownerSwap _ _ => none
  | .portTraining _ => none
  | .trainingEnd _ _ => none
  | .laneFailure _ => none
  | .portStop _ => none
  | .collectiveStart _ _ _ => none
  | .collectiveEnd _ _ _ => none
  | .hostRead _ _ _ => none
  | .hostWrite _ _ _ => none
  | .hostAtomic _ _ _ _ _ _ => none
  | .coldStart _ => none
  | .warmStart _ => none
  | .startTimeout => none
  | .configurationRecord _ _ _ => none
  | .attestationRequest _ => none
  | .debugToken _ => none
  | .debugLevelSet _ => none
  | .debuggerAccess _ _ _ _ => none
  | .debuggerResume _ _ => none
  | .idleEntry _ => none
  | .idleExit _ => none
  | .retentionEntry => none
  | .retentionExit => none
  | .powerOff => none
  | .errorContainment _ _ _ => none
  | .scrub _ _ _ => none
  | .zeroFill _ _ => none
  | .powerMeasurement _ _ => none
  | .capFrame _ _ => none
  | .ptpMessage _ => none
  | .managementWrite _ => none
  | .unassignedEncoding _ => none
  | .fetchFault => none
  | .vectorCompletion _ _ => none
  | .holdover => none
  | .ownerCreation _ => none
  | .ownerWithdrawal _ _ => none
  | .participantRegistration _ => none
  | .participantDeregistration _ _ _ => none

/-- The instruction word of an instruction, as a trap value shows it; zero for an event, which no word encodes. -/
def Instr.word (i : Instr) : Word :=
  match encode i with
  | some c => c.value
  | none => 0

/-- The length of an instruction in bytes (R51). -/
def Instr.size (i : Instr) : Nat :=
  match encode i with
  | some c => c.size
  | none => 0

/-- The bytes of a code as the hardware stores them, lowest address first (R51). -/
def Code.bytes : Code → List Byte
  | .c16 w => leBytes 2 w.toNat
  | .c32 w => leBytes 4 w.toNat

/-- The bytes the opcode table's word `w` of `nbits` bits stands for: the first word at the lowest address, and
zeros above `nbits` up to the longest instruction. -/
def tableBytes (nbits w : Nat) : List Byte := leBytes 4 (w % 2 ^ nbits)

/-- What the decoder reads from an instruction whose bits are `w`, numbered as spec/opcode_table.json numbers them. -/
noncomputable def decodeTableWord (nbits w : Nat) : Option Instr :=
  match decodeBytes (tableBytes nbits w) with
  | .ok (c, _) => c.decode
  | .error _ => none

end Sys2Proof
end

