-- ==== Sys2Proof/Config.lean ====
section
/-! DEFINITION. What one implementation fixes: sizes the spec states once, and the free values the spec leaves open. -/

namespace Sys2Proof.Config

/-- A value the spec leaves open, drawn by number: nothing is known of it. -/
opaque freeWord : Nat → BitVec 64

/-- What a control core reads in the CSRs of its site and stack, by core and CSR number: a control core lies on no site
of a stack, and the spec states no value (R13, R353). -/
opaque controlCsr : Nat → Nat → BitVec 64

/-- The handle of a join cell, numbered 256 x group + cell: the spec gives the word no layout (R210). -/
opaque joinHandle : Nat → BitVec 64

/-- The channel that holds an HBM physical address: the spec states no interleaving of the channels (R294). -/
opaque hbmChannel : Nat → Nat

/-- The row, of the whole module, that holds a place of local store: the spec states no row size (R336). -/
opaque storeRow : Nat → Nat

/-- Bits [63:16] of word 17 of a save area where late faults are pending: the spec gives them no layout (R163). -/
opaque lateBits : List (BitVec 16 × BitVec 8 × BitVec 64) → BitVec 48

/-- The late faults that CTXLOAD reads from those bits of a word that the core did not write (R163). -/
opaque lateFaults : BitVec 48 → List (BitVec 16 × BitVec 8 × BitVec 64)

/-- Word 1 of an owner event, from its kind and the two numbers it holds: the spec gives it no layout (R378). -/
opaque eventDetail : Nat → Nat → Nat → BitVec 64

/-- The RSASSA-PSS signature with the module's identity key (R371, R373: the key is the module's secret). -/
opaque rsaSign : List Byte → List Byte

/-- The SLH-DSA signature with the module's identity key (R371, R373). -/
opaque slhSign : List Byte → List Byte

/-- SHA-384 of the SLH-DSA identity public key (R374); what binds a debug token to the module (R375, assumption 55). -/
opaque slhKeyHash : List Byte

/-- SHA-384 of the RSA identity public key (R374). -/
opaque rsaKeyHash : List Byte

/-- Bytes of HBM on one compute stack: 192 GiB (R12). -/
def hbmStack : Nat := 192 * 2 ^ 30

/-- Bytes of LPDDR 6: 1 TiB (R12). -/
def lpddrSize : Nat := 2 ^ 40

/-- Bytes of one sub-bank: 256 KiB (R333). -/
def subBank : Nat := 2 ^ 18

/-- Slots of the fault table of a stack (R330). -/
def faultSlots : Nat := 512

/-- The Rilain keys held in Boot ROM: the RSA modulus, its exponent, and the SLH-DSA key in its 32-byte encoding (R371; free
constants, assumption 27). -/
opaque romRsaModulus : Nat
opaque romRsaExponent : Nat
opaque romSlhKey : List (BitVec 8)

end Sys2Proof.Config
end

