-- ==== Sys2Proof/Tab.lean ====
section
/-! DEFINITION. Sparse tables: a list of numbered entries, an unlisted number reading as a stated default.
Registers, threads, cores and cells are held in such tables. -/

namespace Sys2Proof

/-- A sparse table from numbers to `α`. -/
abbrev Tab (α : Type) := List (Nat × α)

namespace Tab

/-- The entry at `k`, or the default `d` where none is listed. -/
def get {α : Type} (d : α) : Tab α → Nat → α
  | [], _ => d
  | (j, x) :: t, k => if j = k then x else get d t k

/-- The entry at `k`, if one is listed. -/
def find {α : Type} : Tab α → Nat → Option α
  | [], _ => none
  | (j, x) :: t, k => if j = k then some x else find t k

/-- The table with `k` holding `x`; kept in rising order of its numbers. -/
def set {α : Type} (x : α) : Tab α → Nat → Tab α
  | [], k => [(k, x)]
  | (j, y) :: t, k => if j = k then (k, x) :: t else if k < j then (k, x) :: (j, y) :: t else (j, y) :: set x t k

/-- The table with nothing listed at `k`. -/
def del {α : Type} : Tab α → Nat → Tab α
  | [], _ => []
  | (j, y) :: t, k => if j = k then del t k else (j, y) :: del t k

/-- Every listed entry changed by `f`. -/
def mapAll {α : Type} (f : Nat → α → α) (t : Tab α) : Tab α := t.map fun p => (p.1, f p.1 p.2)

end Tab

end Sys2Proof
end

