-- ==== Sys2Proof/Machine/State.lean ====
section
/-! DEFINITION. The machine's state, as plain data; its faults and refusals; the state after reset.
Every field's docstring gives the rule of spec/ that names it, its width and its reset value. -/

namespace Sys2Proof.Machine

/-- Why the machine stops. -/
inductive Fault where
  /-- Raised by an access whose physical address lies beyond the capacity of its tier (R12: 768 GiB of HBM4E, 1 TiB
  of LPDDR 6), where the spec gives the machine no memory. Safe: nothing is claimed of such an access. -/
  | noSuchMemory
deriving DecidableEq, Repr

/-- Why an instruction has no meaning here. -/
inductive Refusal where
  /-- Raised by an arm of `exec` for an instruction whose meaning is not written yet. Safe: it claims nothing. -/
  | notModelled (mnemonic : String)
deriving DecidableEq, Repr

/-- The states of a thread slot (R143). -/
inductive SlotState where
  | free | starting | ready | running | blocked | held | loading
deriving DecidableEq, Repr

/-- One entry of the dispatch ring (R157, R159). -/
structure RingEntry where
  /-- sequence number (R159; 16 bits) -/
  seq : BitVec 16 := 0
  /-- PC of the dispatched instruction (R159; 64 bits) -/
  pc : Word := 0
  /-- cause when faulted (R159; 8 bits) -/
  cause : BitVec 8 := 0
  /-- unit: 0 vector, 1 matrix (R159; 2 bits) -/
  unit : BitVec 2 := 0
  /-- state: 0 pending, 1 completed, 2 faulted, 3 cancelled (R159; 2 bits) -/
  st : BitVec 2 := 0
deriving DecidableEq, Repr

/-- A late fault waiting for a boundary (R157, R158). -/
structure LateFault where
  seq : BitVec 16
  cause : BitVec 8
  value : Word
deriving DecidableEq, Repr

/-- A pending transfer interrupt (R163, R298): its XFERID word with act 0, its handler entry, its user word. -/
structure Irq where
  xferid : Word
  entry : Word
  user : Word
deriving DecidableEq, Repr

/-- Which translation an outstanding access was made by: its owner, space (true supervisor), virtual address, and the
size of the page that translated it (R331). -/
structure Xlat where
  owner : Nat
  sup : Bool
  va : Nat
  size : Nat
  /-- how many invalidations had removed entries when it was made (MODEL'S OWN) -/
  gen : Nat
deriving DecidableEq, Repr

/-- Where an access lands: the first byte's place, and the translation it was made by. -/
structure Loc where
  key : Nat
  tr : Option Xlat
deriving DecidableEq, Repr

/-- What a memory request does at its home (R105, R113, R116). -/
inductive MemOp where
  | load (signed : Bool)
  | amo (op : BitVec 3) (x : Word) (frm : BitVec 3)
  | cas (expected new : Word)
  | cas2 (lo hi newLo newHi : Word)
deriving DecidableEq, Repr

/-- A load, AMO, CAS or CAS2 that has passed its checks (R98, R123): what remains to be done at the home. -/
structure MemReq where
  op : MemOp
  /-- bytes: 1, 2, 4, 8 or 16 -/
  n : Nat
  /-- the first byte's place in memory -/
  key : Nat
  ea : Word
  acq : Bool
  rel : Bool
  glbo : Bool
  rd : Nat
  tr : Option Xlat
deriving DecidableEq, Repr

/-- States of a stream port (R184, R185). -/
inductive PortState where
  | closed | opening | opened | closing
deriving DecidableEq, Repr

/-- A stream port of an owner context (R184, R185). -/
structure Port where
  /-- state (R184; 2 bits; reset: Closed) -/
  st : PortState := .closed
  /-- peer's rank (R185; 10 bits; reset: 0) -/
  rank : Nat := 0
  /-- peer's port (R185; 2 bits; reset: 0) -/
  port : Nat := 0
  /-- words of the current or last stream (R185; 16 bits; reset: 0) -/
  count : BitVec 16 := 0
  /-- its marker was dropped with its source unknown: it never arrives (R318; reset: false) -/
  lost : Bool := false
deriving DecidableEq, Repr

/-- What a Blocked thread waits for (R143). -/
inductive WaitKind where
  /-- a condition that the instruction itself tests again -/
  | retry
  /-- what MPUSH, XFER and XMCAST wait for once their eight words are copied (R245, R295) -/
  | command (words : List Word)
  /-- WFE, from the CYCLE at which it began (R156) -/
  | wfe (since : Nat)
  /-- BARARW after its arrival (R288): the place of a memory barrier, 0 for a cell, and its translation -/
  | arrived (key : Nat) (tr : Option Xlat)
  /-- a reply of memory (R119) -/
  | reply (r : MemReq)
  /-- a reply that never comes, a packet having been dropped with its source unknown (R318) -/
  | lost
  /-- the status of a message (R177), once the destination has answered -/
  | status (id : Nat) (answer : Option (BitVec 2))
  /-- the answer of a streamer (R295), once it has come while the thread was swapped out -/
  | answer (id : Nat) (result : Option Word)
  /-- the answer to a head flit, and the out-port as it was before (R184) -/
  | stream (before : Port)
  /-- an exchange whose arrival is made (R283) -/
  | exchange
  /-- CTXSAVE's wait for its target (R164) -/
  | busy
  /-- TLBINV, whose removal is made and bears a number (R331) -/
  | invalidated (gen : Nat)
  /-- SUSPEND, whose words 1 to 7 are in the store buffer (R148) -/
  | parked
  /-- MSPILL's wait for the commands of the tile it took, or, past it, with the place of its area, for its release (R256) -/
  | spilling (tile : Nat) (area : Option Nat)
deriving DecidableEq, Repr

/-- A vector instruction dispatched and not yet executed by the vector unit (R157), with the scalar operands and the
rounding mode read when it was dispatched (R8), and how far its single accesses have come (R269). -/
structure VDisp where
  seq : BitVec 16
  instr : Instr
  a : Word
  b : Word
  frm : BitVec 3
  /-- values of the accesses that a vector load has made (R269) -/
  seen : List Nat := []
  /-- places of a vector store's elements that have still to enter the store buffer, once they are all checked (R269) -/
  todo : Option (List (Nat × Loc)) := none
deriving DecidableEq, Repr

/-- A thread's place in a gang (R279). -/
structure GangInfo where
  /-- the leader's core and slot -/
  core : Nat
  slot : Nat
  size : Nat
  index : Nat
deriving DecidableEq, Repr

/-- A thread slot's context (R143 to R167). -/
structure Thread where
  /-- slot state (R143; one of seven; reset: Free) -/
  st : SlotState := .free
  /-- the thread's own number in this model, tagging its stores, commands and transfers (R121; MODEL'S OWN; reset: 0) -/
  uid : Nat := 0
  /-- OWNER: owner ID (R70; 8 bits; reset: set at thread start) -/
  owner : Nat := 0
  /-- KID of the thread's kernel, 0 for a thread of no kernel (R190, R203; 32 bits; reset: set at thread start) -/
  kid : Nat := 0
  /-- supervisor mode, TSTAT.mode (R144, R161; 1 bit; reset: 0, 1 for the resident loop) -/
  sup : Bool := false
  /-- PC, a code address (R52; 64 bits; reset: set at thread start) -/
  pc : Word := 0
  /-- g1 to g63 of the window (R61, R63; 63 x 64 bits; reset: 0 at thread start) -/
  g : Tab Word := []
  /-- window code, ALLOC.wsz (R61, R70; 2 bits; reset: set at thread start) -/
  wsz : BitVec 2 := 0
  /-- pool index of the window (R61; 0 to 511; reset: set at thread start) -/
  gbase : Nat := 0
  /-- v0 to v31 of the allocation (R61, R63; 32 x 512 bits; reset: 0 at thread start) -/
  v : Tab Vec := []
  /-- vector code, ALLOC.vsz (R61, R70; 2 bits; reset: set at thread start) -/
  vsz : BitVec 2 := 0
  /-- pool index of the vector run (R61; 0 to 63; reset: set at thread start) -/
  vbase : Nat := 0
  /-- m0 to m7 (R63, R278; 8 x 64 bits; reset: 0 at thread start) -/
  m : Tab Word := []
  /-- ix0 to ix3 (R63, R81; 4 x 64 bits; reset: 0 at thread start) -/
  ix : Tab Word := []
  /-- issue priority, ALLOC.prio (R70, R315; 8 bits; reset: set at thread start) -/
  prio : BitVec 8 := 0
  /-- FRM (R38; 3 bits; reset: 0 at thread start) -/
  frm : BitVec 3 := 0
  /-- FFLAGS (R42; 5 bits; reset: 0 at thread start) -/
  fflags : BitVec 5 := 0
  /-- FEN (R42; 5 bits; reset: 0 at thread start) -/
  fen : BitVec 5 := 0
  /-- SRSEED (R38; 32 bits; reset: 0x2545F491 at thread start) -/
  srseed : BitVec 32 := 0x2545F491#32
  /-- KBUDGET.en (R145, R203; 1 bit; reset: set at thread start) -/
  budgetEn : Bool := false
  /-- KBUDGET.count (R145, R203; 48 bits; reset: set at thread start) -/
  budget : Nat := 0
  /-- the budget has reached zero and BUDGET is not yet taken (R145; 1 bit; reset: 0 at thread start) -/
  budgetDue : Bool := false
  /-- dispatch counter (R157; 16 bits; reset: 0 at thread start) -/
  seq : BitVec 16 := 0
  /-- dispatch ring (R157, R159; 32 entries; reset: empty at thread start) -/
  ring : Tab RingEntry := []
  /-- dispatched vector instructions not yet executed (R157; up to 32; reset: none) -/
  vq : List VDisp := []
  /-- pending late faults (R158; reset: none at thread start) -/
  late : List LateFault := []
  /-- a late-fault handler runs in user mode and its UTRET has not come (R158; 1 bit; reset: 0) -/
  lateUser : Bool := false
  /-- user traps taken inside that handler whose UTRET has not come (R158; reset: 0) -/
  userDepth : Nat := 0
  /-- a late-fault handler runs in supervisor mode and its TRET has not come (R158; 1 bit; reset: 0) -/
  lateSup : Bool := false
  /-- supervisor traps taken inside that handler whose TRET has not come (R158; reset: 0) -/
  lateDepth : Nat := 0
  /-- Held by a debugger's halt (R376; 1 bit; reset: 0) -/
  dbgHeld : Bool := false
  /-- event bit (R156; 1 bit; reset: 0 at thread start) -/
  evt : Bool := false
  /-- EVWORD (R183; 64 bits; reset: 0 at thread start) -/
  evword : Word := 0
  /-- UTVEC (R161; 64 bits; reset: 0 at thread start) -/
  utvec : Word := 0
  /-- UEPC (R161; 64 bits; reset: 0 at thread start) -/
  uepc : Word := 0
  /-- UCAUSE (R161; 64 bits; reset: 0 at thread start) -/
  ucause : Word := 0
  /-- UTVAL (R161; 64 bits; reset: 0 at thread start) -/
  utval : Word := 0
  /-- USCRATCH (R161; 64 bits; reset: 0 at thread start) -/
  uscratch : Word := 0
  /-- TEPC (R161; 64 bits; reset: 0 at thread start) -/
  tepc : Word := 0
  /-- TCAUSE (R161; 9 bits; reset: 0 at thread start) -/
  tcause : Word := 0
  /-- TVAL (R161; 64 bits; reset: 0 at thread start) -/
  tval : Word := 0
  /-- TSEQ (R161; 17 bits; reset: 0 at thread start) -/
  tseq : Word := 0
  /-- TSTAT.in (R161; 1 bit; reset: 0, 1 for the resident loop) -/
  tin : Bool := false
  /-- TSTAT.pm (R161; 1 bit; reset: 0 at thread start) -/
  tpm : Bool := false
  /-- TSCRATCH (R161; 64 bits; reset: 0 at thread start) -/
  tscratch : Word := 0
  /-- DRSEL (R161; 17 bits; reset: 0 at thread start) -/
  drsel : Word := 0
  /-- MTEN (R230; 1 bit; reset: 0 at thread start) -/
  mten : Bool := false
  /-- MFADDR (R243; 52 bits; reset: 0 at thread start) -/
  mfaddr : Word := 0
  /-- DLEPC (R203; 64 bits; reset: 0 at thread start) -/
  dlepc : Word := 0
  /-- KIDX.index (R203; 10 bits; reset: set at thread start) -/
  kindex : Nat := 0
  /-- KIDX.count (R203; 11 bits; reset: set at thread start) -/
  kcount : Nat := 0
  /-- KIDX.div (R203; 1 bit; reset: 0 at thread start) -/
  diverted : Bool := false
  /-- XFERID (R305; 64 bits; reset: 0 at thread start) -/
  xferid : Word := 0
  /-- XEPC (R305; 64 bits; reset: 0 at thread start) -/
  xepc : Word := 0
  /-- XARG (R305; 64 bits; reset: 0 at thread start) -/
  xarg : Word := 0
  /-- pending transfer interrupts, in the order their transfers ended (R298, R299; up to 64; reset: none) -/
  irqs : List Irq := []
  /-- TLBIV (R339; 62 bits; reset: 0 at thread start) -/
  tlbiv : Word := 0
  /-- PGFLT (R339; 64 bits; reset: 0 at thread start) -/
  pgflt : Word := 0
  /-- BKSEL (R339; 58 bits; reset: 0 at thread start) -/
  bksel : Word := 0
  /-- ROTHCTL (R353; 64 bits; reset: 0 at thread start) -/
  rothctl : Word := 0
  /-- membership of a gang (R279; reset: none) -/
  gang : Option GangInfo := none
  /-- trap of a gang member not yet taken while the gang completes: cause, dispatch number of a late fault, value
  (R281; reset: none) -/
  gangTrap : Option (BitVec 8 × Option (BitVec 16) × Word) := none
  /-- trap value of the follower reported by the last GANGBRK (R282; 64 bits; reset: 0) -/
  gstat : Word := 0
  /-- mailbox whose handler the thread is, and whether its class is exclusive (R181; reset: none) -/
  mbx : Option (Nat × Bool) := none
  /-- the waiting instruction and its wait, of a Blocked thread (R143; reset: none) -/
  wait : Option (Instr × WaitKind) := none
  /-- the order in which the thread began to wait (R170, R283; MODEL'S OWN counter; reset: 0) -/
  waitNo : Nat := 0
  /-- clk during which the thread was eligible without issuing (R315; reset: 0) -/
  idle : Nat := 0
  /-- the resident loop that the front end started on the core (R144, R175; MODEL'S OWN mark; reset: false) -/
  resident : Bool := false
deriving DecidableEq, Repr

/-- An ordinary or posted store not yet performed (R121): its thread, its first byte's place, its bytes. -/
structure StoreEntry where
  uid : Nat
  owner : Nat
  key : Nat
  bytes : List Byte
  tr : Option Xlat
  /-- dropped with its source unknown: never acknowledged (R318) -/
  lost : Bool := false
deriving DecidableEq, Repr

/-- One byte of a release-buffer entry, with the number of the store that wrote it. -/
structure RelByte where
  key : Nat
  byte : Byte
  ver : Nat
deriving DecidableEq, Repr

/-- A release-buffer entry (R125): bytes, and the threads whose stores it holds. -/
structure RelEntry where
  owner : Nat
  bytes : List RelByte
  uids : List Nat
  trs : List Xlat
  /-- dropped with its source unknown: never acknowledged (R318) -/
  lost : Bool := false
  /-- CYCLE at which its oldest store was performed (R127) -/
  since : Nat := 0
deriving DecidableEq, Repr

/-- A write to host memory not yet acknowledged by a completion (R135, R142): the thread, its owner and its core. -/
structure HostWrite where
  uid : Nat
  owner : Nat
  core : Nat
deriving DecidableEq, Repr

/-- A byte of a stack's copies (R121, R125): value, dirty mark, the store that last wrote it, and the CYCLE since which a
clean byte has been held (R127). -/
structure CopyByte where
  byte : Byte
  dirty : Bool
  ver : Nat
  since : Nat := 0
deriving DecidableEq, Repr

/-- Valid bits of a sub-bank's 4,096 lines (R334): all of them `dflt` but the lines listed. -/
structure LineSet where
  dflt : Bool := false
  flips : List Nat := []
deriving DecidableEq, Repr

/-- The content of a tagged sub-bank, which moves with its core's content from site to site (R333, R334, R340, R345). -/
structure SubBank where
  /-- owner tag, 0 free (R333; 8 bits; reset: 0) -/
  tag : Nat := 0
  /-- the slot that holds it: its place among the good sub-banks of the site (R345; 4 bits; reset: 0) -/
  slot : Nat := 0
  /-- line valid bits (R334; 4,096 bits; reset: 0) -/
  valid : LineSet := {}
deriving DecidableEq, Repr

/-- The physical sub-banks of a site, which stay where they are when contents move (R333, R336). -/
structure Site where
  /-- sub-banks retired (R333; 16 bits; reset: none) -/
  retired : List Nat := []
  /-- spare rows used in each sub-bank (R336; 16 x 0 to 8; reset: 0) -/
  spares : Tab Nat := []
deriving DecidableEq, Repr

/-- A queue register of an owner context (R168 to R172). -/
structure Queue where
  /-- binding descriptor; kind 0 when Unbound (R168; 18 bits; reset: 0) -/
  desc : Word := 0
  /-- KID of the binding thread (R168; 32 bits; reset: 0) -/
  kid : Nat := 0
  /-- elements, head first (R168; 16 x 64 bits; reset: empty) -/
  elems : List Word := []
  /-- elements an engine holds because the queue is full (R171; reset: none) -/
  pending : List Word := []
  /-- the last stream has closed and no new one has opened (R170, R185; 1 bit; reset: 0) -/
  closed : Bool := false
deriving DecidableEq, Repr

/-- A message: its header and its payload words (R174, R176). -/
structure Msg where
  header : Word
  payload : List Word
deriving DecidableEq, Repr

/-- A mailbox of an owner context (R173 to R182). Its messages lie in its ring in local store. -/
structure Mailbox where
  /-- Defined (R173; 1 bit; reset: 0) -/
  defined : Bool := false
  /-- Spilled (R173; 1 bit; reset: 0) -/
  spilled : Bool := false
  /-- base offset of the receive queue (R179; 22 bits; reset: 0) -/
  base : Nat := 0
  /-- k: 2^k entries (R179; 4 bits; reset: 0) -/
  k : Nat := 0
  /-- KID of the defining thread's kernel (R189; 32 bits; reset: 0) -/
  kid : Nat := 0
  /-- index of the receive queue's head entry, modulo 2^k (R174; reset: 0) -/
  head : Nat := 0
  /-- messages in the receive queue (R174; 0 to 2^k; reset: 0) -/
  count : Nat := 0
deriving DecidableEq, Repr

/-- A class binding (R180): the class descriptor's first three words and the binder's KID. -/
structure ClassBind where
  entry : Word
  word1 : Word
  budget : Word
  kid : Nat
deriving DecidableEq, Repr

/-- An operand ring of an owner context and tenant (R233, R251). -/
structure OpRing where
  /-- base offset (R251; 22 bits; reset: Undefined) -/
  base : Nat
  /-- n: 2^n slots (R251; 3 bits; reset: Undefined) -/
  n : Nat
  /-- slot size 3 KiB (R251; 1 bit; reset: Undefined) -/
  big : Bool
  /-- head counter (R233; 16 bits; reset: Undefined) -/
  head : BitVec 16 := 0
  /-- tail counter (R233; 16 bits; reset: Undefined) -/
  tail : BitVec 16 := 0
deriving DecidableEq, Repr

/-- Status of one tenant of an owner context (R250). -/
structure MqStat where
  /-- commands retired (R250; 32 bits; reset: 0) -/
  ret : BitVec 32 := 0
  /-- MQSTAT.rov (R250; 1 bit; reset: 0) -/
  rov : Bool := false
  /-- MQSTAT.of (R250; 1 bit; reset: 0) -/
  ov : Bool := false
  /-- MQSTAT.nv (R250; 1 bit; reset: 0) -/
  nv : Bool := false
  /-- internal completion FIFO (R242; 16 x 64 bits; reset: empty) -/
  fifo : List Word := []
deriving DecidableEq, Repr

/-- One of the four shape sets of a core (R194, R199). -/
structure ShapeSet where
  kid : Nat
  nshape : Nat
  pointer : Bool
  addr : Nat
  /-- the broadcast records' words, record by record -/
  records : List (List Word)
deriving DecidableEq, Repr

/-- A request to a streamer (R292, R296): the block and who issued it. -/
structure XferReq where
  num : BitVec 16
  owner : Nat
  core : Nat
  uid : Nat
  slot : Nat
  sup : Bool
  mcast : Bool
  block : List Word
deriving DecidableEq, Repr

/-- An owner context on a core (R168, R183, R233, R305, R339). -/
structure Ctx where
  /-- the rank this core has for the owner (R15, R70; 10 bits; reset: set at attach) -/
  rank : Nat := 0
  /-- LSCAP (R339; 5 bits; reset: 0) -/
  lscap : Nat := 0
  /-- map of logical sub-banks to the contents they name, and so to slots (R333, R345; 16 x 4 bits; reset: empty) -/
  banks : Tab Nat := []
  /-- q0 to q15 (R168; reset: Unbound, empty) -/
  queues : Tab Queue := []
  /-- mailboxes 0 to 7 (R173; reset: Undefined) -/
  mbxs : Tab Mailbox := []
  /-- class bindings, numbered 16 x mailbox + class (R180; reset: unbound) -/
  classes : Tab ClassBind := []
  /-- MBXPOND (R183; 64 bits; reset: 0) -/
  mbxpond : Word := 0
  /-- MBXPST.tail: the next pond entry to write (R183; 16 bits; reset: 0) -/
  pondTail : Nat := 0
  /-- the pond's entries, oldest first: index in the ring, and mailbox; MBXPST.count is their number and MBXPST.head
  the first one's index (R175, R183; reset: empty) -/
  pond : List (Nat × Nat) := []
  /-- MBXOPEN (R183; 8 bits; reset: 0) -/
  mbxopen : Word := 0
  /-- MBXOVF values not yet taken by the resident loop (R175; reset: none) -/
  ovf : List Word := []
  /-- message counter of the rank (R176; 16 bits; reset: 0) -/
  msgCtr : BitVec 16 := 0
  /-- the front end's counter of messages to mailbox 0 of the rank (R194; 16 bits; reset: 0) -/
  feCtr : BitVec 16 := 0
  /-- XOVF (R305; 64 bits; reset: 0) -/
  xovf : Word := 0
  /-- index of the overflow ring's head entry (R296; reset: 0) -/
  xovfHead : Nat := 0
  /-- requests in the overflow ring, oldest first, with their streamer (R296; reset: empty) -/
  xovfReqs : List (Nat × XferReq) := []
  /-- transfer counter (R295; 16 bits; reset: 0) -/
  xferCtr : BitVec 16 := 0
  /-- operand rings, numbered 4 x tenant + ring (R233; reset: Undefined) -/
  rings : Tab OpRing := []
  /-- tenant status (R250; reset: 0) -/
  mq : Tab MqStat := []
  /-- out-ports 0 to 3 (R184; reset: Closed) -/
  outs : Tab Port := []
  /-- in-ports 0 to 3 (R184; reset: Closed) -/
  ins : Tab Port := []
  /-- shape sets 0 to 3 (R194; reset: empty) -/
  shapes : Tab ShapeSet := []
deriving DecidableEq, Repr

/-- States of a matrix command (R230, R243). -/
inductive CmdState where
  /-- waiting in its tenant queue -/
  | queued
  /-- executed by the array and not yet retired; the pairs' slots still unpopped -/
  | running
  /-- ended, holding its entry until its completion element is posted: outcome and reason (R242) -/
  | ended (outcome : BitVec 2) (reason : BitVec 8) (order : Nat)
deriving DecidableEq, Repr

/-- A matrix command in a tenant queue (R230, R234). -/
structure MCmd where
  words : List Word
  owner : Nat
  ten : Nat
  core : Nat
  slot : Nat
  uid : Nat
  kid : Nat
  sup : Bool
  seq : BitVec 16
  st : CmdState
  /-- work the command still has to run, in sixteenths of a full-rate step (R20, R260) -/
  left : Nat
deriving DecidableEq, Repr

/-- ACCOWN's fields of one tile (R244). -/
structure AccTile where
  /-- v (1 bit; reset: 0) -/
  v : Bool := false
  /-- sp (1 bit; reset: 0) -/
  sp : Bool := false
  /-- ten (1 bit; reset: 0) -/
  ten : Nat := 0
  /-- own (8 bits; reset: 0) -/
  own : Nat := 0
deriving DecidableEq, Repr

/-- CTXPROG and the watchdog of a save or load (R161, R164, R166). -/
structure CtxProg where
  /-- CTXPROG.act (1 bit; reset: 0) -/
  act : Bool := false
  /-- CTXPROG.op, true for CTXLOAD (1 bit; reset: 0) -/
  load : Bool := false
  /-- CTXPROG.slot (4 bits; reset: 0) -/
  slot : Nat := 0
  /-- CTXPROG.done (8 bits; reset: 0) -/
  done : Nat := 0
  /-- CTXPROG.tn (1 bit; reset: 0) -/
  tn : Bool := false
  /-- CTXPROG.area: the area's address (52 bits; reset: 0) -/
  area : Nat := 0
  /-- clk counted by the hang watchdog (R166; 32 bits; reset: 0) -/
  clk : Nat := 0
  /-- the save's header says complete (R164; reset: 0) -/
  complete : Bool := false
  /-- CYCLE when the save began (R163; reset: 0) -/
  began : Nat := 0
  /-- bytes of the units that a load has read (R165; reset: empty) -/
  buf : List Byte := []
deriving DecidableEq, Repr

/-- A context saved by CTXSAVE (R164): what the core keeps of it. The save area gives no layout to some of a thread's
state; the core keeps that beside the transfers it keeps attached (MODEL'S OWN). -/
structure SavedCtx where
  area : Nat
  owner : Nat
  kid : Nat
  uid : Nat
  /-- words 0 to 55 of the area as they were written -/
  words : List Word
  seq : BitVec 16
  late : List LateFault
  lateUser : Bool
  userDepth : Nat
  lateSup : Bool
  lateDepth : Nat
  budgetDue : Bool
  mbx : Option (Nat × Bool)
  resident : Bool
  /-- a load has made a thread of it; the core keeps it for other copies of its area -/
  taken : Bool := false
deriving DecidableEq, Repr

/-- An entry of the shape record cache (R200). -/
structure RecEntry where
  owner : Nat
  addr : Nat
  words : List Word
deriving DecidableEq, Repr

/-- What a core's holding register holds (R296): a request of an owner for a streamer that cannot be written into its overflow
ring, or, with `read`, the head of that ring that cannot be read. -/
structure XHold where
  owner : Nat
  streamer : Nat
  req : XferReq
  read : Bool
deriving DecidableEq, Repr

/-- A core (R11, R18). Cores are numbered by their content: `512 stack + 64 position + 16 group + 4 tile + core`,
where the content moves over the sites with rotation (R340); 2048 to 2063 are the control cores (R13). -/
structure Core where
  /-- thread slots 0 to 15 (R143; reset: Free) -/
  threads : Tab Thread := []
  /-- owner contexts by owner ID (R168; up to 4; reset: none) -/
  ctxs : Tab Ctx := []
  /-- the owner running on the core, 0 none (R350; 8 bits; reset: 0) -/
  active : Nat := 0
  /-- threads of the owners not running, saved whole (R350; reset: none) -/
  shadow : Tab (Tab Thread) := []
  /-- store buffer, head first (R121; reset: empty) -/
  sb : List StoreEntry := []
  /-- posted pool (R121; reset: empty) -/
  posted : List StoreEntry := []
  /-- release buffer (R121; reset: empty) -/
  rel : List RelEntry := []
  /-- acc0 to acc3: word 1024 t + 32 r + c (R232, R244; 4 x 4 KiB; reset: 0) -/
  acc : Tab (BitVec 32) := []
  /-- ACCOWN (R244; reset: 0) -/
  accown : Tab AccTile := []
  /-- MSPA (R256; 64 bits; reset: 0) -/
  mspa : Word := 0
  /-- row-split mode (R231; 1 bit; reset: full) -/
  rowSplit : Bool := false
  /-- tenant queues 0 and 1 (R230; 16 commands each; reset: empty) -/
  mqueues : Tab (List MCmd) := []
  /-- the tenant that started the latest command, for the alternation (R230; reset: tenant 0 next) -/
  lastTen : Nat := 1
  /-- TVEC (R161; 64 bits; reset: 0) -/
  tvec : Word := 0
  /-- CTXPROG and its watchdog (R161; reset: 0) -/
  ctxprog : CtxProg := {}
  /-- HWLIM (R161; 32 bits; reset: 3,300,000) -/
  hwlim : BitVec 32 := 3300000#32
  /-- contexts saved from the core (R164; reset: none) -/
  saved : List SavedCtx := []
  /-- contents of tagged sub-banks, each under a number it keeps while it moves (R333, R345; up to 16; reset: free) -/
  subs : Tab SubBank := []
  /-- the one-entry holding register of transfer requests (R296; reset: empty) -/
  xhold : Option XHold := none
  /-- shape record cache, most recent first (R200; 16 entries; reset: empty) -/
  recs : List RecEntry := []
  /-- slot that last issued at each priority (R315; 256 x 4 bits; reset: none) -/
  lastIssued : Tab Nat := []
  /-- mailbox that last dispatched (R181; 3 bits; reset: 7, so the count begins at mailbox 0) -/
  lastMbx : Nat := 7
deriving DecidableEq, Repr

/-- States of a kernel (R189). -/
inductive KState where
  | queued | placing | running | wrappingUp | closing | closed | rejected | killed
deriving DecidableEq, Repr

/-- A kernel (R189 to R211). -/
structure Kernel where
  /-- state (R189; reset: no kernel) -/
  st : KState
  /-- flag value written (R193, R209; 8 bits) -/
  flag : Nat := 0
  /-- flag cause (R193; 8 bits) -/
  cause : Nat := 0
  /-- flag detail (R193; 8 bits) -/
  detail : Nat := 0
  /-- launch record, words at offsets 8 to 120 (R191; 15 x 64 bits) -/
  record : List Word
  /-- the ring that launched it or its chain (R201) -/
  ring : Nat
  /-- depth (R202; 3 bits) -/
  depth : Nat
  /-- order of entry into Placing (R310) -/
  order : Nat
  /-- TIME of entry into Placing (R310; 64 bits) -/
  entered : Nat
  /-- TIME of placement (R207, R313; 64 bits) -/
  placed : Nat := 0
  /-- groups placed on (R194) -/
  groups : List Nat := []
  /-- shape set used on each core, by rank (R194) -/
  sets : Tab Nat := []
  /-- ranks whose task record is held unlaunched (R189) -/
  tasks : List Nat := []
  /-- rem set by DLGET: the value and the TIME it was set (R207) -/
  rem : Option (Nat × Nat) := none
  /-- wrap-up budget left in clk (R204) -/
  wrapLeft : Nat := 0
  /-- the successor list has been considered (R201) -/
  listDone : Bool := false
  /-- order in which kernels ended, for the 4,096 most recent (R190) -/
  ended : Nat := 0
deriving DecidableEq, Repr

/-- A command ring attached to the front end (R187, R188). -/
structure CmdRing where
  /-- global address of the queue control block (52 bits) -/
  qcb : Nat
  /-- ring base (52 bits) -/
  base : Nat
  /-- log2 of the slot count (4 bits) -/
  n : Nat
  /-- priority ceiling (8 bits) -/
  ceil : Nat
  /-- host may produce (1 bit) -/
  host : Bool
  /-- running, not faulted -/
  running : Bool
  /-- read index R (64 bits) -/
  r : Nat
deriving DecidableEq, Repr

/-- A barrier cell (R284). -/
structure BarCell where
  /-- phase number P (32 bits; reset: 0) -/
  p : BitVec 32 := 0
  /-- count C (reset: 0) -/
  c : Nat := 0
  /-- arrivals for phase P (reset: 0) -/
  cur : Nat := 0
  /-- arrivals for phase P + 1 (reset: 0) -/
  nxt : Nat := 0
deriving DecidableEq, Repr

/-- An arrival at an exchange barrier (R283): participant, its core and slot, its thread, the vector given. -/
structure XArrival where
  part : Nat
  core : Nat
  slot : Nat
  uid : Nat
  val : Vec
  dest : Nat
deriving DecidableEq, Repr

/-- A join cell (R210, R211). -/
structure JoinCell where
  core : Nat
  kid : Nat
  /-- tasks not yet joined -/
  pending : Nat
  total : Nat
  pc : Word
  /-- g1 to g7 as parked -/
  regs : List Word
  wsz : BitVec 2
  prio : BitVec 8
  /-- discarded by a deadline -/
  discarded : Bool
  /-- the forker, resumed by a deadline, still waits for a free slot -/
  waits : Bool
deriving DecidableEq, Repr

/-- States of a registration (R356). -/
inductive RegState where
  | pending | ready | running | failed
deriving DecidableEq, Repr

/-- A post of a collective (R358): its op and its barrier token. -/
structure Post where
  s : BitVec 32
  op : Nat
  token : BitVec 32
deriving DecidableEq, Repr

/-- A registration for collectives (R356, R357). -/
structure Registration where
  st : RegState
  /-- the owner's domain at CREG (32 bits) -/
  dom : Nat
  name : Nat
  /-- buffer address (52 bits) -/
  addr : Nat
  /-- the place of each 4 KiB page of the span, as CREG found it -/
  pages : List Nat
  /-- contribution length n -/
  len : Nat
  kind : Nat
  /-- index j -/
  index : Nat
  /-- participants m -/
  count : Nat
  gather : Bool
  /-- the place of the memory barrier, as CREG found it -/
  bar : Nat
  /-- posts outstanding, oldest first -/
  posts : List Post := []
  /-- next sequence number (32 bits) -/
  next : BitVec 32 := 1
  /-- s of the latest ended collective (32 bits) -/
  lastS : BitVec 32 := 0
  /-- code of the latest failure (8 bits) -/
  code : Nat := 0
  /-- words of the contribution to the next collective that the arcade has read (R360) -/
  got : Tab Word := []
  /-- the running collective: the posts of the other modules' participants (R359) -/
  run : Option (List RemotePost) := none
  /-- words of its result already performed in the buffer (R360, R361) -/
  done : List Nat := []
deriving DecidableEq, Repr

/-- What the last placement pass of a context left, and since when another is asked for (R314). -/
structure PassMark where
  /-- the kernels that were in Placing, and the groups that were Free and those that were usable (R314; reset: none) -/
  kids : List Nat := []
  free : List Nat := []
  usable : List Nat := []
  /-- the context's groups (R314; reset: 0) -/
  groups : Nat := 0
  /-- CYCLE of the pass (R314; reset: 0) -/
  done : Nat := 0
  /-- CYCLE since which one of the causes of R314 stands (MODEL'S OWN; reset: none) -/
  asked : Option Nat := none
deriving DecidableEq, Repr

/-- An owner (R14). -/
structure Owner where
  /-- stopped by error containment (R379; 1 bit; reset: no owner) -/
  stopped : Bool := false
  /-- positions held, in order (R14, R15) -/
  grants : List PosGrant := []
  /-- holds a time-share of its one position (R14; 1 bit) -/
  timeShare : Bool := false
  /-- PGROOT (R339; 64 bits; reset: 0) -/
  pgroot : Word := 0
  /-- SVROOT (R339; 64 bits; reset: 0) -/
  svroot : Word := 0
  /-- UDELEG (R161; 22 bits; reset: 0) -/
  udeleg : Word := 0
  /-- CAPW.cls (R321; 4 bits; reset: 0) -/
  capCls : Nat := 0
  /-- CAPW.own (R321; 16 bits; reset: 0) -/
  capOwn : Nat := 0
  /-- CAPW.cap (R321; 16 bits; reset: 0xFFFF) -/
  cap : Nat := 0xFFFF
  /-- THRCAUSE.tcnt (R320; 32 bits; reset: 0) -/
  tcnt : BitVec 32 := 0
  /-- THRCAUSE.cur (R320; 5 bits; reset: 0) -/
  thrCur : BitVec 5 := 0
  /-- limits that lowered a unit in the interval in progress (R321; 5 bits; reset: 0) -/
  thrNow : BitVec 5 := 0
  /-- THRCAUSE [4:0] (R320; 5 bits; reset: 0) -/
  thr : BitVec 5 := 0
  /-- matrix duty in sixteenths (R383; 1 to 16; reset: 16) -/
  duty : Nat := 16
  /-- limits that lowered the duty since it last stood at 16, and so hold it (R321; 5 bits; reset: 0) -/
  heldBy : BitVec 5 := 0
  /-- OWNEV (R384; 64 bits; reset: 0) -/
  ownev : Word := 0
  /-- ARCDOM.dom (R364; 32 bits; reset: 0) -/
  dom : BitVec 32 := 0
  /-- the supervisor's consent to invasive halt (R375; 1 bit; reset: 0) -/
  consent : Bool := false
  /-- kernels by KID (R190; reset: none) -/
  kernels : Tab Kernel := []
  /-- next KID (R190; 32 bits; reset: 1) -/
  nextKid : Nat := 1
  /-- its last placement pass (R314; reset: none) -/
  pass : PassMark := {}
  /-- command rings (R187; reset: none) -/
  cmdRings : Tab CmdRing := []
  /-- barrier cells, numbered `barIndex level unit index` (R284; reset: 0) -/
  cells : Tab BarCell := []
  /-- exchange barriers, numbered as `xbarIndex` (R283; reset: no arrivals) -/
  xbars : Tab (List XArrival) := []
  /-- join cells, numbered 256 x group + cell (R210; reset: none) -/
  joins : Tab JoinCell := []
  /-- registrations by handle (R356; reset: none) -/
  regs : Tab Registration := []
deriving DecidableEq, Repr

/-- States of a transfer (R295 to R303). -/
inductive XState where
  | queued | spilled | running
  /-- Faulted, with nothing having reported it (R301) -/
  | faulted
  /-- Running, with a word dropped whose source is unknown: it never ends (R318) -/
  | stuck
  /-- Complete, an XMCAST whose tiles have not all freed (R303) -/
  | awaitingFree
deriving DecidableEq, Repr

/-- A word of a transfer still to be performed (R140, R293): its row and its byte in the row, the source word once it has been
read, and the destination ranks still to be written (a global destination counts as one rank). -/
structure XWord where
  row : Nat
  off : Nat
  val : Option Word := none
  left : List Nat
deriving DecidableEq, Repr

/-- A transfer (R292 to R304). -/
structure Xfer where
  req : XferReq
  st : XState
  streamer : Nat
  /-- words of a Running transfer still to be performed (R140) -/
  todo : List XWord := []
  /-- fault reason of a Running transfer, 0 for none so far, and of a Faulted one (R297) -/
  reason : Nat := 0
  /-- ranks of receivers that have freed (R303) -/
  freed : List Nat := []
  /-- tiles whose increment has reached the sender (R303) -/
  tiles : List Nat := []
deriving DecidableEq, Repr

/-- A message of the front end that waits in a stack's parking buffer (R347): where it goes, and whether a pond page that it finds
missing makes an owner event (R173). -/
structure ParkedMsg where
  core : Nat
  owner : Nat
  events : Bool
  msg : Msg
deriving DecidableEq, Repr

/-- A message in flight (R177). -/
structure Flight where
  id : Nat
  /-- the sending core, slot and thread -/
  core : Nat
  slot : Nat
  uid : Nat
  srcOwner : Nat
  owner : Nat
  rank : Nat
  mbx : Nat
  /-- slot of a SEND1 event, none for a mailbox message -/
  event : Option Nat
  desc : Word
  msg : Msg
deriving DecidableEq, Repr

/-- A transfer request in flight to its streamer (R295). -/
structure XFlight where
  id : Nat
  slot : Nat
  streamer : Nat
  req : XferReq
deriving DecidableEq, Repr

/-- Rotation states of a stack (R341 to R344). -/
inductive RotState where
  | idle
  | deferred (due : Nat)
  | lead (due started : Nat)
  /-- the pause for a due point has begun at a CYCLE, with the resends that it meets and a granule that fails (R344, R346) -/
  | pausing (due since : Nat) (resends : Nat) (failed : Option (Nat × Nat))
deriving DecidableEq, Repr

/-- A ROTHOLD hold (R352). -/
structure Hold where
  uid : Nat
  /-- TIME at which it ends -/
  ends : Nat
deriving DecidableEq, Repr

/-- An open fault-table entry (R330). -/
structure FaultEntry where
  owner : Nat
  sup : Bool
  page : Nat
deriving DecidableEq, Repr

/-- A compute stack (R330, R341, R353). -/
structure Stack where
  /-- ROTN (R353; 64 bits; reset: 0) -/
  rotn : Nat := 0
  /-- ROTCFG.en (R353; 1 bit; reset: 1) -/
  rotEn : Bool := true
  /-- ROTCFG.ivl, the interval in ms (R341, R353; 10 bits; reset: 16) -/
  ivl : Nat := 16
  /-- CYCLE of the next due point (R341; 64 bits; reset: I + s x I / 4) -/
  due : Nat := 52800000
  /-- rotation state (R341; reset: Idle) -/
  rot : RotState := .idle
  /-- live holds (R352; up to 16; reset: none) -/
  holds : List Hold := []
  /-- fault table, entry by index (R330; 512 entries; reset: empty) -/
  faults : Tab FaultEntry := []
  /-- copies of bytes whose home lies outside the stack (R121; reset: none) -/
  copies : Tab CopyByte := []
  /-- Idle power state (R377; 1 bit; reset: Active) -/
  idle : Bool := false
  /-- CYCLE since which no work has been seen (R377; reset: 0) -/
  quiet : Nat := 0
deriving DecidableEq, Repr

/-- States of an arcade port (R355). -/
inductive LinkState where
  | down | training | up | degraded
deriving DecidableEq, Repr

/-- An arcade port (R355). -/
structure ArcPort where
  /-- state (R355; reset: Down) -/
  st : LinkState := .down
  /-- working lanes (R355; 0 to 8; reset: 0) -/
  lanes : Nat := 0
  /-- CYCLE when training began (R355; reset: 0) -/
  since : Nat := 0
deriving DecidableEq, Repr

/-- A router output (R316, R317). -/
structure RouterOut where
  /-- ARBW (R316; 48 bits; reset: 4, 4, 4, 8, 4, 4, 8, 1 for w7 to w0) -/
  arbw : Word := 0x104108104201#64
  /-- deficit of each class (R316; reset: 0) -/
  deficit : Tab Nat := []
  /-- waiting count of each class (R317; reset: 0) -/
  waits : Tab Nat := []
  /-- the class that each group visits: group 0 is {2, 1, 0}, 1 {5, 4, 3}, 2 {7, 6} (R316; reset: its lowest, so that
  the first visit is to its highest) -/
  visit : Tab Nat := []
  /-- CYCLE of its latest clk (R316; MODEL'S OWN; reset: none) -/
  last : Option Nat := none
deriving DecidableEq, Repr

/-- A mapped BAR2 slot (R365). -/
structure Bar2 where
  owner : Nat
  base : Nat
deriving DecidableEq, Repr

/-- A swap of a time-shared position (R350). -/
structure Swap where
  next : Nat
deriving DecidableEq, Repr

/-- A device error record read by the control cores (R106, R318, R379). -/
structure ErrRec where
  kind : Nat
  owner : Nat
  detail : Nat
  loc : Nat
  cycle : Nat
  time : Nat
deriving DecidableEq, Repr

/-- A shrink request to the control cores: the site and sub-bank that failed, its owner, and CYCLE (R336). -/
structure ShrinkReq where
  site : Nat
  sub : Nat
  owner : Nat
  cycle : Nat
deriving DecidableEq, Repr

/-- Module power states (R377). -/
inductive Power where
  | on | retention | off
deriving DecidableEq, Repr

/-- A record of the non-invasive trace (R376). -/
structure TraceRec where
  owner : Nat
  core : Nat
  slot : Nat
  /-- PC of the instruction issued -/
  pc : Word
  /-- a precise trap was taken there -/
  trapped : Bool
  /-- the record of an event of the machine that changed the thread, and not of an instruction -/
  event : Bool := false
  cycle : Nat
deriving DecidableEq, Repr

/-- The slave clock of the management port (R381); TIME in the units of `State.timeU`. -/
structure PtpClock where
  /-- TIME when a two-step Sync arrived whose follow-up has not come (reset: none) -/
  arrived : Option Nat := none
  /-- arrival minus origin of the last Sync (reset: none) -/
  gap : Option Int := none
  /-- TIME when the last delay request left (reset: none) -/
  asked : Option Nat := none
  /-- mean path delay (reset: 0, none measured) -/
  delay : Int := 0
deriving DecidableEq, Repr

/-- The I/O die's state (R368 to R384). -/
structure Sys where
  /-- SYSSTAT.rec (R384; 1 bit; reset: set at start) -/
  recovery : Bool := false
  /-- SYSSTAT.warm (R384; 1 bit; reset: set at start) -/
  warm : Bool := false
  /-- SYSSTAT.ptp (R384; 2 bits; reset: 2) -/
  ptp : BitVec 2 := 2
  /-- SYSSTAT.dbg (R384; 2 bits; reset: 0) -/
  dbg : BitVec 2 := 0
  /-- SYSSTAT.sec (R384; 2 bits; reset: set at start) -/
  sec : BitVec 2 := 0
  /-- measurement registers 0 to 7 (R371; 48 bytes each; reset: zero bytes, then extended by the start) -/
  mr : Tab (List Byte) := []
  /-- minimum accepted versions of image kinds 0 to 7 (R372; 32 bits each; kept in flash) -/
  minVer : Tab (BitVec 32) := []
  /-- key of cap frames, from the configuration record (R382; kept in flash; reset: none) -/
  capKey : Option (List Byte) := none
  /-- IEEE 1588 domain number, from the configuration record (R381; kept in flash; reset: none) -/
  ptpDomain : Option Nat := none
  /-- the slave clock (R381) -/
  ptpClock : PtpClock := {}
  /-- nonce of this start (R375; reset: set at start) -/
  nonce : List Byte := []
  /-- trace buffer in LPDDR 6 (R376; reset: empty) -/
  trace : List TraceRec := []
  /-- record of the trace buffer last read by the control cores (R376; reset: none) -/
  traceRead : Option TraceRec := none
  /-- Rilain keys held in the stages that run (R371; reset: none) -/
  signers : List SignKeys := []
  /-- the 10-µs interval of the last power measurement (R383; MODEL'S OWN; reset: none) -/
  measured : Option Nat := none
  /-- failed-start counter (R370; kept in flash) -/
  failed : Nat := 0
  /-- the ready record of this start is written (R370; 1 bit) -/
  ready : Bool := true
  /-- CYCLE-independent clk since the start began (R370) -/
  startClk : Nat := 0
  /-- debug token in force (R375; reset: none) -/
  token : Option DebugToken := none
  /-- module power state (R377; reset: on) -/
  power : Power := .on
  /-- arcade ports 0 to 23 (R355; reset: Down) -/
  ports : Tab ArcPort := []
  /-- ARCDOM.mod (R364; 8 bits; reset: 0) -/
  modNo : BitVec 8 := 0
  /-- last accepted cap frame's sequence (R382; 64 bits; reset: 0) -/
  capSeq : Nat := 0
  /-- hall budget H in W (R382; 32 bits; reset: 0) -/
  hall : Nat := 0
  /-- class caps 0 to 15 in W (R382; 16 bits each; reset: 0) -/
  classCaps : Tab Nat := []
  /-- cap frames dropped (R382; telemetry; reset: 0) -/
  dropped : Nat := 0
  /-- BAR2 slots (R365; reset: unmapped) -/
  bar2 : Tab Bar2 := []
  /-- error records (R106, R379; reset: none) -/
  errs : List ErrRec := []
  /-- shrink requests (R336; reset: none) -/
  shrinks : List ShrinkReq := []
  /-- last attestation report's bytes (R373, R374; reset: none) -/
  report : List Byte := []
  /-- last completion the endpoint returned: none for Unsupported Request (R365; reset: no bytes) -/
  hostReply : Option (List Byte) := some []
  /-- value last read by a debugger (R376; 64 bits; reset: 0) -/
  dbgRead : Word := 0
deriving DecidableEq, Repr

/-- What `step` is told to do next (MODEL'S OWN: the spec leaves the order of the machine's moves open, R121). -/
inductive Move where
  /-- `n` clk pass -/
  | tick (n : Nat)
  /-- the thread of that core and slot issues one instruction, which completes at once where nothing stops it -/
  | issue (core slot : Nat)
  /-- the same, but a request, message, transfer or vector dispatch only leaves; its reply is another move -/
  | request (core slot : Nat)
  /-- an event of the machine -/
  | event (i : Instr)
  /-- the n-th transfer begins to run, its words being moves of their own (R140) -/
  | transferBegin (n : Nat)
  /-- the k-th of the words that the n-th transfer still has to perform is read, or, once read, written at the j-th of its
  destinations (R140, R293) -/
  | transferWord (n k j : Nat)
  /-- the oldest vector instruction of a thread makes its next memory access (R269) -/
  | vectorAccess (core slot : Nat)
  /-- a word of a registration's contribution to the running collective is read, or a word of its result written (R360) -/
  | collectiveWord (owner handle k : Nat) (write : Bool)
  /-- one clk in which each core of a list issues from the thread of its slot (R315) -/
  | clock (picks : List (Nat × Nat))
  /-- a clk of a router output in which some classes have a flit ready (R316, R317; an input) -/
  | output (out : Nat) (ready : List Nat)
  /-- a move in which the host's completions carry an error status (R106, R115, R297) -/
  | failing (m : Move)
deriving DecidableEq, Repr

/-- The machine's state. -/
structure State where
  /-- memory: local stores, HBM, LPDDR 6 and host memory at the places `Ops` gives them (R122; reset: nothing listed) -/
  mem : List Host.Cell := []
  /-- cores (R11; reset: no owner, no thread) -/
  cores : Tab Core := []
  /-- owners (R14; reset: none) -/
  owners : Tab Owner := []
  /-- compute stacks 0 to 3 (R11; reset: each as `Stack`, its first due point by R341) -/
  compStacks : Tab Stack := [(0, { due := 52800000 }), (1, { due := 66000000 }), (2, { due := 79200000 }), (3, { due := 92400000 })]
  /-- transfers not yet forgotten (R295; reset: none) -/
  xfers : List Xfer := []
  /-- writes to host memory not yet acknowledged by a completion, by thread (R135, R142; reset: none) -/
  hostWrites : List HostWrite := []
  /-- messages in flight (R177; reset: none) -/
  flights : List Flight := []
  /-- transfer requests in flight (R295; reset: none) -/
  xflights : List XFlight := []
  /-- messages of the front end parked during a pause of their stack, in the order sent (R347; reset: none) -/
  parked : List ParkedMsg := []
  /-- the sub-banks of each site, numbered as the contents are at start (R333, R336; reset: all good) -/
  sites : Tab Site := []
  /-- corrected errors of each row of local store since its last repair (R336; reset: 0) -/
  rowErrs : Tab Nat := []
  /-- rows of a site due for repair, in order: sub-bank, row, and whether uncorrectable (R336; reset: none) -/
  repairs : Tab (List (Nat × Nat × Bool)) := []
  /-- the context that a streamer last took a spilled request from, 256 x core + owner (R296; reset: none) -/
  xovfLast : Tab Nat := []
  /-- record of each exclusion pair: the layer denied most recently (R20; reset: cleared) -/
  denied : Tab Nat := []
  /-- the pairs whose step at this CYCLE has begun (R319; MODEL'S OWN; reset: none) -/
  stepped : List Nat := []
  /-- router outputs (R316; reset: weights of ARBW) -/
  outs : Tab RouterOut := []
  /-- the name table's entries of other modules (R356; reset: none) -/
  remotes : List Participant := []
  /-- swaps requested, by 8 x stack + position (R350; reset: none) -/
  swaps : Tab Swap := []
  /-- the I/O die (R384) -/
  sys : Sys := {}
  /-- CYCLE (R70; 64 bits; reset: 0) -/
  cycle : Nat := 0
  /-- TIME in units of 1/165,000 ns, 50,000 of them a clk (R70, R381; reset: 0) -/
  timeU : Nat := 0
  /-- offset of TIME still to be slewed, in the same units (R381; reset: 0) -/
  slew : Int := 0
  /-- core of the thread that `exec` acts on (MODEL'S OWN; reset: 0) -/
  core : Nat := 0
  /-- slot of the thread that `exec` acts on (MODEL'S OWN; reset: 0) -/
  slot : Nat := 0
  /-- the current issue only sends requests (MODEL'S OWN; reset: false) -/
  splitIssue : Bool := false
  /-- completions of the host in the current move carry an error status (R106, R115, R297; an input; reset: false) -/
  hostError : Bool := false
  /-- next number for threads, stores, messages and waits (MODEL'S OWN; reset: 1) -/
  nextUid : Nat := 1
  /-- invalidations that have removed entries (R331; MODEL'S OWN; reset: 0) -/
  tlbGen : Nat := 0
  /-- precise traps taken so far (R299; MODEL'S OWN; reset: 0) -/
  traps : Nat := 0
  /-- free values drawn so far (MODEL'S OWN; reset: 0) -/
  draws : Nat := 0
  /-- moves asked for (MODEL'S OWN; reset: none) -/
  sched : List Move := []
deriving DecidableEq, Repr

/-- The machine right after a cold start (R6, R369): every register at its reset value, no owner, no memory listed. -/
def State.reset : State := {}

end Sys2Proof.Machine
end

