-- ==== Sys2Proof/Machine/Access.lean ====
section
/-! DEFINITION. The module's geometry (R11 to R15, R101, R340), and the one way to read and write each part of the
state. -/

namespace Sys2Proof.Machine

/-! ### Geometry -/

/-- The first control core (R13). -/
def firstControl : Nat := 2048

/-- A control core (R13). -/
def isControl (c : Nat) : Bool := firstControl ≤ c

/-- The stack of a core: 0 to 3, or 4 for the I/O die's control cores. -/
def stackOf (c : Nat) : Nat := c / 512

/-- The core that holds a rank, by its content number (R15, R101): the group's place in the cyclic order of the
position's layers gives its group number. -/
def rankCore (o : Owner) (rank : Nat) : Nat :=
  match o.grants[rank / 64]? with
  | none => 4096
  | some p => 512 * p.stack + 64 * p.pos + 16 * ((rank % 64 / 16 + p.layer0) % 4) + rank % 16

/-- NRANK (R15, R70). -/
def nrank (o : Owner) : Nat := 64 * o.grants.length

/-- The rank below a rank (R101). -/
def rankBelow (q : Nat) : Nat := 64 * (q / 64) + (q % 64 + 48) % 64

/-- The ring road: the column after a column (R340). -/
def nextColumn : Nat → Nat
  | 0 => 1 | 1 => 2 | 2 => 3 | 3 => 7 | 7 => 6 | 6 => 5 | 5 => 4 | 4 => 0 | x => x

/-- The column reached after `n` horizontal steps (R340). -/
def columnAfter : Nat → Nat → Nat
  | 0, x => x
  | n + 1, x => columnAfter n (nextColumn x)

/-- The logic layer of a core's content after `n` steps of its stack: odd steps are vertical rolls (R340). -/
def layerOf (c n : Nat) : Nat := (c % 64 / 16 + (n + 1) / 2) % 4

/-- The column of a core's content after `n` steps of its stack: even steps are horizontal steps (R340). -/
def columnOf (c n : Nat) : Nat := columnAfter (n / 2 % 8) (c % 512 / 64)

/-! ### Parts of the state -/

/-- A core. -/
def coreAt (s : State) (c : Nat) : Core := Tab.get {} s.cores c

/-- A core changed. -/
def updCore (s : State) (c : Nat) (f : Core → Core) : State :=
  { s with cores := Tab.set (f (coreAt s c)) s.cores c }

/-- A thread slot of a core. -/
def thrAt (s : State) (c sl : Nat) : Thread := Tab.get {} (coreAt s c).threads sl

/-- A thread slot changed. -/
def updThrAt (s : State) (c sl : Nat) (f : Thread → Thread) : State :=
  updCore s c fun k => { k with threads := Tab.set (f (Tab.get {} k.threads sl)) k.threads sl }

/-- The current thread. -/
def thr (s : State) : Thread := thrAt s s.core s.slot

/-- The current thread changed. -/
def updThr (s : State) (f : Thread → Thread) : State := updThrAt s s.core s.slot f

/-- An owner context of a core. -/
def ctxAt (s : State) (c o : Nat) : Ctx := Tab.get {} (coreAt s c).ctxs o

/-- An owner context changed. -/
def updCtxAt (s : State) (c o : Nat) (f : Ctx → Ctx) : State :=
  updCore s c fun k => { k with ctxs := Tab.set (f (Tab.get {} k.ctxs o)) k.ctxs o }

/-- The context of the current thread's owner on the current core. -/
def ctx (s : State) : Ctx := ctxAt s s.core (thr s).owner

/-- That context changed. -/
def updCtx (s : State) (f : Ctx → Ctx) : State := updCtxAt s s.core (thr s).owner f

/-- An owner. -/
def ownerAt (s : State) (o : Nat) : Owner := Tab.get {} s.owners o

/-- An owner changed. -/
def updOwnerAt (s : State) (o : Nat) (f : Owner → Owner) : State :=
  { s with owners := Tab.set (f (ownerAt s o)) s.owners o }

/-- The current thread's owner. -/
def owner (s : State) : Owner := ownerAt s (thr s).owner

/-- The current thread's owner changed. -/
def updOwner (s : State) (f : Owner → Owner) : State := updOwnerAt s (thr s).owner f

/-- A compute stack. -/
def stackAt (s : State) (n : Nat) : Stack := Tab.get {} s.compStacks n

/-- A compute stack changed; the control cores have none. -/
def updStackAt (s : State) (n : Nat) (f : Stack → Stack) : State :=
  if n < 4 then { s with compStacks := Tab.set (f (stackAt s n)) s.compStacks n } else s

/-- A kernel of an owner, if the front end still knows it. -/
def kernelAt (s : State) (o kid : Nat) : Option Kernel := Tab.find (ownerAt s o).kernels kid

/-- A kernel changed. -/
def updKernel (s : State) (o kid : Nat) (f : Kernel → Kernel) : State :=
  match kernelAt s o kid with
  | none => s
  | some k => updOwnerAt s o fun w => { w with kernels := Tab.set (f k) w.kernels kid }

/-- A fresh number, and the state that has counted it. -/
def fresh (s : State) : Nat × State := (s.nextUid, { s with nextUid := s.nextUid + 1 })

/-- A free value, and the state that has drawn it: nothing is known of the value. -/
def draw (s : State) : BitVec 64 × State := (Config.freeWord s.draws, { s with draws := s.draws + 1 })

/-- TIME in ns (R70, R381). -/
def timeNow (s : State) : Nat := s.timeU / 165000

/-- The rank of a core for an owner. -/
def rankOf (s : State) (c o : Nat) : Nat := (ctxAt s c o).rank

/-- A device error record for the control cores (R106, R379). -/
def errRecord (s : State) (kind owner detail loc : Nat) : State :=
  { s with sys := { s.sys with errs := s.sys.errs ++ [⟨kind, owner, detail, loc, s.cycle, timeNow s⟩] } }

/-! ### Sites (R333, R340, R345) -/

/-- The site on which a core's content stands, numbered as the contents are at start; a control core's own. -/
def siteOf (s : State) (c : Nat) : Nat :=
  let n := (stackAt s (stackOf c)).rotn
  if isControl c then c else 512 * stackOf c + 64 * columnOf c n + 16 * layerOf c n + c % 16

/-- A site's sub-banks. -/
def siteAt (s : State) (n : Nat) : Site := Tab.get {} s.sites n

/-- The good sub-banks of a site in ascending order: slot 0, slot 1 and so on (R345). -/
def Site.good (x : Site) : List Nat := (List.range 16).filter fun i => !x.retired.contains i

/-- The smallest number of good sub-banks on any core of a stack, G (R333). -/
def goodSubs (s : State) (stack : Nat) : Nat :=
  (s.sites.filter fun x => stackOf x.1 == stack).foldl (fun n x => Nat.min n x.2.good.length) 16

/-- Spare rows used in a sub-bank. -/
def Site.used (x : Site) (sub : Nat) : Nat := Tab.get 0 x.spares sub

/-- A sub-bank of a core by the number its content bears. -/
def subAt (s : State) (core sub : Nat) : SubBank := Tab.get {} (coreAt s core).subs sub

/-- The free slots of the site on which a core's content stands, lowest first. -/
def freeSlots (s : State) (core : Nat) : List Nat :=
  (List.range (siteAt s (siteOf s core)).good.length).filter fun i =>
    !(coreAt s core).subs.any fun b => b.2.tag != 0 && b.2.slot == i

/-- The numbers that no content of a core bears, lowest first: the free sub-banks bear them in the order of their slots. -/
def freeSubs (k : Core) : List Nat := (List.range 16).filter fun i => (Tab.get {} k.subs i).tag == 0

/-- The slot of a sub-bank. -/
def slotOfSub (s : State) (core sub : Nat) : Option Nat :=
  if (subAt s core sub).tag != 0 then some (subAt s core sub).slot
  else (freeSlots s core)[(freeSubs (coreAt s core)).idxOf sub]?

/-- The physical sub-bank that a core's sub-bank is. -/
def physOf (s : State) (core sub : Nat) : Option Nat :=
  (slotOfSub s core sub).bind fun i => (siteAt s (siteOf s core)).good[i]?

/-- The core whose content stands on a site. -/
def coreOfSite (s : State) (site : Nat) : Option Nat :=
  ((List.range 512).map fun i => 512 * stackOf site + i).find? fun c => siteOf s c == site

/-- A stack stands in a rotation pause (R344). -/
def pausing (s : State) (n : Nat) : Bool := match (stackAt s n).rot with | .pausing .. => true | _ => false

/-! ### Registers of a thread -/

/-- Registers of a window code: 16, 32 or 64 (R61). -/
def windowSize (w : BitVec 2) : Nat := match w.toNat with | 0 => 16 | 1 => 32 | _ => 64

/-- Vector registers of a vector code: 0, 8, 16 or 32 (R61). -/
def vectorSize (v : BitVec 2) : Nat := match v.toNat with | 0 => 0 | 1 => 8 | 2 => 16 | _ => 32

/-- g[n] of a thread; g0 reads zero (R10). -/
def Thread.getG (t : Thread) (n : Nat) : Word := if n = 0 then 0 else Tab.get 0 t.g n

/-- g[n] written; a write to g0 is discarded (R10). -/
def Thread.setG (t : Thread) (n : Nat) (x : Word) : Thread := if n = 0 then t else { t with g := Tab.set x t.g n }

/-- v[n] of a thread. -/
def Thread.getV (t : Thread) (n : Nat) : Vec := Tab.get 0 t.v n

/-- v[n] written. -/
def Thread.setV (t : Thread) (n : Nat) (x : Vec) : Thread := { t with v := Tab.set x t.v n }

/-- m[n] of a thread. -/
def Thread.getM (t : Thread) (n : Nat) : Word := Tab.get 0 t.m n

/-- m[n] written. -/
def Thread.setM (t : Thread) (n : Nat) (x : Word) : Thread := { t with m := Tab.set x t.m n }

/-- ix[n] of a thread. -/
def Thread.getIx (t : Thread) (n : Nat) : Word := Tab.get 0 t.ix n

/-- ix[n] written. -/
def Thread.setIx (t : Thread) (n : Nat) (x : Word) : Thread := { t with ix := Tab.set x t.ix n }

/-- g[n] of the current thread. -/
def rg (s : State) (n : BitVec 6) : Word := (thr s).getG n.toNat

/-- g[n] of the current thread written. -/
def wg (s : State) (n : BitVec 6) (x : Word) : State := updThr s fun t => t.setG n.toNat x

/-- g[n] of the current thread written, for a register number that the instruction computes. -/
def wgn (s : State) (n : Nat) (x : Word) : State := updThr s fun t => t.setG n x

/-- v[n] of the current thread. -/
def rv (s : State) (n : BitVec 6) : Vec := (thr s).getV n.toNat

/-- v[n] of the current thread written. -/
def wv (s : State) (n : BitVec 6) (x : Vec) : State := updThr s fun t => t.setV n.toNat x

end Sys2Proof.Machine
end

