-- ==== Sys2Proof/Machine/Memory.lean ====
section
/-! DEFINITION. Memory as one sparse list of bytes, the places of each tier in it, the sub-banks of local store, and
translation (R12, R122, R325 to R335). -/

namespace Sys2Proof.Machine

/-! ### The sparse memory -/

/-- What a byte that is not listed reads as: zero. R369 and R334 zero HBM and local store before any owner is
created; for LPDDR 6 and host memory the spec gives no contents (assumption 6). -/
def unlisted : Byte := 0

namespace Memory

/-- The canonical form: addresses strictly rising, no entry equal to what an unlisted address reads as. -/
def wf : List Host.Cell → Bool
  | [] => true
  | (a, b) :: t => (b != unlisted) && (match t with | [] => true | (a', _) :: _ => decide (a < a')) && wf t

/-- The byte at an address. -/
def get : List Host.Cell → Nat → Byte
  | [], _ => unlisted
  | (a, b) :: t, k => if a = k then b else if k < a then unlisted else get t k

/-- The memory with a byte written. -/
def set (b : Byte) : List Host.Cell → Nat → List Host.Cell
  | [], k => if b = unlisted then [] else [(k, b)]
  | (a, x) :: t, k =>
    if a = k then (if b = unlisted then t else (k, b) :: t)
    else if k < a then (if b = unlisted then (a, x) :: t else (k, b) :: (a, x) :: t)
    else (a, x) :: set b t k

/-- The memory with the bytes from `lo` to below `hi` back at what an unlisted address reads as. -/
def clear (lo hi : Nat) (m : List Host.Cell) : List Host.Cell := m.filter fun c => !(lo ≤ c.1 && c.1 < hi)

end Memory

/-! ### Places

A byte's place in the list: HBM at its physical address, LPDDR 6, host memory and the local stores above it. -/

/-- The first place of LPDDR 6. -/
def lpddrBase : Nat := 2 ^ 48

/-- The first place of host memory. -/
def hostBase : Nat := 2 * 2 ^ 48

/-- The first place of the local stores. -/
def lsBase : Nat := 3 * 2 ^ 48

/-- The place of a byte of a core's sub-bank. -/
def lsKey (core sub off : Nat) : Nat := lsBase + core * 2 ^ 22 + sub * 2 ^ 18 + off

/-- Local store. -/
def isLs (k : Nat) : Bool := lsBase ≤ k

/-- Host memory. -/
def isHost (k : Nat) : Bool := hostBase ≤ k && k < lsBase

/-- A global byte that a stack may copy: HBM or LPDDR 6 (R124, R142). -/
def copyable (k : Nat) : Bool := k < hostBase

/-- The core whose bank holds a local-store place. -/
def lsCore (k : Nat) : Nat := (k - lsBase) / 2 ^ 22

/-- The sub-bank that holds a local-store place. -/
def lsSub (k : Nat) : Nat := (k - lsBase) / 2 ^ 18 % 16

/-- The stack that is a place's home, or none for LPDDR 6, host memory and control cores' stores (R122). -/
def homeStack (k : Nat) : Option Nat :=
  if k < lpddrBase then some (k / Config.hbmStack)
  else if isLs k && !isControl (lsCore k) then some (stackOf (lsCore k)) else none

/-- An access is in-stack when its home lies in the stack of the issuing core (R122). A control core is in no stack;
its own store is its home (DEDUCED, assumption 8). -/
def inStack (core k : Nat) : Bool :=
  if isControl core then isLs k && (lsCore k == core) else homeStack k == some (stackOf core)

/-- The place of a physical address of a tier, or none beyond the tier's capacity (R12, R327). -/
def placeOf (tier pa : Nat) : Option Nat :=
  match tier with
  | 0 => if pa < 4 * Config.hbmStack then some pa else none
  | 1 => if pa < Config.lpddrSize then some (lpddrBase + pa) else none
  | 2 => if pa < 2 ^ 48 then some (hostBase + pa) else none
  | _ => none

/-! ### Valid lines of local store (R334) -/

/-- A place in the local stores of a stack in its pause: accesses from outside the stack are parked (R347). -/
def parkedAt (s : State) (k : Nat) : Bool := isLs k && !isControl (lsCore k) && pausing s (stackOf (lsCore k))

/-- A line's valid bit. -/
def LineSet.has (l : LineSet) (n : Nat) : Bool := if l.flips.contains n then !l.dflt else l.dflt

/-- A line's valid bit set. -/
def LineSet.put (l : LineSet) (n : Nat) : LineSet :=
  if l.has n then l
  else if l.dflt then { l with flips := l.flips.filter (· != n) } else { l with flips := n :: l.flips }

/-- A sub-bank changed. -/
def updSub (s : State) (core sub : Nat) (f : SubBank → SubBank) : State :=
  updCore s core fun k => { k with subs := Tab.set (f (Tab.get {} k.subs sub)) k.subs sub }

/-- Whether a local-store place lies in a line whose valid bit is clear. -/
def lineClear (s : State) (k : Nat) : Bool :=
  isLs k && !(subAt s (lsCore k) (lsSub k)).valid.has ((k - lsBase) % 2 ^ 18 / 64)

/-! ### Bytes at their homes -/

/-- A byte at its home; a line whose valid bit is clear reads zero (R334). -/
def homeByte (s : State) (k : Nat) : Byte := if lineClear s k then 0 else Memory.get s.mem k

/-- A line filled with zeros and made valid, before the first write to it (R334). -/
def fillLine (s : State) (k : Nat) : State :=
  if lineClear s k then
    let lo := k - (k - lsBase) % 64
    updSub { s with mem := Memory.clear lo (lo + 64) s.mem } (lsCore k) (lsSub k)
      fun b => { b with valid := b.valid.put ((k - lsBase) % 2 ^ 18 / 64) }
  else s

/-- A byte written at its home. -/
def setHome (s : State) (k : Nat) (b : Byte) : State :=
  let s := fillLine s k
  { s with mem := Memory.set b s.mem k }

/-- `n` bytes at their homes, from a place upwards. -/
def homeBytes (s : State) (k : Nat) : Nat → List Byte
  | 0 => []
  | n + 1 => homeByte s k :: homeBytes s (k + 1) n

/-- Bytes written at their homes, from a place upwards. -/
def setHomes (s : State) (k : Nat) : List Byte → State
  | [] => s
  | b :: bs => setHomes (setHome s k b) (k + 1) bs

/-- A little-endian number at its home (R2). -/
def homeNat (s : State) (k n : Nat) : Nat := ofLeBytes (homeBytes s k n)

/-! ### Translation (R326 to R328) -/

/-- What an access needs of a page (R328). -/
structure Need where
  r : Bool := false
  w : Bool := false
  x : Bool := false
deriving DecidableEq, Repr

/-- Why PAGE is raised (R328, R339): PGFLT.kind. -/
inductive PageKind where
  | missing | malformed | migrating
deriving DecidableEq, Repr

/-- What a walk ends in. -/
inductive Walk where
  /-- the tier, the physical address, and P (pinned/save-area) -/
  | found (tier pa : Nat) (pinned : Bool)
  | page (k : PageKind)
  | access
  | noMemory
deriving DecidableEq, Repr

/-- The index of a virtual address at a level (R326). -/
def vaIndex (va : Nat) (lvl : Nat) : Nat := if lvl = 4 then va / 2 ^ 48 % 16 else va / 2 ^ (12 + 9 * lvl) % 512

/-- Bytes of a page at a level (R326). -/
def levelSize (lvl : Nat) : Nat := 2 ^ (12 + 9 * lvl)

/-- An entry that R328 calls malformed: reserved bits set, tier 3, another owner, a leaf where none may stand, a
non-leaf at level 0, C at level 2, a non-leaf's tier 2 or leaf-only bits, M with P. R327 gives C levels 0 and 1 only,
and R328 names level 2; C of a non-leaf entry is among bits [8:2]. -/
def malformedPte (e : BitVec 64) (lvl own : Nat) : Bool :=
  field e 56 8 != 0 || field e 7 2 != 0 || field e 9 2 == 3 || field e 48 8 != own
    || (e.getLsbD 1 && lvl ≥ 3) || (!e.getLsbD 1 && lvl == 0) || (e.getLsbD 5 && lvl == 2)
    || (!e.getLsbD 1 && (field e 9 2 == 2 || e.getLsbD 11 || field e 2 7 != 0))
    || (e.getLsbD 11 && e.getLsbD 6)

/-- The entry for an address in a level's table at `t` (a tier and a physical address), read at its home. -/
def pteAt (s : State) (va lvl : Nat) (t : Nat × Nat) : Option (BitVec 64) :=
  (placeOf t.1 (t.2 + 8 * vaIndex va lvl)).map fun k => BitVec.ofNat 64 (homeNat s k 8)

/-- The table that a non-leaf entry points to. -/
def nextTable (e : BitVec 64) : Nat × Nat := (field e 9 2, field e 12 36 * 4096)

/-- What a leaf of a level gives an access. -/
def leafWalk (e : BitVec 64) (va lvl : Nat) (need : Need) : Walk :=
  if (need.r && !e.getLsbD 2) || (need.w && !e.getLsbD 3) || (need.x && !e.getLsbD 4) then
    if e.getLsbD 11 then .page .migrating else .access
  else
    let size := levelSize lvl
    let base := field e 12 36 * 4096
    let pa := if e.getLsbD 5 then
        (base + va % (16 * size) + 2 ^ 48 - vaIndex va lvl % 16 * size) % 2 ^ 48
      else (base + va % size) % 2 ^ 48
    .found (field e 9 2) pa (e.getLsbD 6)

/-- One level of the walk of R328: where it ends, or the next table. -/
def walkLevel (s : State) (own va : Nat) (need : Need) (lvl : Nat) (t : Nat × Nat) : Walk ⊕ (Nat × Nat) :=
  match pteAt s va lvl t with
  | none => .inl .noMemory
  | some e =>
    if !e.getLsbD 0 then .inl (.page .missing)
    else if malformedPte e lvl own then .inl (.page .malformed)
    else if e.getLsbD 1 then .inl (leafWalk e va lvl need)
    else .inr (nextTable e)

/-- The walk of R328 from level `lvl` down, at the table at `t`. -/
def walkFrom (s : State) (own va : Nat) (need : Need) : Nat → Nat × Nat → Walk
  | 0, t => match walkLevel s own va need 0 t with
    | .inl w => w
    | .inr _ => .page .malformed
  | l + 1, t => match walkLevel s own va need (l + 1) t with
    | .inl w => w
    | .inr u => walkFrom s own va need l u

/-- The size of the page that translates an address, found as the walk finds it; 0 where there is none. -/
def sizeFrom (s : State) (va : Nat) : Nat → Nat × Nat → Nat
  | lvl, t =>
    match pteAt s va lvl t with
    | none => 0
    | some e =>
      if !e.getLsbD 0 then 0
      else if e.getLsbD 1 then if e.getLsbD 5 then 16 * levelSize lvl else levelSize lvl
      else
        match lvl with
        | 0 => 0
        | l + 1 => sizeFrom s va l (nextTable e)

/-- A root register's tier and address (R339). -/
def rootOf (r : Word) : Nat × Nat := (field r 48 2, field r 12 36 * 4096)

/-- The walk of an owner's user or supervisor space (R325, R328). -/
def walk (s : State) (o : Nat) (sup : Bool) (va : Nat) (need : Need) : Walk :=
  let w := ownerAt s o
  walkFrom s (if sup then 0 else o) va need 4 (rootOf (if sup then w.svroot else w.pgroot))

/-- The size of the page that translates an address of an owner's space. -/
def pageSize (s : State) (o : Nat) (sup : Bool) (va : Nat) : Nat :=
  let w := ownerAt s o
  sizeFrom s va 4 (rootOf (if sup then w.svroot else w.pgroot))

/-- The place that a walk finds in a page marked pinned/save-area (R332). -/
def pinnedPlace (s : State) (o : Nat) (sup : Bool) (va : Nat) (need : Need) : Option Nat :=
  match walk s o sup va need with
  | .found tier pa true => placeOf tier pa
  | _ => none

/-- The place a walk finds. -/
def walkPlace (s : State) (o : Nat) (sup : Bool) (va : Nat) (need : Need) : Option Nat :=
  match walk s o sup va need with
  | .found tier pa _ => placeOf tier pa
  | _ => none

/-! ### The fault table (R330) -/

/-- The lowest index without an entry. -/
def freeIndex {α : Type} (t : Tab α) : Nat → Nat → Option Nat
  | 0, _ => none
  | n + 1, i => if (Tab.find t i).isNone then some i else freeIndex t n (i + 1)

/-- The index of the open entry that bears a key. -/
def faultIndex : Tab FaultEntry → FaultEntry → Option Nat
  | [], _ => none
  | (i, e) :: t, k => if e = k then some i else faultIndex t k

/-- A fault recorded: the index and whether it opened its entry, or nothing where the table is full. The tables belong to the compute
stacks: the fault of a control core's thread, which lies in none, has no entry (DESIGN CHOICE, assumption 86). -/
def openFault (s : State) (stack : Nat) (e : FaultEntry) : Option (Nat × Bool) × State :=
  let st := stackAt s stack
  match faultIndex st.faults e with
  | some i => (some (i, false), s)
  | none =>
    if stack ≥ 4 then (none, s) else
    match freeIndex st.faults Config.faultSlots 0 with
    | none => (none, s)
    | some i => (some (i, true), updStackAt s stack fun k => { k with faults := Tab.set e k.faults i })

/-- PGFLT's kind code (R339). -/
def PageKind.code : PageKind → Nat
  | .missing => 0 | .malformed => 1 | .migrating => 2

/-- The fault of a thread's access: recorded, and PGFLT says which of the three happened (R330). -/
def threadFault (s : State) (o : Nat) (sup : Bool) (va : Nat) (k : PageKind) : State :=
  let (r, s) := openFault s (stackOf s.core) ⟨o, sup, va / 4096⟩
  updThr s fun t => { t with pgflt := match r with
    | some (i, first) => place 1 63 ||| place (if first then 1 else 0) 62 ||| place k.code 9 ||| place i 0
    | none => place k.code 9 }

/-- Entries of a page close when a later walk of the page succeeds (R330). -/
def closeFaults (s : State) (p : FaultEntry → Bool) : State :=
  { s with compStacks := Tab.mapAll (fun _ k => { k with faults := k.faults.filter fun x => !p x.2 }) s.compStacks }

/-- The fault-table entries of a page whose walk has succeeded. -/
def walked (s : State) (o : Nat) (sup : Bool) (va : Nat) : State :=
  closeFaults s fun e => e.owner == o && e.sup == sup && e.page == va / 4096

end Sys2Proof.Machine
end

