-- ==== Sys2Proof/Machine/Ops.lean ====
section
/-! DEFINITION. Named operations every meaning is written over: outcomes of an instruction, taking a trap and
returning from one (R150, R151, R154), the checks of R60, and the life of a thread slot (R143, R61, R63). -/

namespace Sys2Proof.Machine

/-! ### Causes (R152) -/

namespace Cause

def illegal : BitVec 8 := 0x01
def priv : BitVec 8 := 0x02
def regbound : BitVec 8 := 0x03
def misalign : BitVec 8 := 0x04
def page : BitVec 8 := 0x05
def access : BitVec 8 := 0x06
def lsbound : BitVec 8 := 0x07
def tag : BitVec 8 := 0x08
def arith : BitVec 8 := 0x09
def shape : BitVec 8 := 0x0A
def queue : BitVec 8 := 0x0B
def mbxovf : BitVec 8 := 0x0C
def accown : BitVec 8 := 0x0D
def vecfault : BitVec 8 := 0x0E
def matfault : BitVec 8 := 0x0F
def xferfault : BitVec 8 := 0x10
def budget : BitVec 8 := 0x11
def gangbrk : BitVec 8 := 0x12
def barrier : BitVec 8 := 0x13
def savefault : BitVec 8 := 0x14
def brk : BitVec 8 := 0x15
def trap : BitVec 8 := 0x16
def stream : BitVec 8 := 0x17
def coll : BitVec 8 := 0x18
def ring : BitVec 8 := 0x19

end Cause

/-! ### Outcomes of an instruction -/

/-- What an instruction's pseudocode ends in, or goes on with. -/
inductive Act (α : Type) where
  /-- the pseudocode goes on -/
  | ok (a : α) (s : State)
  /-- a precise trap (R9) -/
  | trap (cause : BitVec 8) (value : Word) (s : State)
  /-- the instruction waits: its thread becomes Blocked (R143) -/
  | wait (k : WaitKind) (s : State)
  /-- the state as it stands is the outcome: the instruction did not issue, or its thread has ended -/
  | leave (s : State)
  /-- the machine stops -/
  | stop (f : Fault)

/-- One piece of pseudocode after another. -/
def Act.bind {α β : Type} (x : Act α) (f : α → State → Act β) : Act β :=
  match x with
  | .ok a s => f a s
  | .trap c v s => .trap c v s
  | .wait k s => .wait k s
  | .leave s => .leave s
  | .stop e => .stop e

/-- A condition whose failure traps. -/
def Act.check (s : State) (good : Bool) (cause : BitVec 8) (value : Word) : Act Unit :=
  if good then .ok () s else .trap cause value s

/-- Pseudocode whose waits are of another kind. -/
def Act.holding {α : Type} (k : WaitKind) : Act α → Act α
  | .wait _ s => .wait k s
  | x => x

/-- The outcome of an instruction or an event. -/
abbrev Out := Host.Outcome State Fault Refusal

/-! ### Code addresses (R52, R53) -/

/-- A code address of the form of R52, bit 0 apart. -/
def codeForm (a : Word) : Bool :=
  if a.getLsbD 63 then field a 22 41 == 0 else field a 52 11 == 0

/-- A code address moved by an offset within its address part, which wraps (assumption 7). -/
def pcPlus (pc : Word) (d : Word) : Word :=
  if pc.getLsbD 63 then (1#1 ++ 0#41 ++ (pc + d).extractLsb' 0 22 : BitVec 64)
  else (0#12 ++ (pc + d).extractLsb' 0 52 : BitVec 64)

/-! ### The life of a thread slot -/

/-- The state of a slot whose thread goes on: a wait that ends leaves it Ready; an instruction that completes and a trap that
is taken leave it as it was (R143). -/
def SlotState.goOn : SlotState → SlotState
  | .blocked => .ready
  | x => x

/-- A pool index range is free of every occupied slot's run (R18, R61); a Starting slot has none yet (R143), nor a Loading
slot before the load has read its allocation, which gives it its number. -/
def runFree (ts : Tab Thread) (lo n : Nat) (runOf : Thread → Nat × Nat) : Bool :=
  ts.all fun p => p.2.st == .free || p.2.st == .starting || (p.2.st == .loading && p.2.uid == 0) ||
    (let r := runOf p.2; r.2 == 0 || r.1 + r.2 ≤ lo || lo + n ≤ r.1)

/-- The lowest free run of `n` in a pool of `count` runs, aligned to `n` (R61). -/
def lowestRun (ts : Tab Thread) (n : Nat) (runOf : Thread → Nat × Nat) : Nat → Nat → Option Nat
  | 0, _ => none
  | k + 1, i => if runFree ts (i * n) n runOf then some (i * n) else lowestRun ts n runOf k (i + 1)

/-- The window run of a thread. -/
def Thread.window (t : Thread) : Nat × Nat := (t.gbase, windowSize t.wsz)

/-- The vector run of a thread. -/
def Thread.vectors (t : Thread) : Nat × Nat := (t.vbase, vectorSize t.vsz)

/-- The lowest free general run and vector run for an allocation, if the pools hold both (R18, R61). -/
def findRuns (ts : Tab Thread) (wsz vsz : BitVec 2) : Option (Nat × Nat) :=
  let w := windowSize wsz
  let v := vectorSize vsz
  match lowestRun ts w Thread.window (512 / w) 0 with
  | none => none
  | some b => if v = 0 then some (b, 0) else
    match lowestRun ts v Thread.vectors (64 / v) 0 with
    | none => none
    | some c => some (b, c)

/-- A Free slot. -/
def slotFree (ts : Tab Thread) (i : Nat) : Bool := (Tab.get {} ts i).st == .free

/-- The lowest-numbered Free slot (R61). -/
def lowestFree (ts : Tab Thread) : Nat → Nat → Option Nat
  | 0, _ => none
  | n + 1, i => if slotFree ts i then some i else lowestFree ts n (i + 1)

/-- The slot and runs a new thread of a core would take (R61). -/
def findPlace (s : State) (c : Nat) (wsz vsz : BitVec 2) : Option (Nat × Nat × Nat) :=
  let ts := (coreAt s c).threads
  match lowestFree ts 16 0, findRuns ts wsz vsz with
  | some i, some (b, v) => some (i, b, v)
  | _, _ => none

/-- A budget word's two fields: 0 means none (R145). -/
def Thread.withBudget (t : Thread) (n : Nat) : Thread :=
  { t with budgetEn := n != 0, budget := n % 2 ^ 48, budgetDue := false }

/-- A thread put into a slot with the runs found, with a fresh number (R61, R63). Its slot is Ready: the runs were
free, so Starting ends at once. -/
def startThread (s : State) (c sl gb vb : Nat) (t : Thread) : State :=
  let (u, s) := fresh s
  updThrAt s c sl fun _ => { t with st := .ready, uid := u, gbase := gb, vbase := vb }

/-- A thread put into a slot whatever runs are free: without them the slot stays Starting until they are (R143). -/
def claimSlot (s : State) (c sl : Nat) (t : Thread) : State :=
  match findRuns (coreAt s c).threads t.wsz t.vsz with
  | some (gb, vb) => startThread s c sl gb vb t
  | none =>
    let (u, s) := fresh s
    updThrAt s c sl fun _ => { t with st := .starting, uid := u }

/-- A Starting slot whose runs have become free is Ready (R61, R143). -/
def grantRuns (s : State) (c sl : Nat) : State :=
  let t := thrAt s c sl
  if t.st == .starting then
    match findRuns (coreAt s c).threads t.wsz t.vsz with
    | some (gb, vb) => updThrAt s c sl fun t => { t with st := .ready, gbase := gb, vbase := vb }
    | none => s
  else s

/-- An out-port changed. -/
def updOut (s : State) (c o p : Nat) (f : Port → Port) : State :=
  updCtxAt s c o fun x => { x with outs := Tab.set (f (Tab.get {} x.outs p)) x.outs p }

/-- The out-port that a thread waiting in SOPEN had begun to open is as it was before (R184). -/
def unopen (s : State) (c : Nat) (t : Thread) : State :=
  match t.wait with
  | some (.sopen _ _ p, .stream before) => updOut s c t.owner p.toNat fun _ => before
  | _ => s

/-- Everything that goes with a thread of a core when its slot is freed: its holds end (R352), its exchange arrival is
withdrawn (R283), the port it waits to open is Closed (R184); its stores stay (R146). -/
def dropThread (s : State) (c : Nat) (t : Thread) : State :=
  let s := unopen s c t
  let s := { s with compStacks := Tab.mapAll (fun _ k => { k with holds := k.holds.filter fun h => h.uid != t.uid }) s.compStacks }
  let quit (o : Owner) : Owner := { o with xbars := Tab.mapAll (fun _ l => l.filter fun a => a.uid != t.uid) o.xbars }
  { s with owners := Tab.mapAll (fun n o => if n = t.owner then quit o else o) s.owners }

/-- A slot freed with its window and its vector allocation (R143, R146, R189). -/
def freeSlot (s : State) (c sl : Nat) : State :=
  let s := dropThread s c (thrAt s c sl)
  updCore s c fun k => { k with threads := Tab.del k.threads sl }

/-! ### Owners swapped out (R350) -/

/-- A core holds a thread, in a slot or of an owner swapped out, that satisfies a condition. -/
def holdsThread (k : Core) (p : Thread → Bool) : Bool :=
  k.threads.any (fun t => t.2.st != .free && p t.2) || k.shadow.any fun x => x.2.any fun t => t.2.st != .free && p t.2

/-- A core's contexts exchanged: those of an owner come into its slots (R350). -/
def swapCore (o : Nat) (s : State) (c : Nat) : State :=
  updCore s c fun k => { k with
    shadow := Tab.del (Tab.set k.threads k.shadow k.active) o
    threads := Tab.get [] k.shadow o
    active := o }

/-- What happens to a core's threads while an owner is swapped out happens to the saved ones (R350). -/
def onSaved (s : State) (c o : Nat) (f : State → State) : State := swapCore (coreAt s c).active (f (swapCore o s c)) c

/-- The same thing done for the threads in the slots, and for those of every owner swapped out. -/
def onEveryOwner (s : State) (c : Nat) (f : State → State) : State :=
  ((coreAt s c).shadow.map Prod.fst).foldl (fun s o => onSaved s c o f) (f s)

/-! ### Gangs: who belongs to one (R279 to R281) -/

/-- Whether a thread is a follower of the gang led from a core and slot. -/
def follows (c sl : Nat) (fc fs : Nat) (t : Thread) : Bool :=
  match t.gang with
  | some g => g.core == c && g.slot == sl && !(fc == c && fs == sl)
  | none => false

/-- The followers of the gang led from a core and slot: core, slot and index. -/
def followers (s : State) (c sl : Nat) : List (Nat × Nat) :=
  (s.cores.map fun k => (k.2.threads.filter fun p => p.2.st != .free && follows c sl k.1 p.1 p.2).map fun p =>
    (k.1, p.1)).flatten

/-- A gang disbanded: every follower ends as R189 frees a thread, and the leader is in no gang (R281). -/
def disband (s : State) (c sl : Nat) : State :=
  let s := (followers s c sl).foldl (fun s p => freeSlot s p.1 p.2) s
  updThrAt s c sl fun t => { t with gang := none, gangTrap := none }

/-- The current thread follows another in a gang. -/
def isFollower (s : State) : Bool :=
  match (thr s).gang with
  | some g => !(g.core == s.core && g.slot == s.slot)
  | none => false

/-! ### Taking a trap (R151) -/

/-- Whether the owner's UDELEG sends this cause to the thread's own handler now (R151, R160). -/
def delegated (o : Owner) (t : Thread) (cause : BitVec 8) : Bool :=
  !t.sup && o.udeleg.getLsbD cause.toNat && !t.ucause.getLsbD 63 && t.utvec != 0

/-- The trap delivered to the user handler (R151). -/
def userTrap (t : Thread) (cause : BitVec 8) (late : Option (BitVec 16)) (value : Word) : Thread :=
  { t with
    uepc := t.pc, utval := value, pc := t.utvec, lateUser := (t.lateUser || late.isSome),
    userDepth := if t.lateUser then t.userDepth + 1 else 0,
    ucause := place 1 63 ||| place (late.getD 0).toNat 16 ||| place (if late.isSome then 1 else 0) 8 ||| cause.setWidth 64 }

/-- The trap delivered to the supervisor (R151). -/
def superTrap (t : Thread) (tvec : Word) (cause : BitVec 8) (late : Option (BitVec 16)) (value : Word) : Thread :=
  { t with
    tepc := t.pc, tval := value, pc := tvec, tpm := t.sup, tin := true, sup := true,
    lateSup := (t.lateSup || late.isSome), lateDepth := if t.lateSup then t.lateDepth + 1 else 0,
    tcause := place (if late.isSome then 1 else 0) 8 ||| cause.setWidth 64,
    tseq := place (if late.isSome then 1 else 0) 16 ||| place (late.getD 0).toNat 0 }

/-- A trap of the current thread delivered, with the thread's PC as the PC of R151; `late` is the dispatch number of a
late fault. A double trap holds the slot and makes an error record. -/
def deliverTrap (s : State) (cause : BitVec 8) (late : Option (BitVec 16)) (value : Word) : State :=
  let t := thr s
  if delegated (owner s) t cause then
    updThr s fun t => { userTrap t cause late value with wait := none, st := t.st.goOn }
  else if t.sup && t.tin then
    errRecord (updThr s fun t => { t with wait := none, st := .held, dbgHeld := false }) 0x80 t.owner cause.toNat (16 * s.core + s.slot)
  else
    updThr s fun t => { superTrap t (coreAt s s.core).tvec cause late value with wait := none, st := t.st.goOn }

/-- A follower of the current thread's gang has not completed its instruction. -/
def followerWaits (s : State) : Bool := (followers s s.core s.slot).any fun p => (thrAt s p.1 p.2).st == .blocked

/-- A precise trap counted. -/
def countTrap (late : Option (BitVec 16)) (s : State) : State := if late.isNone then { s with traps := s.traps + 1 } else s

/-- A trap of the current thread. A gang follower's trap is kept for its leader, and a leader's until its followers have
completed the instruction (R281); then the gang disbands and the leader takes its own. -/
def takeTrap (s : State) (cause : BitVec 8) (late : Option (BitVec 16)) (value : Word) : State :=
  let s := countTrap late s
  if (thr s).gang.isSome then
    if isFollower s || followerWaits s then
      updThr s fun t => { t with gangTrap := some (cause, late, value), wait := none, st := t.st.goOn }
    else deliverTrap (disband s s.core s.slot) cause late value
  else deliverTrap s cause late value

/-! ### The checks of R60 -/

/-- A register field that an instruction names (R62). -/
inductive RegField where
  | g (n : Nat)
  | v (n : Nat)
deriving DecidableEq, Repr

/-- A field beyond the thread's allocation: the REGBOUND value (R62). -/
def RegField.bound (t : Thread) : RegField → Option Word
  | .g n => if n < windowSize t.wsz then none else some (place n 0)
  | .v n => if n < vectorSize t.vsz then none else some (place 1 8 ||| place n 0)

/-- The first field beyond the allocation, in the order given (R60). -/
def regBound (t : Thread) : List RegField → Option Word
  | [] => none
  | f :: fs => match f.bound t with
    | some v => some v
    | none => regBound t fs

/-- The general register that a dispatched vector instruction will write, if any (R276, R278). -/
def vectorWritesG : Instr → Option Nat
  | .vmovvg d _ _ _ => some d.toNat
  | .mcnt d _ _ => some d.toNat
  | _ => none

/-- A register field that a dispatched and not yet executed vector instruction will write: a scalar instruction that
names it does not issue (R157). -/
def hazard (t : Thread) (fs : List RegField) : Bool :=
  t.vq.any fun e => match vectorWritesG e.instr with
    | some n => n != 0 && fs.contains (.g n)
    | none => false

/-- The vector memory instructions (R269). -/
def vectorMemory : Instr → Bool
  | .ldv .. | .stv .. | .vlds .. | .vsts .. | .vgath .. | .vscat .. | .vldb .. | .vecfd .. | .vecfe .. => true
  | _ => false

/-- The loads, stores, atomics, fences, pushes and sends, which wait for the thread's vector memory instructions
(R269). -/
def ordersMemory : Instr → Bool
  | .ld .. | .ldu .. | .st .. | .ldx .. | .ldux .. | .stx .. | .pst ..
  | .ldWCompact .. | .ldDCompact .. | .stWCompact .. | .stDCompact ..
  | .amoadd .. | .amoand .. | .amoor .. | .amoxor .. | .amomin .. | .amomax .. | .amoswp .. | .amofadd ..
  | .cas .. | .cas2 .. | .fence .. | .shfence | .shget .. | .shslice ..
  | .qpush .. | .qpushCompact .. | .mpush .. | .rgpush .. | .xfer .. | .xmcast .. | .xfree .. | .cpost .. | .creg ..
  | .send .. | .send4 .. | .send1 .. | .reply .. | .mbxdef .. | .bind ..
  | .barinit .. | .bararr .. | .barwait .. | .bararw .. | .bartest ..
  | .suspend .. | .resumec .. | .rfork .. | .join .. | .wrapdone .. => true
  | _ => false

/-- An earlier vector memory instruction of the thread is not yet executed (R269). -/
def vectorBusy (t : Thread) (i : Instr) : Bool := ordersMemory i && t.vq.any fun e => vectorMemory e.instr

/-- The instructions that a control core lacks (R59). -/
def controlLacks : Instr → Bool
  | .gang .. | .ungang | .xchg .. | .gbcast .. | .gstat ..
  | .mpush .. | .mpop .. | .mwait .. | .mstat .. | .msplit ..
  | .rgdef .. | .rgpush .. | .rgstat .. | .rgrst ..
  | .mbxdef .. | .bind .. | .unbind .. | .done | .doneCompact | .suspend .. | .resumec .. | .recv ..
  | .mspill | .mfill => true
  | _ => false

/-- A thread that can issue or go on (R143). -/
def canIssue (t : Thread) : Bool := t.st == .ready || t.st == .running || t.st == .blocked

/-- The current thread becomes Blocked, in its place among the threads that wait (R143, R170). -/
def block (s : State) (i : Instr) (k : WaitKind) : State :=
  if (thr s).st == .blocked then updThr s fun t => { t with wait := some (i, k) }
  else
    let (u, s) := fresh s
    updThr s fun t => { t with st := .blocked, wait := some (i, k), waitNo := u }

/-- What an instruction's pseudocode comes to: the next state, with the PC after the instruction or at the target. -/
def finish (i : Instr) (size : Word) : Act (Option Word) → Out
  | .ok pc s => .next (updThr s fun t =>
      { t with pc := match pc with | some p => p | none => pcPlus t.pc size, st := t.st.goOn, wait := none })
  | .trap c v s => .next (takeTrap s c none v)
  | .wait k s => .next (block s i k)
  | .leave s => .next s
  | .stop f => .fault f

/-- Conditions of steps 2 and 3 of R60 that depend on more than the word. -/
structure Gate where
  /-- ILLEGAL for another reason than the word (R36, R280) -/
  ill : Bool := false
  /-- PRIV -/
  priv : Bool := false
deriving DecidableEq, Repr

/-- The size of an instruction as an offset. -/
def isize (i : Instr) : Word := BitVec.ofNat 64 i.size

/-- The word of an instruction, as a trap value (R58, R67). -/
def iword (i : Instr) : Word := i.word

/-- The eight words that a waiting MPUSH, XFER or XMCAST has copied (R245, R295). -/
def copied (t : Thread) : Option (List Word) :=
  if t.st == .blocked then match t.wait with | some (_, .command ws) => some ws | _ => none else none

/-- The thread waits for an answer to something that has left it: the instruction is not run again (R119, R178). -/
def outstanding (t : Thread) : Bool :=
  t.st == .blocked && match t.wait with
    | some (_, .reply _) | some (_, .lost) | some (_, .status ..) | some (_, .answer _ none) => true
    | _ => false

/-- An instruction of the current thread: the checks of R60 from step 2 on, then its own pseudocode. From a slot without a
thread that can issue no instruction issues (R143), and nothing changes (assumption 61). `fs` lists the
register fields in the order of R60; `more` lists the registers that it reads or writes besides. -/
def instr (i : Instr) (gate : Gate) (fs more : List RegField) (s : State) (body : State → Act (Option Word)) : Out :=
  if !canIssue (thr s) then .next s
  else if outstanding (thr s) then .next s
  else finish i (isize i) <|
    if !i.wf || (isControl s.core && controlLacks i) || gate.ill then .trap Cause.illegal (iword i) s
    else if gate.priv then .trap Cause.priv (iword i) s
    else match regBound (thr s) fs with
      | some v => .trap Cause.regbound v s
      | none => if hazard (thr s) (fs ++ more) || vectorBusy (thr s) i then .leave s else body s

/-- A compact instruction whose effect is one register write, one branch or none: only REGBOUND can stop it (R57). -/
def compact (fs : List RegField) (s : State) (body : State → Act (Option Word)) : Out :=
  if !canIssue (thr s) then .next s
  else if outstanding (thr s) then .next s
  else
    match (match regBound (thr s) fs with
      | some v => Act.trap Cause.regbound v s
      | none => if hazard (thr s) fs then .leave s else body s) with
    | .ok pc s => .next (updThr s fun t =>
        { t with pc := match pc with | some p => p | none => pcPlus t.pc 2, st := t.st.goOn, wait := none })
    | .trap c v s => .next (takeTrap s c none v)
    | .wait _ s | .leave s => .next s
    | .stop f => .fault f

/-- A register field from its encoded number. -/
def G {n : Nat} (r : BitVec n) : RegField := .g r.toNat

/-- A vector register field from its encoded number. -/
def V {n : Nat} (r : BitVec n) : RegField := .v r.toNat

/-! ### Events -/

/-- An event that can happen only in some states: in the others nothing happens (assumption 9). -/
def event (s : State) : Option State → Out
  | some s' => .next s'
  | none => .next s

end Sys2Proof.Machine
end

