-- ==== Sys2Proof/Machine/Operands.lean ====
section
/-! DEFINITION. Operand forms: fat pointers (R23, R24), effective addresses and their checks (R97 to R104), code
targets (R52, R53), and the fields of control and status words. -/

namespace Sys2Proof.Machine

/-! ### Formats and fat pointers -/

/-- Bits of an element of a format; 0 for ECF8, whose elements have no fixed width, and for a reserved code (R23). -/
def fmtBits (f : Nat) : Nat :=
  match f with
  | 0x00 | 0x01 | 0x02 | 0x10 | 0x11 | 0x18 | 0x19 => 8
  | 0x03 | 0x08 | 0x09 => 16
  | 0x04 | 0x0A => 32
  | 0x05 | 0x0B => 64
  | _ => 0

/-- A format code of the table of R23. -/
def fmtKnown (f : Nat) : Bool := fmtBits f != 0 || f == 0x14

/-- A block format (R23). -/
def fmtBlock (f : Nat) : Bool := f == 0x14 || f == 0x18 || f == 0x19

/-- Block lengths a format allows (R24). -/
def blenFits (f b : Nat) : Bool := if fmtBlock f then 4 ≤ b && b ≤ 7 else b == 0

/-- The fields of a fat pointer (R24). -/
def ptrFmt (a : Word) : Nat := field a 58 6
def ptrBlen (a : Word) : Nat := field a 54 4
def ptrAddr (a : Word) : Nat := field a 0 52

/-- A well-formed pointer (R24). -/
def wellFormed (a : Word) : Bool := fmtKnown (ptrFmt a) && field a 52 2 == 0 && blenFits (ptrFmt a) (ptrBlen a)

/-! ### Effective addresses (R97 to R104) -/

/-- The effective address of R97, with its TAG and MISALIGN checks. -/
def effAddr (s : State) (a : Word) (delta : Int) (n : Nat) : Act Nat :=
  if !wellFormed a then .trap Cause.tag a s
  else
    let e := (ptrAddr a : Int) + delta
    if e < 0 ∨ e ≥ 2 ^ 52 then .trap Cause.tag a s
    else if e.toNat % n ≠ 0 then .trap Cause.misalign (BitVec.ofNat 64 e.toNat) s
    else .ok e.toNat s

/-- Bytes granted to an owner context: LSCAP × 256 KiB (R100). -/
def lsLimit (s : State) (core o : Nat) : Nat := (ctxAt s core o).lscap * Config.subBank

/-- The place of a local-store offset of an owner on a core, through the core's map of logical sub-banks (R333). -/
def lsPlace (s : State) (core o off : Nat) : Option Nat :=
  (Tab.find (ctxAt s core o).banks (off / Config.subBank)).map fun b => lsKey core b (off % Config.subBank)

/-- A located offset of a rank's local store: LSBOUND beyond the capacity (R100). A control core's own rank, which no rule gives, is
resolved as any other rank of its owner (DESIGN CHOICE, assumption 68). -/
def locLocal (s : State) (o rank off : Nat) (ea : Word) : Act Loc :=
  let c := rankCore (ownerAt s o) rank
  if off ≥ lsLimit s c o then .trap Cause.lsbound ea s
  else match lsPlace s c o off with
    | some k => .ok ⟨k, none⟩ s
    | none => .trap Cause.lsbound ea s

/-- Mode RANK, and the rank window with its ea[31:0] (R100, R104). -/
def locRank (s : State) (o ea : Nat) (v : Word) : Act Loc :=
  if ea / 2 ^ 32 ≠ 0 then .trap Cause.lsbound v s
  else if ea / 2 ^ 22 ≥ nrank (ownerAt s o) then .trap Cause.access v s
  else locLocal s o (ea / 2 ^ 22) (ea % 2 ^ 22) v

/-- The first address of the rank window (R104). -/
def windowBase : Nat := 0xFFFFF00000000

/-- An address in the rank window (R104). -/
def inWindow (ea : Nat) : Bool := windowBase ≤ ea && ea < 2 ^ 52

/-- The place of an area that a supervisor's register names, in a page marked pinned/save-area; an address of the rank window
is not translated (R104, R325, R332). -/
def areaPlace (s : State) (o va : Nat) (need : Need) : Option Nat :=
  if inWindow va then none else pinnedPlace s o true va need

/-- The place of an address of an owner's user space as the front end and the host reach it; an address of the rank window is not
translated (R104, R325). -/
def userPlace (s : State) (o va : Nat) (need : Need) : Option Nat :=
  if inWindow va then none else walkPlace s o false va need

/-- The first addresses, in each page of 4 KiB, of `n` bytes from an address upwards. -/
def pageStarts (va n : Nat) : List Nat :=
  (List.range ((va % 4096 + n + 4095) / 4096)).map fun i => if i = 0 then va else 4096 * (va / 4096 + i)

/-- The pages of `n` bytes of an owner's user space walked: the fault-table entries of each whose walk succeeds are closed (R330). -/
def walkedUser (s : State) (o va n : Nat) (need : Need) : State :=
  (pageStarts va n).foldl (fun s a => if (userPlace s o a need).isSome then walked s o false a else s) s

/-- The translation of a global address that the current thread makes now. -/
def xlatNow (s : State) (ea : Nat) : Xlat :=
  let t := thr s
  ⟨t.owner, t.sup, ea, pageSize s t.owner t.sup ea, s.tlbGen⟩

/-- A global address of the current thread located: translated in its space for its mode (R103, R328). -/
def locGlobal (s : State) (ea : Nat) (need : Need) : Act Loc :=
  let t := thr s
  let v := BitVec.ofNat 64 ea
  match walk s t.owner t.sup ea need with
  | .page k => .trap Cause.page v (threadFault s t.owner t.sup ea k)
  | .access => .trap Cause.access v s
  | .noMemory => .stop .noSuchMemory
  | .found tier pa _ => match placeOf tier pa with
    | none => .stop .noSuchMemory
    | some k => .ok ⟨k, some (xlatNow s ea)⟩ (walked s t.owner t.sup ea)

/-- An address of modes GLB and GLBO and of the atomics: the rank window is located as mode RANK would with ea[31:0]
(R104). -/
def locGlb (s : State) (ea : Nat) (need : Need) : Act Loc :=
  if inWindow ea then locRank s (thr s).owner (ea % 2 ^ 32) (BitVec.ofNat 64 ea) else locGlobal s ea need

/-- A vertical access: the sub-bank of the bank below must be mapped for the owner and carry its tag (R102, R335). -/
def locBelow (s : State) (ea : Nat) : Act Loc :=
  let o := (thr s).owner
  let v := BitVec.ofNat 64 ea
  if ea ≥ lsLimit s s.core o then .trap Cause.lsbound v s
  else
    let c := rankCore (owner s) (rankBelow (ctx s).rank)
    match Tab.find (ctxAt s c o).banks (ea / Config.subBank) with
    | none => .trap Cause.access v s
    | some b => if (subAt s c b).tag ≠ o then .trap Cause.access v s else .ok ⟨lsKey c b (ea % Config.subBank), none⟩ s

/-- locate(mode, ea) of R97, with the checks of steps 4 to 6 of R98. -/
def locate (s : State) (mode : BitVec 3) (ea : Nat) (need : Need) : Act Loc :=
  let o := (thr s).owner
  let q := (ctx s).rank
  let v := BitVec.ofNat 64 ea
  match mode.toNat with
  | 0 => locLocal s o q ea v
  | 1 => locBelow s ea
  | 2 => locRank s o ea v
  | 3 => locLocal s o (4 * (q / 4) + ea / 8 % 4) (ea / 32 * 8 + ea % 8) v
  | 4 => locLocal s o (16 * (q / 16) + ea / 8 % 16) (ea / 128 * 8 + ea % 8) v
  | 5 => locLocal s o (64 * (q / 64) + ea / 8 % 64) (ea / 512 * 8 + ea % 8) v
  | _ => locGlb s ea need

/-- The effective address and its place (R97, R98). -/
def address (s : State) (a : Word) (delta : Int) (n : Nat) (mode : BitVec 3) (need : Need) : Act (Nat × Loc) :=
  (effAddr s a delta n).bind fun ea s => (locate s mode ea need).bind fun l s => .ok (ea, l) s

/-! ### Code targets (R52, R53) -/

/-- The number in the address part of a code address. -/
def codeAddr (a : Word) : Nat := if a.getLsbD 63 then field a 0 22 else field a 0 52

/-- The checks of a register-supplied target, in the order of R93. -/
def checkTarget (s : State) (t : Word) : Act Unit :=
  if t.getLsbD 0 then .trap Cause.misalign t s
  else if !codeForm t then .trap Cause.access t s
  else if t.getLsbD 63 && lsLimit s s.core (thr s).owner ≤ codeAddr t then .trap Cause.lsbound t s
  else .ok () s

/-- The target of a branch or jump: the offset is added to the address part of the PC; a target with bit 0 set raises MISALIGN,
a carry or borrow out of the address part ACCESS, a target beyond the local store LSBOUND (R53). The
trap value is the sum written with the part's carry dropped (DEDUCED, assumption 10). -/
def branchTarget (s : State) (off : Int) : Act Word :=
  let pc := (thr s).pc
  let size : Nat := if pc.getLsbD 63 then 2 ^ 22 else 2 ^ 52
  let t := (codeAddr pc : Int) + off
  let w := pcPlus pc (BitVec.ofInt 64 off)
  if t % 2 ≠ 0 then .trap Cause.misalign w s
  else if t < 0 ∨ (size : Int) ≤ t then .trap Cause.access w s
  else if pc.getLsbD 63 && lsLimit s s.core (thr s).owner ≤ t.toNat then .trap Cause.lsbound w s
  else .ok w s

/-- The code address of R52's form with bit 0 clear, for descriptors that hold one. -/
def codeAddress (a : Word) : Bool := codeForm a && !a.getLsbD 0

/-- Bits hi down to lo of a word are zero. -/
def zeroBits (w : Word) (hi lo : Nat) : Bool := field w lo (hi + 1 - lo) == 0

/-- 2 to the size code: 1, 2, 4 or 8 bytes (R66). -/
def sizeBytes {n : Nat} (sz : BitVec n) : Nat := 2 ^ sz.toNat

end Sys2Proof.Machine
end

