-- ==== Sys2Proof/Machine/Alu.lean ====
section
/-! DEFINITION. Integer operations of two registers, of a register and an immediate, and the upper immediates (R74 to R76, R80). -/

namespace Sys2Proof.Machine

/-- An operation of two registers: `g[rd]` takes `f a b` (R72). -/
def alu (i : Instr) (d a b : BitVec 6) (f : Word → Word → Word) (s : State) : Out :=
  instr i {} [G d, G a, G b] [] s fun s => .ok none (wg s d (f (rg s a) (rg s b)))

/-- An operation of a register and a value from the word. -/
def aluImm (i : Instr) (d a : BitVec 6) (f : Word → Word) (s : State) : Out :=
  instr i {} [G d, G a] [] s fun s => .ok none (wg s d (f (rg s a)))

/-- x clamped to the range of a signed word (R74). -/
def satWord (x : Int) : Word :=
  if x < -(2 ^ 63) then BitVec.ofInt 64 (-(2 ^ 63)) else if 2 ^ 63 - 1 < x then BitVec.ofInt 64 (2 ^ 63 - 1) else BitVec.ofInt 64 x

/-- The shift amount b[5:0]. -/
def shift6 (b : Word) : Nat := field b 0 6

/-- The shift amount b[4:0] of the W forms. -/
def shift5 (b : Word) : Nat := field b 0 5

/-- a rotated right by n: bit i of the result is a[(i + n) mod 64] (R74). -/
def rotWord (a : Word) (n : Nat) : Word := a.rotateRight n

/-- The low word of a. -/
def low32 (a : Word) : BitVec 32 := a.setWidth 32

/-- ADD: a + b (R74). -/
def execAdd (d a b : BitVec 6) (s : State) : Out := alu (.add d a b) d a b (fun a b => a + b) s

/-- SUB: a − b (R74). -/
def execSub (d a b : BitVec 6) (s : State) : Out := alu (.sub d a b) d a b (fun a b => a - b) s

/-- AND: a AND b (R74). -/
def execAnd (d a b : BitVec 6) (s : State) : Out := alu (.and d a b) d a b (fun a b => a &&& b) s

/-- OR: a OR b (R74). -/
def execOr (d a b : BitVec 6) (s : State) : Out := alu (.or d a b) d a b (fun a b => a ||| b) s

/-- XOR: a XOR b (R74). -/
def execXor (d a b : BitVec 6) (s : State) : Out := alu (.xor d a b) d a b (fun a b => a ^^^ b) s

/-- ANDN: a AND NOT b (R74). -/
def execAndn (d a b : BitVec 6) (s : State) : Out := alu (.andn d a b) d a b (fun a b => a &&& ~~~b) s

/-- ORN: a OR NOT b (R74). -/
def execOrn (d a b : BitVec 6) (s : State) : Out := alu (.orn d a b) d a b (fun a b => a ||| ~~~b) s

/-- XNOR: NOT (a XOR b) (R74). -/
def execXnor (d a b : BitVec 6) (s : State) : Out := alu (.xnor d a b) d a b (fun a b => ~~~(a ^^^ b)) s

/-- SLL: a shifted left by b[5:0], zeros entering (R74). -/
def execSll (d a b : BitVec 6) (s : State) : Out := alu (.sll d a b) d a b (fun a b => a <<< shift6 b) s

/-- SRL: a shifted right by b[5:0], zeros entering (R74). -/
def execSrl (d a b : BitVec 6) (s : State) : Out := alu (.srl d a b) d a b (fun a b => a >>> shift6 b) s

/-- SRA: a shifted right by b[5:0], copies of a[63] entering (R74). -/
def execSra (d a b : BitVec 6) (s : State) : Out := alu (.sra d a b) d a b (fun a b => a.sshiftRight (shift6 b)) s

/-- ROT: a rotated right by b[5:0] (R74). -/
def execRot (d a b : BitVec 6) (s : State) : Out := alu (.rot d a b) d a b (fun a b => rotWord a (shift6 b)) s

/-- SLT: 1 if s(a) < s(b), else 0 (R74). -/
def execSlt (d a b : BitVec 6) (s : State) : Out := alu (.slt d a b) d a b (fun a b => bit (a.slt b)) s

/-- SLTU: 1 if a < b as unsigned, else 0 (R74). -/
def execSltu (d a b : BitVec 6) (s : State) : Out := alu (.sltu d a b) d a b (fun a b => bit (a.ult b)) s

/-- MIN: the one with the smaller s() (R74). -/
def execMin (d a b : BitVec 6) (s : State) : Out := alu (.min d a b) d a b (fun a b => if a.slt b then a else b) s

/-- MAX: the one with the larger s() (R74). -/
def execMax (d a b : BitVec 6) (s : State) : Out := alu (.max d a b) d a b (fun a b => if a.slt b then b else a) s

/-- MINU: the unsigned smaller (R74). -/
def execMinu (d a b : BitVec 6) (s : State) : Out := alu (.minu d a b) d a b (fun a b => if a.ult b then a else b) s

/-- MAXU: the unsigned larger (R74). -/
def execMaxu (d a b : BitVec 6) (s : State) : Out := alu (.maxu d a b) d a b (fun a b => if a.ult b then b else a) s

/-- ADDW: sx32(a + b) (R74). -/
def execAddw (d a b : BitVec 6) (s : State) : Out := alu (.addw d a b) d a b (fun a b => sx32 (a + b)) s

/-- SUBW: sx32(a − b) (R74). -/
def execSubw (d a b : BitVec 6) (s : State) : Out := alu (.subw d a b) d a b (fun a b => sx32 (a - b)) s

/-- ADDS: sat(s(a) + s(b)) (R74). -/
def execAdds (d a b : BitVec 6) (s : State) : Out := alu (.adds d a b) d a b (fun a b => satWord (a.toInt + b.toInt)) s

/-- SUBS: sat(s(a) − s(b)) (R74). -/
def execSubs (d a b : BitVec 6) (s : State) : Out := alu (.subs d a b) d a b (fun a b => satWord (a.toInt - b.toInt)) s

/-- SLLW: sx32(a[31:0] shifted left by b[4:0]) (R74). -/
def execSllw (d a b : BitVec 6) (s : State) : Out := alu (.sllw d a b) d a b (fun a b => sx (low32 a <<< shift5 b)) s

/-- SRLW: sx32(zx(a[31:0]) shifted right by b[4:0], zeros entering) (R74). -/
def execSrlw (d a b : BitVec 6) (s : State) : Out := alu (.srlw d a b) d a b (fun a b => sx (low32 a >>> shift5 b)) s

/-- SRAW: sx32(a[31:0]) shifted right by b[4:0], copies of a[31] entering (R74). -/
def execSraw (d a b : BitVec 6) (s : State) : Out := alu (.sraw d a b) d a b (fun a b => sx ((low32 a).sshiftRight (shift5 b))) s

/-- ADDI: a + i, with i = sx(imm13) (R75). -/
def execAddi (d a : BitVec 6) (i : BitVec 13) (s : State) : Out := aluImm (.addi d a i) d a (fun x => x + sx i) s

/-- ANDI: a AND i, with i = sx(imm13) (R75). -/
def execAndi (d a : BitVec 6) (i : BitVec 13) (s : State) : Out := aluImm (.andi d a i) d a (fun x => x &&& sx i) s

/-- ORI: a OR i, with i = sx(imm13) (R75). -/
def execOri (d a : BitVec 6) (i : BitVec 13) (s : State) : Out := aluImm (.ori d a i) d a (fun x => x ||| sx i) s

/-- XORI: a XOR i, with i = sx(imm13) (R75). -/
def execXori (d a : BitVec 6) (i : BitVec 13) (s : State) : Out := aluImm (.xori d a i) d a (fun x => x ^^^ sx i) s

/-- SLTI: 1 if s(a) < i, else 0, with i = sx(imm13) (R75). -/
def execSlti (d a : BitVec 6) (i : BitVec 13) (s : State) : Out := aluImm (.slti d a i) d a (fun x => bit (x.slt (sx i))) s

/-- SLTIU: 1 if a < (i as a 64-bit pattern) as unsigned, else 0, with i = sx(imm13) (R75). -/
def execSltiu (d a : BitVec 6) (i : BitVec 13) (s : State) : Out := aluImm (.sltiu d a i) d a (fun x => bit (x.ult (sx i))) s

/-- SLLI: SLL with b[5:0] = sh (R76). -/
def execSlli (d a h : BitVec 6) (s : State) : Out := aluImm (.slli d a h) d a (fun x => x <<< h.toNat) s

/-- SRLI: SRL with b[5:0] = sh (R76). -/
def execSrli (d a h : BitVec 6) (s : State) : Out := aluImm (.srli d a h) d a (fun x => x >>> h.toNat) s

/-- SRAI: SRA with b[5:0] = sh (R76). -/
def execSrai (d a h : BitVec 6) (s : State) : Out := aluImm (.srai d a h) d a (fun x => x.sshiftRight h.toNat) s

/-- ROTI: ROT with b[5:0] = sh (R76). -/
def execRoti (d a h : BitVec 6) (s : State) : Out := aluImm (.roti d a h) d a (fun x => rotWord x h.toNat) s

/-- u of R80: sx(imm19) × 2^13. -/
def upper (i : BitVec 19) : Word := sx i <<< 13

/-- LUI: g[rd] ← u (R80). -/
def execLui (d : BitVec 6) (i : BitVec 19) (s : State) : Out :=
  instr (.lui d i) {} [G d] [] s fun s => .ok none (wg s d (upper i))

/-- ADDPC: g[rd] ← (PC + u)[63:0], with the PC of the ADDPC itself (R80). -/
def execAddpc (d : BitVec 6) (i : BitVec 19) (s : State) : Out :=
  instr (.addpc d i) {} [G d] [] s fun s => .ok none (wg s d ((thr s).pc + upper i))

end Sys2Proof.Machine
end

