-- ==== Sys2Proof/Machine/Fp.lean ====
section
/-! DEFINITION. Floating-point formats, exact values, rounding and the operations of IEEE 754-2019 as the spec gives
them (R23 to R44, R83 to R90). Every operation is computed exactly on integers and rounded once. -/

namespace Sys2Proof.Machine.Fp

/-- A floating-point format: exponent bits, fraction bits, bias, and whether it is E4M3 (R26, R28). -/
structure Fmt where
  eb : Nat
  fb : Nat
  bias : Nat
  e4m3 : Bool := false
deriving DecidableEq, Repr

def fp64 : Fmt := ⟨11, 52, 1023, false⟩
def fp32 : Fmt := ⟨8, 23, 127, false⟩
def bf16 : Fmt := ⟨8, 7, 127, false⟩
def fp16 : Fmt := ⟨5, 10, 15, false⟩
def e5m2 : Fmt := ⟨5, 2, 15, false⟩
def e4m3 : Fmt := ⟨4, 3, 7, true⟩
def e5m3 : Fmt := ⟨5, 3, 15, false⟩

/-- Bits of a format. -/
def Fmt.width (f : Fmt) : Nat := 1 + f.eb + f.fb

/-- The largest exponent field. -/
def Fmt.emax (f : Fmt) : Nat := 2 ^ f.eb - 1

/-- The exponent of the smallest subnormal's unit. -/
def Fmt.qmin (f : Fmt) : Int := 1 - (f.bias : Int) - f.fb

/-- The bit pattern of the largest finite magnitude (R26, R28). -/
def Fmt.maxBits (f : Fmt) : Nat := if f.e4m3 then 0x7E else (f.emax - 1) * 2 ^ f.fb + (2 ^ f.fb - 1)

/-- Whether NaNs of the format may signal (R27). -/
def Fmt.signals (f : Fmt) : Bool := 16 ≤ f.width

/-- A format's value: a NaN (signalling or not), an infinity, or (−1)^neg × m × 2^e. -/
inductive Val where
  | nan (sig : Bool)
  | inf (neg : Bool)
  | num (neg : Bool) (m : Nat) (e : Int)
deriving DecidableEq, Repr

/-- The canonical NaN (R27). -/
def Fmt.cnan (f : Fmt) : Nat := if f.e4m3 then 0x7F else f.emax * 2 ^ f.fb + 2 ^ (f.fb - 1)

/-- The sign bit put in place. -/
def Fmt.signed (f : Fmt) (neg : Bool) (mag : Nat) : Nat := if neg then 2 ^ (f.eb + f.fb) + mag else mag

/-- An infinity's pattern. -/
def Fmt.infBits (f : Fmt) (neg : Bool) : Nat := f.signed neg (f.emax * 2 ^ f.fb)

/-- The value of a bit pattern (R26 to R28). -/
def decode (f : Fmt) (x : Nat) : Val :=
  let neg := x / 2 ^ (f.eb + f.fb) % 2 == 1
  let e := x / 2 ^ f.fb % 2 ^ f.eb
  let m := x % 2 ^ f.fb
  if f.e4m3 then
    if e = 15 ∧ m = 7 then .nan false
    else if e = 0 then .num neg m f.qmin else .num neg (2 ^ f.fb + m) (f.qmin + (e : Int) - 1)
  else if e = f.emax then
    if m = 0 then .inf neg else .nan (f.signals && m / 2 ^ (f.fb - 1) == 0)
  else if e = 0 then .num neg m f.qmin
  else .num neg (2 ^ f.fb + m) (f.qmin + (e : Int) - 1)

/-! ### Exception flags (R42) -/

def NV : BitVec 5 := 0x10
def DZ : BitVec 5 := 0x08
def OF : BitVec 5 := 0x04
def UF : BitVec 5 := 0x02
def NX : BitVec 5 := 0x01

/-! ### Rounding (R35, R39, R41) -/

/-- Whether a magnitude `keep`, with the remainder `rem` of `2^d` units and possibly more below (`sticky`), is rounded
up under a mode (R35: 0 RNE, 1 RTZ, 2 RDN, 3 RUP, 4 RMM). -/
def roundsUp (mode : Nat) (neg : Bool) (keep rem d : Nat) (sticky : Bool) : Bool :=
  let half := 2 ^ (d - 1)
  match mode with
  | 0 => d != 0 && (half < rem || (rem == half && (sticky || keep % 2 == 1)))
  | 1 => false
  | 2 => neg && (rem != 0 || sticky)
  | 3 => !neg && (rem != 0 || sticky)
  | _ => d != 0 && half ≤ rem

/-- A magnitude `m × 2^e`, with more below when `sticky`, rounded to a multiple of `2^q`: the multiple, and whether it
is inexact. -/
def roundAt (mode : Nat) (neg : Bool) (m : Nat) (sticky : Bool) (e q : Int) : Nat × Bool :=
  if q ≤ e then (m * 2 ^ (e - q).toNat, sticky)
  else
    let d := (q - e).toNat
    let keep := m / 2 ^ d
    let rem := m % 2 ^ d
    (if roundsUp mode neg keep rem d sticky then keep + 1 else keep, rem != 0 || sticky)

/-- The pattern of a magnitude `k × 2^q` that the format holds, `q` at or above the smallest subnormal's unit. -/
def Fmt.pack (f : Fmt) (k : Nat) (q : Int) : Nat :=
  if k < 2 ^ f.fb then k
  else
    let (k, q) := if k ≥ 2 ^ (f.fb + 1) then (k / 2, q + 1) else (k, q)
    (q - f.qmin + 1).toNat * 2 ^ f.fb + (k - 2 ^ f.fb)

/-- Whether `k × 2^q` exceeds the format's largest finite value. -/
def Fmt.beyond (f : Fmt) (k : Nat) (q : Int) : Bool :=
  let top : Int := (f.maxBits / 2 ^ f.fb : Nat) - 1 + f.qmin
  let sig := 2 ^ f.fb + f.maxBits % 2 ^ f.fb
  if q ≤ top then sig * 2 ^ (top - q).toNat < k else sig < k * 2 ^ (q - top).toNat

/-- The overflow value of a mode, saturated when asked (R39, R40). -/
def Fmt.overflow (f : Fmt) (mode : Nat) (sat neg : Bool) : Nat :=
  let fin := match mode with | 1 => true | 2 => !neg | 3 => neg | _ => false
  if fin || sat then f.signed neg f.maxBits
  else if f.e4m3 then f.cnan else f.infBits neg

/-- The exact value (−1)^neg × m × 2^e, with more below when `sticky`, rounded into a format: the pattern and the
exceptions OF, UF and NX (R35, R39, R41). Where `sticky` holds, `m` has two more bits than the format's precision. -/
def round (f : Fmt) (mode : Nat) (sat neg : Bool) (m : Nat) (sticky : Bool) (e : Int) : Nat × BitVec 5 :=
  if m = 0 ∧ !sticky then (f.signed neg 0, 0)
  else
    let qu := e + (Nat.log2 m : Int) - f.fb
    let q := if qu < f.qmin then f.qmin else qu
    let (k, inexact) := roundAt mode neg m sticky e q
    if f.beyond k q then (f.overflow mode sat neg, OF ||| NX)
    else
      let (ku, _) := roundAt mode neg m sticky e qu
      let tiny := if qu ≤ f.qmin then ku < 2 ^ (f.fb + (f.qmin - qu).toNat) else false
      (f.signed neg (f.pack k q), if inexact then (if tiny then UF ||| NX else NX) else 0)

/-! ### Arithmetic (R83 to R90) -/

/-- A signed magnitude as an integer times `2^e`. -/
def signedInt (neg : Bool) (m : Nat) : Int := if neg then -(m : Int) else m

/-- A sum of two finite values: the exact signed sum and its exponent. -/
def exactAdd (n1 : Bool) (m1 : Nat) (e1 : Int) (n2 : Bool) (m2 : Nat) (e2 : Int) : Int × Int :=
  let e := if e1 ≤ e2 then e1 else e2
  (signedInt n1 m1 * 2 ^ (e1 - e).toNat + signedInt n2 m2 * 2 ^ (e2 - e).toNat, e)

/-- A sum of two values rounded; `n1`, `n2` are the signs that decide an exact zero (R83). -/
def addVals (f : Fmt) (mode : Nat) : Val → Val → Nat × BitVec 5
  | .nan s1, .nan s2 => (f.cnan, if s1 || s2 then NV else 0)
  | .nan s1, _ => (f.cnan, if s1 then NV else 0)
  | _, .nan s2 => (f.cnan, if s2 then NV else 0)
  | .inf n1, .inf n2 => if n1 = n2 then (f.infBits n1, 0) else (f.cnan, NV)
  | .inf n1, .num .. => (f.infBits n1, 0)
  | .num .., .inf n2 => (f.infBits n2, 0)
  | .num n1 m1 e1, .num n2 m2 e2 =>
    let (t, e) := exactAdd n1 m1 e1 n2 m2 e2
    if t = 0 then
      (f.signed (if m1 = 0 ∧ m2 = 0 ∧ n1 = n2 then n1 else mode == 2) 0, 0)
    else round f mode false (decide (t < 0)) t.natAbs false e

/-- A value with its sign turned. -/
def Val.neg : Val → Val
  | .nan s => .nan s
  | .inf n => .inf (!n)
  | .num n m e => .num (!n) m e

/-- The product of two values, exact, and whether it raises NV (0 × ∞ or a signalling NaN). -/
def mulVals : Val → Val → Val × Bool
  | .nan s1, .nan s2 => (.nan false, s1 || s2)
  | .nan s1, _ => (.nan false, s1)
  | _, .nan s2 => (.nan false, s2)
  | .inf n1, .inf n2 => (.inf (n1 != n2), false)
  | .inf n1, .num n2 m2 _ => if m2 = 0 then (.nan false, true) else (.inf (n1 != n2), false)
  | .num n1 m1 _, .inf n2 => if m1 = 0 then (.nan false, true) else (.inf (n1 != n2), false)
  | .num n1 m1 e1, .num n2 m2 e2 => (.num (n1 != n2) (m1 * m2) (e1 + e2), false)

/-- FADD. -/
def add (f : Fmt) (mode : Nat) (a b : Nat) : Nat × BitVec 5 := addVals f mode (decode f a) (decode f b)

/-- FSUB. -/
def sub (f : Fmt) (mode : Nat) (a b : Nat) : Nat × BitVec 5 := addVals f mode (decode f a) (decode f b).neg

/-- FMUL. -/
def mul (f : Fmt) (mode : Nat) (a b : Nat) : Nat × BitVec 5 :=
  match mulVals (decode f a) (decode f b) with
  | (.nan _, nv) => (f.cnan, if nv then NV else 0)
  | (.inf n, _) => (f.infBits n, 0)
  | (.num n m e, _) => round f mode false n m false e

/-- FFMA: the product exact, the sum rounded once; ∞ × 0 raises NV whatever c is (R90). -/
def fma (f : Fmt) (mode : Nat) (a b c : Nat) : Nat × BitVec 5 :=
  let (p, nv) := mulVals (decode f a) (decode f b)
  let z := decode f c
  if nv then (f.cnan, NV)
  else match p, z with
    | .nan _, .nan s => (f.cnan, if s then NV else 0)
    | .nan _, _ => (f.cnan, 0)
    | p, z => addVals f mode p z

/-- The quotient of two magnitudes to at least `p` bits: the integer, whether more lies below, its exponent. -/
def quotient (p m1 : Nat) (e1 : Int) (m2 : Nat) (e2 : Int) : Nat × Bool × Int :=
  let k := p + Nat.log2 m2 + 1
  (m1 * 2 ^ k / m2, m1 * 2 ^ k % m2 != 0, e1 - e2 - k)

/-- FDIV. -/
def div (f : Fmt) (mode : Nat) (a b : Nat) : Nat × BitVec 5 :=
  match decode f a, decode f b with
  | .nan s1, .nan s2 => (f.cnan, if s1 || s2 then NV else 0)
  | .nan s1, _ => (f.cnan, if s1 then NV else 0)
  | _, .nan s2 => (f.cnan, if s2 then NV else 0)
  | .inf _, .inf _ => (f.cnan, NV)
  | .inf n1, .num n2 _ _ => (f.infBits (n1 != n2), 0)
  | .num n1 _ _, .inf n2 => (f.signed (n1 != n2) 0, 0)
  | .num n1 m1 e1, .num n2 m2 e2 =>
    if m2 = 0 then (if m1 = 0 then (f.cnan, NV) else (f.infBits (n1 != n2), DZ))
    else if m1 = 0 then (f.signed (n1 != n2) 0, 0)
    else
      let (q, sticky, e) := quotient (f.fb + 3) m1 e1 m2 e2
      round f mode false (n1 != n2) q sticky e

/-- The integer square root, bit by bit from bit `n` down. -/
def isqrtFrom (m : Nat) : Nat → Nat → Nat
  | 0, r => if (r + 1) * (r + 1) ≤ m then r + 1 else r
  | n + 1, r =>
    let r' := r + 2 ^ (n + 1)
    isqrtFrom m n (if r' * r' ≤ m then r' else r)

/-- The largest integer whose square does not exceed `m`. -/
def isqrt (m : Nat) : Nat := isqrtFrom m (Nat.log2 m / 2) 0

/-- FSQRT. -/
def sqrt (f : Fmt) (mode : Nat) (a : Nat) : Nat × BitVec 5 :=
  match decode f a with
  | .nan s => (f.cnan, if s then NV else 0)
  | .inf n => if n then (f.cnan, NV) else (f.infBits false, 0)
  | .num n m e =>
    if m = 0 then (f.signed n 0, 0)
    else if n then (f.cnan, NV)
    else
      let odd := e % 2 ≠ 0
      let m := if odd then 2 * m else m
      let e := if odd then e - 1 else e
      let k := f.fb + 4
      let m := m * 2 ^ (2 * k)
      let r := isqrt m
      round f mode false false r (r * r != m) (e / 2 - k)

/-- Comparison of two values that are not NaN: less, equal (R85). -/
def cmpVals : Val → Val → Bool × Bool
  | .inf n1, .inf n2 => (n1 && !n2, n1 == n2)
  | .inf n1, _ => (n1, false)
  | _, .inf n2 => (!n2, false)
  | .num n1 m1 e1, .num n2 m2 e2 =>
    let (t, _) := exactAdd n1 m1 e1 (!n2) m2 e2
    (decide (t < 0), decide (t = 0))
  | _, _ => (false, false)

/-- A NaN, and whether it signals. -/
def Val.isNan : Val → Bool | .nan _ => true | _ => false
def Val.isSig : Val → Bool | .nan s => s | _ => false
def Val.sign : Val → Bool | .nan _ => false | .inf n => n | .num n _ _ => n

/-- FMIN (`max` false) and FMAX (R84). -/
def minMax (f : Fmt) (max : Bool) (a b : Nat) : Nat × BitVec 5 :=
  let x := decode f a
  let y := decode f b
  let nv := if x.isSig || y.isSig then NV else 0
  if x.isNan && y.isNan then (f.cnan, nv)
  else if x.isNan then (b, nv)
  else if y.isNan then (a, nv)
  else
    let (lt, eq) := cmpVals x y
    let less := lt || (eq && x.sign && !y.sign)
    (if less != max then a else b, nv)

/-- FEQ, FLT, FLE by number 0, 1, 2 (R85). -/
def compare (f : Fmt) (op : Nat) (a b : Nat) : Bool × BitVec 5 :=
  let x := decode f a
  let y := decode f b
  if x.isNan || y.isNan then
    (false, if x.isSig || y.isSig || op != 0 then NV else 0)
  else
    let (lt, eq) := cmpVals x y
    (match op with | 0 => eq | 1 => lt | _ => lt || eq, 0)

/-- FKIND (R87). -/
def kind (f : Fmt) (a : Nat) : Nat :=
  let neg := if a / 2 ^ (f.eb + f.fb) % 2 = 1 then 8 else 0
  match decode f a with
  | .nan s => neg + (if s then 5 else 4)
  | .inf _ => neg + 3
  | .num _ m e =>
    if m = 0 then neg
    else
      let ex := ((e + Nat.log2 m) % 65536).toNat
      neg + (if m < 2 ^ f.fb then 1 else 2) + ex * 256

/-- Sign manipulation: 0 FSCPY, 1 FSINV, 2 FSXOR (R86). -/
def signOp (f : Fmt) (op : Nat) (a b : Nat) : Nat :=
  let top := 2 ^ (f.eb + f.fb)
  let sa := a / top % 2 == 1
  let sb := b / top % 2 == 1
  f.signed (match op with | 0 => sb | 1 => !sb | _ => sa != sb) (a % top)

/-! ### Conversions (R37, R39, R40, R89) -/

/-- A value converted into a floating format under a mode other than SR. -/
def toFloat (f : Fmt) (mode : Nat) (sat : Bool) : Val → Nat × BitVec 5
  | .nan s => (f.cnan, if s then NV else 0)
  | .inf n =>
    if sat then (f.signed n f.maxBits, 0)
    else if f.e4m3 then (f.cnan, NV) else (f.infBits n, 0)
  | .num n m e => round f mode sat n m false e

/-- One step of the stochastic rounding generator (R37). -/
def xorshift (x : BitVec 32) : BitVec 32 :=
  let x := x ^^^ (x <<< 13)
  let x := x ^^^ (x >>> 17)
  x ^^^ (x <<< 5)

/-- A value converted under SR with the generator's new state `x` (R37). -/
def toFloatSR (f : Fmt) (sat : Bool) (x : BitVec 32) : Val → Nat × BitVec 5
  | .num n m e =>
    if m = 0 then (f.signed n 0, 0)
    else
      let top : Int := (f.maxBits / 2 ^ f.fb : Nat) - 1 + f.qmin
      let sig := 2 ^ f.fb + f.maxBits % 2 ^ f.fb
      let beyond := if top ≤ e then sig < m * 2 ^ (e - top).toNat else sig * 2 ^ (top - e).toNat < m
      if beyond then round f 0 sat n m false e
      else
        let qu := e + (Nat.log2 m : Int) - f.fb
        let q := if qu < f.qmin then f.qmin else qu
        if q ≤ e then (f.signed n (f.pack (m * 2 ^ (e - q).toNat) q), 0)
        else
          let d := (q - e).toNat
          let keep := m / 2 ^ d
          let rem := m % 2 ^ d
          if rem = 0 then (f.signed n (f.pack keep q), 0)
          else
            let frac := rem * 2 ^ 24 / 2 ^ d
            let k := if (x.toNat % 2 ^ 24) < frac then keep + 1 else keep
            let (ku, _) := roundAt 0 n m false e qu
            let tiny := if qu ≤ f.qmin then ku < 2 ^ (f.fb + (f.qmin - qu).toNat) else false
            (f.signed n (f.pack k q), if tiny then UF ||| NX else NX)
  | v => toFloat f 0 sat v

/-- A value converted into a signed integer of `w` bits (R40): the integer and the flags. -/
def toInt (w : Nat) (mode : Nat) : Val → Int × BitVec 5
  | .nan _ => (0, NV)
  | .inf n => (if n then -(2 ^ (w - 1) : Int) else 2 ^ (w - 1) - 1, NV)
  | .num n m e =>
    let (k, inexact) := roundAt mode n m false e 0
    let t := signedInt n k
    if t < -(2 ^ (w - 1) : Int) then (-(2 ^ (w - 1) : Int), NV)
    else if t > 2 ^ (w - 1) - 1 then (2 ^ (w - 1) - 1, NV)
    else (t, if inexact then NX else 0)

/-- An integer as a value. -/
def ofInt (t : Int) : Val := .num (decide (t < 0)) t.natAbs 0

end Sys2Proof.Machine.Fp
end

