-- ==== Sys2Proof/Machine/Flags.lean ====
section
/-! DEFINITION. Flag computations: FFLAGS and the precise ARITH of scalar instructions, the late ARITH of vector
instructions, and the rounding mode in force (R36, R42, R43, R82). -/

namespace Sys2Proof.Machine

/-- Exceptions ORed into FFLAGS (R42). -/
def raiseFlags (s : State) (f : BitVec 5) : State := updThr s fun t => { t with fflags := t.fflags ||| f }

/-- Some raised exception is enabled (R43). -/
def trapsOn (t : Thread) (f : BitVec 5) : Bool := f &&& t.fen != 0

/-- The end of a scalar floating-point instruction: FFLAGS, then ARITH with the exceptions raised as its value, or the
result written (R43). `keep` writes whatever else a completed instruction writes. -/
def fpEnd (s : State) (d : BitVec 6) (x : Word) (f : BitVec 5) (keep : Thread → Thread) : Act (Option Word) :=
  if trapsOn (thr s) f then .trap Cause.arith (f.setWidth 64) (raiseFlags s f)
  else .ok none (wg (updThr (raiseFlags s f) keep) d x)

/-- FRM holds a mode that an instruction other than a conversion may not use: 5, 6 or 7 (R36). -/
def frmBad (t : Thread) : Bool := 5 ≤ t.frm.toNat

/-- The mode that a rounding-code field selects, DYN being FRM (R36). -/
def roundMode (t : Thread) (r : BitVec 3) : Nat := if r = 6 then t.frm.toNat else r.toNat

/-- The mode of a conversion is ILLEGAL: 6 or 7, or SR with a destination other than BF16, FP16, E5M2 and E4M3
(R36). -/
def convBad (t : Thread) (r : BitVec 3) (sr : Bool) : Bool :=
  6 ≤ roundMode t r || (roundMode t r == 5 && !sr)

/-- The scalar format of a width bit: FP32 or FP64 (R82). -/
def scalarFmt (w : BitVec 1) : Fp.Fmt := if w = 0 then Fp.fp32 else Fp.fp64

/-- A scalar operand of a format: the low bits of its register (R82). -/
def fpArg (f : Fp.Fmt) (x : Word) : Nat := x.toNat % 2 ^ f.width

end Sys2Proof.Machine
end

