-- ==== Sys2Proof/Machine/Order.lean ====
section
/-! DEFINITION. The abstract machine of memory: store buffer, posted pool, release buffer, stack copies, homes
(R121 to R142). -/

namespace Sys2Proof.Machine

/-! ### Loads (R124) -/

/-- The byte a store entry gives to a place, if it holds one. -/
def StoreEntry.at (e : StoreEntry) (k : Nat) : Option Byte :=
  if e.key ≤ k then e.bytes[k - e.key]? else none

/-- The youngest store of a thread in a store buffer that holds a byte. -/
def youngest (uid k : Nat) : List StoreEntry → Option Byte
  | [] => none
  | e :: es => match youngest uid k es with
    | some b => some b
    | none => if e.uid = uid then e.at k else none

/-- The places of an access. -/
def places (k : Nat) : Nat → List Nat
  | 0 => []
  | n + 1 => k :: places (k + 1) n

/-- A place whose bytes a core's loads read at the home: in-stack, or never copied (R124 rules 2 and 4). -/
def readsHome (core k : Nat) : Bool := inStack core k || !copyable k

/-- The byte that a core's stack holds of a place, and whether it is dirty. A control core lies in no stack. -/
def heldByte (s : State) (core k : Nat) : Option (Byte × Bool) :=
  if readsHome core k || isControl core then none
  else (Tab.find (stackAt s (stackOf core)).copies k).map fun c => (c.byte, c.dirty)

/-- A byte that a load takes: the held one, a clean one only where `clean` allows it, else the home's. -/
def loadedByte (s : State) (clean : Bool) (k : Nat) : Byte :=
  match heldByte s s.core k with
  | some (b, dirty) => if dirty || clean then b else homeByte s k
  | none => homeByte s k

/-- The aligned doubleword of a place. -/
def dword (k : Nat) : Nat := k / 8

/-- The clean copies of the doublewords of an access dropped (R127): its bytes are then read anew together, so that no load
mixes bytes of different moments (R118). -/
def dropAround (ks : List Nat) (t : Stack) : Stack :=
  { t with copies := t.copies.filter fun c => c.2.dirty || !ks.any fun k => dword k == dword c.1 }

/-- Clean copies of an access's bytes installed where the stack holds none (R124 rule 3). -/
def installClean (s : State) (ks : List Nat) (t : Stack) : Stack :=
  { t with copies := ks.foldl (fun c k => match Tab.find c k with
      | some _ => c
      | none => Tab.set ⟨homeByte s k, false, 0, s.cycle⟩ c k) t.copies }

/-- Bytes by rules 2 to 4 of R124 (`glbo` false) or by R134's reading of GLBO (`glbo` true), and the state with clean copies
installed where rule 3 installs them. -/
def readBytes (s : State) (glbo : Bool) (ks : List Nat) : List Byte × State :=
  let here := isControl s.core || ks.all fun k => readsHome s.core k || (heldByte s s.core k).isSome
  if glbo || here then (ks.map (loadedByte s (!glbo)), s)
  else
    (ks.map (loadedByte s false),
      updStackAt s (stackOf s.core) fun t => installClean s (ks.filter fun k => !readsHome s.core k) (dropAround ks t))

/-- A load of the current thread (R124): from its own buffered stores when they cover it, waiting when they cover only
part of it. -/
def loadBytes (s : State) (glbo : Bool) (k n : Nat) : Act (List Byte) :=
  let uid := (thr s).uid
  let own := (places k n).map fun a => youngest uid a (coreAt s s.core).sb
  if own.all Option.isSome then .ok (own.map fun b => b.getD 0) s
  else if own.any Option.isSome then .wait .retry s
  else let (bs, s) := readBytes s glbo (places k n); .ok bs s

/-- A block of words that an instruction reads from the issuer's own local store, each word as a load (R124). -/
def loadWords (s : State) (k : Nat) : Nat → Act (List Word)
  | 0 => .ok [] s
  | n + 1 =>
    (loadBytes s false k 8).bind fun b s => (loadWords s (k + 8) n).bind fun ws s =>
      .ok (BitVec.ofNat 64 (ofLeBytes b) :: ws) s

/-! ### Stores and their performance (R125, R127, R129) -/

/-- An ordinary store enters the store buffer (R106, R123). -/
def bufferStore (s : State) (l : Loc) (bytes : List Byte) : State :=
  updCore s s.core fun c => { c with sb := c.sb ++ [{ uid := (thr s).uid, owner := (thr s).owner, key := l.key, bytes := bytes, tr := l.tr }] }

/-- A posted store enters the posted pool (R108, R129). -/
def postStore (s : State) (l : Loc) (bytes : List Byte) : State :=
  updCore s s.core fun c => { c with posted := c.posted ++ [{ uid := (thr s).uid, owner := (thr s).owner, key := l.key, bytes := bytes, tr := l.tr }] }

/-- A byte put into the stack's copy (R125). -/
def copyDirty (s : State) (stack k : Nat) (b : Byte) (ver : Nat) : State :=
  if copyable k then updStackAt s stack fun t => { t with copies := Tab.set ⟨b, true, ver, s.cycle⟩ t.copies k } else s

/-- The bytes of a store, place by place. -/
def storeCells (k : Nat) : List Byte → List (Nat × Byte)
  | [] => []
  | b :: bs => (k, b) :: storeCells (k + 1) bs

/-- Two lists of threads as one without repeats. -/
def joinUids (a b : List Nat) : List Nat := a ++ b.filter fun u => !a.contains u

/-- A store added to a release buffer: the entries that already hold some of its bytes become one with it, the new values in
place of the old ones and the tags of all; so the buffer holds one value for each byte, and the bytes of one store are
written back together (R118, R125). -/
def addRelease (r : List RelEntry) (st : StoreEntry) (ver now : Nat) : List RelEntry :=
  let cells := storeCells st.key st.bytes
  let new (k : Nat) : Bool := cells.any fun c => c.1 == k
  let meets (e : RelEntry) : Bool := !e.lost && e.bytes.any fun x => new x.key
  let met := r.filter meets
  let entry : RelEntry :=
    { owner := st.owner
      bytes := (met.flatMap RelEntry.bytes).filter (fun x => !new x.key) ++ cells.map fun c => ⟨c.1, c.2, ver⟩
      uids := joinUids (met.foldl (fun l e => joinUids l e.uids) []) [st.uid]
      trs := met.flatMap RelEntry.trs ++ st.tr.toList
      since := met.foldl (fun n e => min n e.since) now }
  r.filter (fun e => !meets e) ++ [entry]

/-- The dirty mark of a written-back byte cleared, unless a younger store of the stack wrote it (R127). -/
def cleanCopy (s : State) (stack : Nat) (b : RelByte) : State :=
  match Tab.find (stackAt s stack).copies b.key with
  | some c => if c.ver = b.ver then
      updStackAt s stack fun t => { t with copies := Tab.set { c with dirty := false, since := s.cycle } t.copies b.key } else s
  | none => s

/-- A release-buffer entry written back (R127); a write to host memory stays unacknowledged until the host's completion
(R142). -/
def writeBackEntry (s : State) (core : Nat) (e : RelEntry) : State :=
  let s := e.bytes.foldl (fun s b => cleanCopy (setHome s b.key b.byte) (stackOf core) b) s
  if e.bytes.any (fun b => isHost b.key) then
    { s with hostWrites := s.hostWrites ++ e.uids.map fun u => ⟨u, e.owner, core⟩ }
  else s

/-- A store performed from a core (R125): at the home in the stack, or into the stack's copy and the core's release
buffer. A control core lies in no stack, so nothing would give its own threads a byte that waits in its release buffer; its
entries are written back as they are made (assumption 8). -/
def performStore (s : State) (core : Nat) (e : StoreEntry) : State :=
  if inStack core e.key then setHomes s e.key e.bytes
  else
    let (ver, s) := fresh s
    let cells := storeCells e.key e.bytes
    if isControl core then
      writeBackEntry s core { owner := e.owner, bytes := cells.map fun c => ⟨c.1, c.2, ver⟩, uids := [e.uid], trs := e.tr.toList }
    else
      let s := cells.foldl (fun s c => copyDirty s (stackOf core) c.1 c.2 ver) s
      updCore s core fun c => { c with rel := addRelease c.rel e ver s.cycle }

/-- The head entry of a core's store buffer performed (R125). -/
def performHead (s : State) (core : Nat) : Option State :=
  match (coreAt s core).sb with
  | [] => none
  | e :: es => if e.lost then none else some (performStore (updCore s core fun c => { c with sb := es }) core e)

/-- A posted store performed at its home and acknowledged, unless it is parked or its core's stack stands in a pause (R129, R141,
R347). -/
def performPosted (s : State) (core n : Nat) : Option State :=
  match (coreAt s core).posted[n]? with
  | none => none
  | some e =>
    if e.lost || parkedAt s e.key || pausing s (stackOf core) then none
    else some (setHomes (updCore s core fun c => { c with posted := c.posted.eraseIdx n }) e.key e.bytes)

/-- An entry that cannot be written back now: it is lost, or its home lies in a stack in its pause (R318, R347). -/
def RelEntry.held (s : State) (e : RelEntry) : Bool := e.lost || e.bytes.any fun b => parkedAt s b.key

/-- The n-th release-buffer entry of a core written back (R127). -/
def writeBack (s : State) (core n : Nat) : Option State :=
  match (coreAt s core).rel[n]? with
  | none => none
  | some e =>
    if e.held s then none
    else some (writeBackEntry (updCore s core fun c => { c with rel := c.rel.eraseIdx n }) core e)

/-- A clean copied byte dropped; a dirty byte never (R127). -/
def dropClean (s : State) (stack k : Nat) : Option State :=
  match Tab.find (stackAt s stack).copies k with
  | some c => if c.dirty then none else some (updStackAt s stack fun t => { t with copies := Tab.del t.copies k })
  | none => none

/-- Every entry of a core's store buffer performed, head first, up to a lost one (R125). -/
def drainBuffer (core : Nat) : Nat → State → State
  | 0, s => s
  | n + 1, s => match performHead s core with
    | some s => drainBuffer core n s
    | none => s

/-- The clk of 100 µs (R127). -/
def bufferClk : Nat := 330000

/-- What R127 lets stay no longer than 100 µs: the release-buffer entries performed before that are written back, and the
clean bytes read before that are dropped. -/
def ageBuffers (s : State) : State :=
  let old (n : Nat) : Bool := n + bufferClk ≤ s.cycle
  let s := (s.cores.filter fun c => c.2.rel.any fun e => !e.held s && old e.since).foldl (fun s c =>
    let due (e : RelEntry) : Bool := !e.held s && old e.since
    let out := (coreAt s c.1).rel.filter due
    let s := updCore s c.1 fun k => { k with rel := k.rel.filter fun e => !due e }
    out.foldl (fun s e => writeBackEntry s c.1 e) s) s
  let keep (c : Nat × CopyByte) : Bool := c.2.dirty || !old c.2.since
  let drop (_ : Nat) (t : Stack) : Stack := { t with copies := t.copies.filter keep }
  { s with compStacks := Tab.mapAll drop s.compStacks }

/-! ### Waits, acquire and release (R131 to R135) -/

/-- A store of a thread remains in a core's store buffer. -/
def buffered (s : State) (core uid : Nat) : Bool := (coreAt s core).sb.any fun e => e.uid == uid

/-- A posted store of a thread is unacknowledged. -/
def postedOut (s : State) (core uid : Nat) : Bool := (coreAt s core).posted.any fun e => e.uid == uid

/-- wait_buffer of R135. -/
def waitBuffer (s : State) : Act Unit := if buffered s s.core (thr s).uid then .wait .retry s else .ok () s

/-- wait_posted of R135. -/
def waitPosted (s : State) : Act Unit := if postedOut s s.core (thr s).uid then .wait .retry s else .ok () s

/-- Every release-buffer entry of a thread that can be written back is. -/
def writeBackOf (s : State) (core uid : Nat) : State :=
  let mine (e : RelEntry) : Bool := e.uids.contains uid && !e.held s
  let out := (coreAt s core).rel.filter mine
  let s := updCore s core fun c => { c with rel := c.rel.filter fun e => !mine e }
  out.foldl (fun s e => writeBackEntry s core e) s

/-- Every write of the thread to host memory is acknowledged. -/
def waitHost (s : State) : Act Unit := if s.hostWrites.any (fun w => w.uid == (thr s).uid) then .wait .retry s else .ok () s

/-- A release-buffer entry of the thread cannot be written back now. -/
def relHeld (s : State) : Bool := (coreAt s s.core).rel.any fun e => e.held s && e.uids.contains (thr s).uid

/-- A release (R133), up to the releasing access. -/
def release (s : State) : Act Unit :=
  (waitBuffer s).bind fun _ s =>
    let s := writeBackOf s s.core (thr s).uid
    if relHeld s then .wait .retry s else waitHost s

/-- An acquire (R132): every clean byte of the stack's copies refilled from its home. -/
def acquire (s : State) : State :=
  updStackAt s (stackOf s.core) fun t =>
    { t with copies := Tab.mapAll (fun k c => if c.dirty then c else { c with byte := homeByte s k, since := s.cycle }) t.copies }

/-- Bytes written at their homes, and into the stack's copies that exist, clean (R131, R133). -/
def writeThrough (s : State) (k : Nat) (bytes : List Byte) : State :=
  let s := setHomes s k bytes
  (storeCells k bytes).foldl (fun s c =>
    match Tab.find (stackAt s (stackOf s.core)).copies c.1 with
    | some _ => updStackAt s (stackOf s.core) fun t => { t with copies := Tab.set ⟨c.2, false, 0, s.cycle⟩ t.copies c.1 }
    | none => s) s

/-- The stack's clean copies of an access's bytes take what the home holds, and the others of its doublewords are dropped:
after an access of the home no later load returns an older value (R128, R131). -/
def refreshCopies (s : State) (ks : List Nat) : State :=
  let renew (k : Nat) (c : CopyByte) : CopyByte :=
    if !c.dirty && ks.contains k then { c with byte := homeByte s k, since := s.cycle } else c
  let keep (c : Nat × CopyByte) : Bool := c.2.dirty || ks.contains c.1 || !ks.any fun k => dword k == dword c.1
  updStackAt s (stackOf s.core) fun t => { t with copies := (Tab.mapAll renew t.copies).filter keep }

/-- A write of the current thread to host memory stays unacknowledged until the host's completion, which may carry an error
status (R106, R142). -/
def awaitHost (s : State) (k : Nat) : State :=
  if isHost k then { s with hostWrites := s.hostWrites ++ [⟨(thr s).uid, (thr s).owner, s.core⟩] } else s

/-- A release store: the release, then the bytes at the home and in the stack's copy when one exists (R133). -/
def releaseStore (s : State) (l : Loc) (bytes : List Byte) : Act Unit :=
  (release s).bind fun _ s => .ok () (awaitHost (writeThrough s l.key bytes) l.key)

/-! ### Fences (R135) -/

/-- A matrix command that has not ended (R247). -/
def MCmd.live (m : MCmd) : Bool := match m.st with | .ended .. => false | _ => true

/-- The matrix commands of a core in both tenant queues. -/
def allCmds (c : Core) : List MCmd := Tab.get [] c.mqueues 0 ++ Tab.get [] c.mqueues 1

/-- A thread's commands that have not ended (R247). -/
def cmdsOut (s : State) (core uid : Nat) : Nat :=
  ((allCmds (coreAt s core)).filter fun m => m.uid == uid && m.live).length

/-- A transfer between its acceptance and its end (R295). -/
def Xfer.out (x : Xfer) : Bool := match x.st with | .queued | .spilled | .running | .stuck => true | _ => false

/-- A thread's outstanding transfers (R295). -/
def xfersOut (s : State) (uid : Nat) : Nat := (s.xfers.filter fun x => x.req.uid == uid && x.out).length

/-- wait_engines of R135: the commands and transfers the thread pushed have completed, and its vector instructions. -/
def waitEngines (s : State) : Act Unit :=
  let t := thr s
  if cmdsOut s s.core t.uid = 0 ∧ xfersOut s t.uid = 0 ∧ t.vq = [] then .ok () s else .wait .retry s

/-- The waits and effects of FENCE.kind.scope (R135): kind 0 full, 1 posted, 2 engine; scope 0 to 7, owner is 4, stack 5,
system 7. Scope stack lies below owner: it has the effect of scope thread. -/
def fence (s : State) (kind scope : Nat) : Act Unit :=
  (if kind = 0 then (waitBuffer s).bind fun _ s => waitPosted s
   else if kind = 1 then waitPosted s else waitEngines s).bind fun _ s =>
  (if scope = 4 ∨ 6 ≤ scope then (release s).bind fun _ s => .ok () (acquire s) else .ok () s).bind fun _ s =>
  if scope = 7 then waitHost s else .ok () s

end Sys2Proof.Machine
end

