-- ==== Sys2Proof/Machine/LoadStore.lean ====
section
/-! DEFINITION. Loads, stores, posted stores, prefetch, atomics and fences (R97 to R120). -/

namespace Sys2Proof.Machine

/-! ### Requests at the home -/

/-- A loaded number extended to a word (R105). -/
def extend (signed : Bool) (n : Nat) (v : Nat) : Word :=
  if signed then
    match n with
    | 1 => sx (BitVec.ofNat 8 v)
    | 2 => sx (BitVec.ofNat 16 v)
    | 4 => sx (BitVec.ofNat 32 v)
    | _ => BitVec.ofNat 64 v
  else BitVec.ofNat 64 v

/-- A number of `n` bytes as a signed integer. -/
def signedOf (n v : Nat) : Int := (extend true n v).toInt

/-- The new value of an AMO and its exceptions (R113): 0 ADD, 1 AND, 2 OR, 3 XOR, 4 MIN, 5 MAX, 6 SWP, 7 FADD. -/
def amoNew (op : Nat) (n old x frm : Nat) : Nat × BitVec 5 :=
  match op with
  | 0 => ((old + x) % 2 ^ (8 * n), 0)
  | 1 => (old &&& x, 0)
  | 2 => (old ||| x, 0)
  | 3 => (old ^^^ x, 0)
  | 4 => (if signedOf n x < signedOf n old then x else old, 0)
  | 5 => (if signedOf n old < signedOf n x then x else old, 0)
  | 6 => (x, 0)
  | _ => Fp.add (if n = 4 then Fp.fp32 else Fp.fp64) frm old x

/-- What comes before a read-modify-write is performed at its home: the wait of R131, then the release of R133 where its
order asks for one and it is to write there. Whether a CAS is to write is told by its home as it is before the release, also
where the thread's own release-buffer entries still hold its bytes (DESIGN CHOICE, assumption 65). -/
def beforeHome (r : MemReq) (writes : State → Bool) (s : State) : Act Unit :=
  (waitBuffer s).bind fun _ s => if r.rel && writes s then release s else .ok () s

/-- The write of a read-modify-write at the home, if it makes one, what the stack's copies then hold, and its acquire (R128,
R131, R132). -/
def afterHome (r : MemReq) (new : List Byte) (writes : Bool) (s : State) : State :=
  let s := refreshCopies (if writes then writeThrough s r.key new else s) (places r.key r.n)
  if r.acq then acquire s else s

/-- A CAS finds the value it expects at its home (R116). -/
def casHits (r : MemReq) (e : Word) (s : State) : Bool := homeNat s r.key r.n == e.toNat % 2 ^ (8 * r.n)

/-- A CAS2 finds both doublewords it expects at its home (R116). -/
def cas2Hits (r : MemReq) (lo hi : Word) (s : State) : Bool :=
  BitVec.ofNat 64 (homeNat s r.key 8) == lo && BitVec.ofNat 64 (homeNat s (r.key + 8) 8) == hi

/-- The host's completion of a request carries an error status (R106, R115). -/
def hostFails (r : MemReq) (s : State) : Bool := s.hostError && isHost r.key

/-- Stores of the thread in its core's store buffer cover a load (R124 rule 1). -/
def ownCovers (r : MemReq) (s : State) : Bool :=
  (places r.key r.n).all fun a => (youngest (thr s).uid a (coreAt s s.core).sb).isSome

/-- What an atomic does at its home, after its waits: ACCESS where the host's completion is Unsupported Request (R115). -/
def atHome (r : MemReq) (writes : State → Bool) (s : State) (f : State → Act (Option Word)) : Act (Option Word) :=
  (beforeHome r writes s).bind fun _ s => if hostFails r s then .trap Cause.access r.ea s else f s

/-- A load, AMO, CAS or CAS2 performed, with its registers written (R105, R113, R114, R116, R131). The old value is read
after the release; a CAS that is to fail makes no release (R134). -/
def memAct (r : MemReq) (s : State) : Act (Option Word) :=
  match r.op with
  | .load signed =>
    (loadBytes s r.glbo r.key r.n).bind fun b s =>
      if hostFails r s && !ownCovers r s then .trap Cause.access r.ea s
      else
      let s := if r.acq then acquire s else s
      .ok none (wgn s r.rd (extend signed r.n (ofLeBytes b)))
  | .amo op x frm =>
    atHome r (fun _ => true) s fun s =>
      let old := homeNat s r.key r.n
      let (new, f) := amoNew op.toNat r.n old (x.toNat % 2 ^ (8 * r.n)) frm.toNat
      let s := afterHome r (leBytes r.n new) true s
      if op = 7 then
        let s' := raiseFlags s f
        if trapsOn (thr s) f then .trap Cause.arith (f.setWidth 64) s'
        else .ok none (wgn s' r.rd (extend false r.n old))
      else .ok none (wgn s r.rd (extend true r.n old))
  | .cas e new =>
    atHome r (casHits r e) s fun s =>
      let old := homeNat s r.key r.n
      .ok none (wgn (afterHome r (leBytes r.n new.toNat) (casHits r e s) s) r.rd (extend true r.n old))
  | .cas2 lo hi newLo newHi =>
    atHome r (cas2Hits r lo hi) s fun s =>
      let l := BitVec.ofNat 64 (homeNat s r.key 8)
      let h := BitVec.ofNat 64 (homeNat s (r.key + 8) 8)
      let s := afterHome r (leBytes 8 newLo.toNat ++ leBytes 8 newHi.toNat) (cas2Hits r lo hi s) s
      .ok none (wgn (wgn s r.rd l) (r.rd + 1) h)

/-- A request that has passed its checks: performed at once, or sent, its reply being another move (R119); one to a stack in its
pause is parked there (R347). -/
def memIssue (r : MemReq) (s : State) : Act (Option Word) :=
  if s.splitIssue || parkedAt s r.key then .wait (.reply r) s else memAct r s

/-! ### Loads and stores (R105 to R107) -/

/-- A load of a located operand: its address formed, then the request. -/
def loadAct (rd : Nat) (a : Word) (delta : Int) (n : Nat) (mode : BitVec 3) (signed : Bool) (s : State) :
    Act (Option Word) :=
  (address s a delta n mode { r := true }).bind fun l s =>
    memIssue { op := .load signed, n := n, key := l.2.key, ea := BitVec.ofNat 64 l.1, acq := mode == 7, rel := false,
               glbo := mode == 7, rd := rd, tr := l.2.tr } s

/-- A store of a located operand: it enters the store buffer, or is a release store in mode GLBO (R106, R133). -/
def storeAct (x : Word) (a : Word) (delta : Int) (n : Nat) (mode : BitVec 3) (s : State) : Act (Option Word) :=
  (address s a delta n mode { w := true }).bind fun l s =>
    if mode = 7 then
      if parkedAt s l.2.key then .wait .retry s
      else (releaseStore s l.2 (leBytes n x.toNat)).bind fun _ s => .ok none s
    else .ok none (bufferStore s l.2 (leBytes n x.toNat))

/-- The scaled offset of format M (R56). -/
def off8 (o : BitVec 8) (n : Nat) : Int := o.toInt * n

/-- LD (R105). -/
def execLd (d a : BitVec 6) (z : BitVec 2) (m : BitVec 3) (o : BitVec 8) (s : State) : Out :=
  instr (.ld d a z m o) {} [G d, G a] [] s fun s =>
    loadAct d.toNat (rg s a) (off8 o (sizeBytes z)) (sizeBytes z) m true s

/-- LDU; size 3 is ILLEGAL (R105). -/
def execLdu (d a : BitVec 6) (z : BitVec 2) (m : BitVec 3) (o : BitVec 8) (s : State) : Out :=
  instr (.ldu d a z m o) {} [G d, G a] [] s fun s =>
    loadAct d.toNat (rg s a) (off8 o (sizeBytes z)) (sizeBytes z) m false s

/-- ST (R105). -/
def execSt (d a : BitVec 6) (z : BitVec 2) (m : BitVec 3) (o : BitVec 8) (s : State) : Out :=
  instr (.st d a z m o) {} [G d, G a] [] s fun s =>
    storeAct (rg s d) (rg s a) (off8 o (sizeBytes z)) (sizeBytes z) m s

/-- LDX (R107). -/
def execLdx (d a b : BitVec 6) (m : BitVec 3) (z : BitVec 2) (s : State) : Out :=
  instr (.ldx d a b m z) {} [G d, G a, G b] [] s fun s =>
    loadAct d.toNat (rg s a) ((rg s b).toInt * sizeBytes z) (sizeBytes z) m true s

/-- LDUX; size 3 is ILLEGAL (R107). -/
def execLdux (d a b : BitVec 6) (m : BitVec 3) (z : BitVec 2) (s : State) : Out :=
  instr (.ldux d a b m z) {} [G d, G a, G b] [] s fun s =>
    loadAct d.toNat (rg s a) ((rg s b).toInt * sizeBytes z) (sizeBytes z) m false s

/-- STX (R107). -/
def execStx (d a b : BitVec 6) (m : BitVec 3) (z : BitVec 2) (s : State) : Out :=
  instr (.stx d a b m z) {} [G d, G a, G b] [] s fun s =>
    storeAct (rg s d) (rg s a) ((rg s b).toInt * sizeBytes z) (sizeBytes z) m s

/-- PST: every check of a store, then a posted request; the modes are 2 to 5 (R108). -/
def execPst (d a : BitVec 6) (z : BitVec 2) (m : BitVec 3) (o : BitVec 8) (s : State) : Out :=
  instr (.pst d a z m o) {} [G d, G a] [] s fun s =>
    (address s (rg s a) (off8 o (sizeBytes z)) (sizeBytes z) m { w := true }).bind fun l s =>
      .ok none (postStore s l.2 (leBytes (sizeBytes z) (rg s d).toNat))

/-- PREF: after the decode checks it raises no trap, and nothing a program reads depends on it (R110). -/
def execPref (h a : BitVec 6) (o : BitVec 8) (s : State) : Out :=
  instr (.pref h a o) {} [G a] [] s fun s => .ok none s

/-! ### Atomics (R113 to R116) -/

/-- An atomic's address: read as in mode GLB, with R and W; an AMO other than ADD and SWP on host memory raises ACCESS
(R113, R115). -/
def atomicAddress (s : State) (a : Word) (n : Nat) (hostOk : Bool) : Act (Nat × Loc) :=
  (address s a 0 n 6 { r := true, w := true }).bind fun l s =>
    if isHost l.2.key && !hostOk then .trap Cause.access (BitVec.ofNat 64 l.1) s else .ok l s

/-- An AMO (R113): the fields z its size, o its order. -/
def amo (i : Instr) (op : BitVec 3) (d a b : BitVec 6) (z o : BitVec 2) (s : State) : Out :=
  instr i { ill := op == 7 && frmBad (thr s) } [G d, G a, G b] [] s fun s =>
    let n := sizeBytes z
    (atomicAddress s (rg s a) n (op == 0 || op == 6)).bind fun l s =>
      memIssue { op := .amo op (rg s b) (thr s).frm, n := n, key := l.2.key, ea := BitVec.ofNat 64 l.1,
                 acq := o.getLsbD 0, rel := o.getLsbD 1, glbo := false, rd := d.toNat, tr := l.2.tr } s

/-- AMOADD (R113). -/
def execAmoadd (d a b : BitVec 6) (z o : BitVec 2) (s : State) : Out := amo (.amoadd d a b z o) 0 d a b z o s

/-- AMOAND (R113). -/
def execAmoand (d a b : BitVec 6) (z o : BitVec 2) (s : State) : Out := amo (.amoand d a b z o) 1 d a b z o s

/-- AMOOR (R113). -/
def execAmoor (d a b : BitVec 6) (z o : BitVec 2) (s : State) : Out := amo (.amoor d a b z o) 2 d a b z o s

/-- AMOXOR (R113). -/
def execAmoxor (d a b : BitVec 6) (z o : BitVec 2) (s : State) : Out := amo (.amoxor d a b z o) 3 d a b z o s

/-- AMOMIN (R113). -/
def execAmomin (d a b : BitVec 6) (z o : BitVec 2) (s : State) : Out := amo (.amomin d a b z o) 4 d a b z o s

/-- AMOMAX (R113). -/
def execAmomax (d a b : BitVec 6) (z o : BitVec 2) (s : State) : Out := amo (.amomax d a b z o) 5 d a b z o s

/-- AMOSWP (R113). -/
def execAmoswp (d a b : BitVec 6) (z o : BitVec 2) (s : State) : Out := amo (.amoswp d a b z o) 6 d a b z o s

/-- AMOFADD (R113, R114). -/
def execAmofadd (d a b : BitVec 6) (z o : BitVec 2) (s : State) : Out := amo (.amofadd d a b z o) 7 d a b z o s

/-- CAS: the fields o its order, z its size (R116). -/
def execCas (d a b : BitVec 6) (o z : BitVec 2) (s : State) : Out :=
  instr (.cas d a b o z) {} [G d, G a, G b] [] s fun s =>
    let n := sizeBytes z
    (atomicAddress s (rg s a) n true).bind fun l s =>
      memIssue { op := .cas (rg s d) (rg s b), n := n, key := l.2.key, ea := BitVec.ofNat 64 l.1,
                 acq := o.getLsbD 0, rel := o.getLsbD 1, glbo := false, rd := d.toNat, tr := l.2.tr } s

/-- CAS2: rd + 1 and rb + 1 are checked after rb; the access is aligned to 16 bytes (R116). -/
def execCas2 (d a b : BitVec 6) (o : BitVec 2) (s : State) : Out :=
  instr (.cas2 d a b o) {} [G d, G a, G b, .g (d.toNat + 1), .g (b.toNat + 1)] [] s fun s =>
    (atomicAddress s (rg s a) 16 true).bind fun l s =>
      let t := thr s
      memIssue { op := .cas2 (t.getG d.toNat) (t.getG (d.toNat + 1)) (t.getG b.toNat) (t.getG (b.toNat + 1)), n := 16,
                 key := l.2.key, ea := BitVec.ofNat 64 l.1, acq := o.getLsbD 0, rel := o.getLsbD 1, glbo := false,
                 rd := d.toNat, tr := l.2.tr } s

/-- FENCE: the fields c its scope, k its kind (R117, R135). -/
def execFence (c : BitVec 3) (k : BitVec 2) (s : State) : Out :=
  instr (.fence c k) {} [] [] s fun s => (fence s k.toNat c.toNat).bind fun _ s => .ok none s

/-! ### Events of memory -/

/-- PERFORM_HEAD_ENTRY (R125). -/
def execPerformHeadEntry (core : Nat) (s : State) : Out := event s (performHead s core)

/-- WRITE_BACK (R127). -/
def execWriteBack (core n : Nat) (s : State) : Out := event s (writeBack s core n)

/-- DROP_CLEAN_COPY (R127). -/
def execDropCleanCopy (stack addr : Nat) (s : State) : Out := event s (dropClean s stack addr)

/-- PERFORM_POSTED_STORE (R129). -/
def execPerformPostedStore (core n : Nat) (s : State) : Out := event s (performPosted s core n)

/-- An event that acts on a thread of its own: that thread becomes the current one while it acts. -/
def onThread (s : State) (core slot : Nat) (f : State → State) : State :=
  let s' := f { s with core := core, slot := slot }
  { s' with core := s.core, slot := s.slot }

/-- What a completed wait comes to: the thread goes on after its instruction. -/
def complete (i : Instr) (x : Act (Option Word)) (s : State) : State :=
  match finish i (isize i) x with
  | .next s' => s'
  | _ => s

/-- The reply of a thread's load, AMO, CAS or CAS2 given to it, whether or not a pause would park it; a request that still waits for
the thread's own stores has none. -/
def replyNow (s : State) (core slot : Nat) : Option State :=
  match (thrAt s core slot).wait with
  | some (i, .reply r) => some (onThread s core slot fun s => match memAct r s with
      | .wait .. => s
      | x => complete i x s)
  | _ => none

/-- The requests of a core's threads, swapped out or not, to the places that satisfy a condition performed, and their replies
given. -/
def drainReplies (p : Nat → Bool) (s : State) (core : Nat) : State :=
  onEveryOwner s core fun s => (coreAt s core).threads.foldl (fun s t => match t.2.wait with
    | some (_, .reply r) => if p r.key then (replyNow s core t.1).getD s else s
    | _ => s) s

/-- MEMORY_REPLY: the reply of a thread's load, AMO, CAS or CAS2 arrives and the instruction completes (R119). During a pause of
the thread's stack, or of the stack that it asks, it is parked (R347). -/
def execMemoryReply (core slot : Nat) (s : State) : Out :=
  event s <|
    match (thrAt s core slot).wait with
    | some (_, .reply r) => if pausing s (stackOf core) || parkedAt s r.key then none else replyNow s core slot
    | _ => none

end Sys2Proof.Machine
end

