-- ==== Sys2Proof/Machine/Threads.lean ====
section
/-! DEFINITION. Threads of a kernel: how one starts, what holds a kernel open, what ends with it (R143 to R146, R157,
R158, R189, R190, R193, R204). -/

namespace Sys2Proof.Machine

/-! ### The launch record's words (R191) -/

/-- Word `i` of a launch record, at offset 8 + 8 i. -/
def Kernel.word (k : Kernel) (i : Nat) : Word := k.record.getD i 0

def Kernel.prioBase (k : Kernel) : Nat := field (k.word 0) 8 8
def Kernel.nshape (k : Kernel) : Nat := field (k.word 0) 16 4
def Kernel.pmode (k : Kernel) : Bool := (k.word 0).getLsbD 20
def Kernel.wsz (k : Kernel) : BitVec 2 := (k.word 0).extractLsb' 21 2
def Kernel.vsz (k : Kernel) : BitVec 2 := (k.word 0).extractLsb' 23 2
def Kernel.ngroups (k : Kernel) : Nat := field (k.word 0) 32 7
def Kernel.prio (k : Kernel) : BitVec 8 := (k.word 0).extractLsb' 48 8
def Kernel.entry (k : Kernel) : Word := k.word 1
def Kernel.budget (k : Kernel) : Nat := (k.word 2).toNat
def Kernel.dline (k : Kernel) : Nat := (k.word 3).toNat
def Kernel.wrapent (k : Kernel) : Word := k.word 4
def Kernel.wrapBudget (k : Kernel) : Nat := if k.word 5 = 0 then 3300000 else (k.word 5).toNat
def Kernel.flagAddr (k : Kernel) : Word := k.word 6
def Kernel.expected (k : Kernel) : Nat := (k.word 7).toNat
def Kernel.shapeAddr (k : Kernel) : Word := k.word 8
def Kernel.listAddr (k : Kernel) : Word := k.word 9

/-- A kernel with a deadline: all ones means none (R191). -/
def Kernel.hasDeadline (k : Kernel) : Bool := k.word 3 != BitVec.allOnes 64

/-- Core count (R194). -/
def Kernel.coreCount (k : Kernel) : Nat := 16 * k.groups.length

/-- The place of a group in a list of groups. -/
def groupIndex : List Nat → Nat → Nat
  | [], _ => 0
  | g :: gs, x => if g = x then 0 else 1 + groupIndex gs x

/-- The kernel index of a rank: placed cores are numbered in ascending rank order (R194). A rank outside the kernel's groups,
where RFORK may start a thread, has the index 16 × groups + rank mod 16 (DESIGN CHOICE, assumption 72). -/
def Kernel.indexOf (k : Kernel) (rank : Nat) : Nat := 16 * groupIndex k.groups (rank / 16) + rank % 16

/-- A kernel on whose cores code may run: Running or WrappingUp (R195, R309). -/
def Kernel.live (k : Kernel) : Bool := k.st == .running || k.st == .wrappingUp

/-- A kernel that has ended. -/
def Kernel.over (k : Kernel) : Bool := k.st == .closed || k.st == .killed || k.st == .rejected

/-- The state of a thread's kernel. -/
def kstate (s : State) (o kid : Nat) : Option KState := (kernelAt s o kid).map Kernel.st

/-- The kernel is WrappingUp. -/
def wrapping (s : State) (o kid : Nat) : Bool := kstate s o kid == some .wrappingUp

/-- The position of a core drains or swaps, so no new user-mode thread starts on it (R350). -/
def drains (s : State) (core : Nat) : Bool := (Tab.find s.swaps (core / 64)).isSome

/-! ### Every core and context of an owner -/

/-- The cores that hold a context of an owner. -/
def ownerCores (s : State) (o : Nat) : List Nat :=
  (s.cores.filter fun c => (Tab.find c.2.ctxs o).isSome).map Prod.fst

/-- Every context of an owner changed. -/
def mapCtxs (s : State) (o : Nat) (f : Ctx → Ctx) : State :=
  { s with cores := Tab.mapAll (fun _ c =>
      match Tab.find c.ctxs o with
      | some x => { c with ctxs := Tab.set (f x) c.ctxs o }
      | none => c) s.cores }

/-- The occupied slots of a core's threads that satisfy a condition. -/
def slotsWhere (c : Core) (p : Thread → Bool) : List Nat :=
  (c.threads.filter fun t => t.2.st != .free && p t.2).map Prod.fst

/-- The threads of the module that satisfy a condition: core and slot. -/
def threadsWhere (s : State) (p : Thread → Bool) : List (Nat × Nat) :=
  (s.cores.map fun c => (slotsWhere c.2 p).map fun i => (c.1, i)).flatten

/-- The threads of owners swapped out (R350) that satisfy a condition exist. -/
def anyShadow (s : State) (o : Nat) (p : Thread → Bool) : Bool :=
  s.cores.any fun c => (Tab.get [] c.2.shadow o).any fun t => p t.2

/-- A thread of an owner swapped out freed with its context (R350), as `freeSlot` frees one in a slot. -/
def freeShadow (s : State) (c o sl : Nat) (t : Thread) : State :=
  updCore (dropThread s c t) c fun k => { k with shadow := Tab.set (Tab.del (Tab.get [] k.shadow o) sl) k.shadow o }

/-- The threads of an owner that satisfy a condition freed: those in slots, and those of the owner swapped out. -/
def freeWhere (s : State) (o : Nat) (p : Thread → Bool) : State :=
  let s := (threadsWhere s p).foldl (fun s q => freeSlot s q.1 q.2) s
  s.cores.foldl (fun s c => ((Tab.get [] c.2.shadow o).filter fun t => p t.2).foldl (fun s t => freeShadow s c.1 o t.1 t.2) s) s

/-- The contexts of a kernel that CTXSAVE saved are freed. -/
def dropSaved (s : State) (o kid : Nat) : State :=
  let drop (_ : Nat) (c : Core) : Core := { c with saved := c.saved.filter fun v => !(v.owner == o && v.kid == kid) }
  { s with cores := Tab.mapAll drop s.cores }

/-- The thread of a number changed, in a slot of a core or with its owner swapped out (R350); one that has ended is no more. -/
def updUid (s : State) (c uid : Nat) (f : Thread → Thread) : State :=
  let g (_ : Nat) (t : Thread) : Thread := if t.st != .free && t.uid == uid then f t else t
  updCore s c fun k => { k with threads := Tab.mapAll g k.threads, shadow := Tab.mapAll (fun _ ts => Tab.mapAll g ts) k.shadow }

/-- A thread of a kernel. -/
def ofKernel (o kid : Nat) (t : Thread) : Bool := t.owner == o && t.kid == kid

/-! ### Starting (R61, R63, R145) -/

/-- g1 upwards from a list of words. -/
def regsFrom (n : Nat) : List Word → Tab Word
  | [] => []
  | w :: ws => (n, w) :: regsFrom (n + 1) ws

/-- A new user-mode thread of a kernel on a rank, every other register at its value of thread start (R63). Once its
kernel is WrappingUp it starts at the wrap-up entry with g8[62] set, DLEPC its entry and KIDX.div 1 (R149, R204). -/
def newThread (s : State) (o kid rank : Nat) (wsz vsz : BitVec 2) (prio : BitVec 8) (budget : Nat) (entry : Word)
    (g : Tab Word) (mayWrap : Bool) : Thread :=
  let k := (kernelAt s o kid).getD { st := .closed, record := [], ring := 0, depth := 0, order := 0, entered := 0 }
  let t : Thread := { owner := o, kid := kid, wsz := wsz, vsz := vsz, prio := prio, pc := entry, g := g,
                      kindex := k.indexOf rank, kcount := k.coreCount }
  let t := t.withBudget budget
  if mayWrap && k.st == .wrappingUp then
    { t with pc := k.wrapent, dlepc := entry, diverted := true, g := Tab.set (Tab.get 0 g 8 ||| place 1 62) g 8 }
  else t

/-! ### Late faults and the dispatch ring (R157, R158) -/

/-- The dispatches completed, faulted or cancelled: none is pending (R159). -/
def idleUnits (s : State) (core : Nat) (t : Thread) : Bool := t.vq == [] && cmdsOut s core t.uid == 0

/-- wait as SEQSYNC does (R146, R159). -/
def waitUnits (s : State) : Act Unit := if idleUnits s s.core (thr s) then .ok () s else .wait .retry s

/-- The pending late fault with the lowest sequence number: the oldest counted back from the dispatch counter (R158). -/
def oldestLate (seq : BitVec 16) : List LateFault → Option LateFault
  | [] => none
  | e :: es => match oldestLate seq es with
    | none => some e
    | some f => if (seq - f.seq).toNat ≤ (seq - e.seq).toNat then some e else some f

/-- A late fault may be taken: no handler of an earlier one still runs (R158). -/
def lateOpen (t : Thread) : Bool := !t.lateUser && !t.lateSup

/-- The pending late fault that the thread takes at this boundary, if any. -/
def dueLate (t : Thread) : Option LateFault := if lateOpen t then oldestLate t.seq t.late else none

/-- A pending late fault taken, with the thread's PC as TEPC or UEPC (R151, R158). -/
def takeLate (s : State) (e : LateFault) : State :=
  takeTrap (updThr s fun t => { t with late := t.late.filter fun x => x.seq != e.seq }) e.cause (some e.seq) e.value

/-- An entry of a thread's dispatch ring. -/
def ringPut (t : Thread) (e : RingEntry) : Thread := { t with ring := Tab.set e t.ring (e.seq.toNat % 32) }

/-- The state and cause of a dispatch recorded, if the ring still holds it. -/
def ringEnd (t : Thread) (seq : BitVec 16) (st : BitVec 2) (cause : BitVec 8) : Thread :=
  match Tab.find t.ring (seq.toNat % 32) with
  | some e => if e.seq = seq then ringPut t { e with st := st, cause := cause } else t
  | none => t

/-- Dispatches of the current thread not yet completed: a 33rd stalls (R157). -/
def dispatchesOut (s : State) : Nat := (thr s).vq.length + cmdsOut s s.core (thr s).uid

/-- The next dispatch: its sequence number and its ring entry, pending (R157). -/
def dispatchSeq (s : State) (unit : BitVec 2) : BitVec 16 × State :=
  let t := thr s
  (t.seq, updThr s fun t => { ringPut t { seq := t.seq, pc := t.pc, unit := unit } with seq := t.seq + 1 })

/-- A late fault made pending in a thread (R158). -/
def addLate (t : Thread) (e : LateFault) : Thread := { t with late := t.late ++ [e] }

/-! ### The validity flag (R193) -/

/-- The flag word. -/
def flagWord (kid detail cause value : Nat) : Word := place kid 32 ||| place detail 16 ||| place cause 8 ||| place value 0

/-- The flag of a kernel written whole, at its home, in the owner's user space (R193). -/
def writeFlagAt (s : State) (o : Nat) (addr : Word) (w : Word) : State :=
  match userPlace s o (ptrAddr addr) { w := true } with
  | some k => setHomes (walked s o false (ptrAddr addr)) k (leBytes 8 w.toNat)
  | none => s

/-- The flag of a kernel written, once: later writes do nothing. -/
def writeFlag (s : State) (o kid value cause detail : Nat) : State :=
  match kernelAt s o kid with
  | none => s
  | some k =>
    if k.flag ≠ 0 then s
    else
      let s := writeFlagAt s o k.flagAddr (flagWord (if value = 4 then 0 else kid) detail cause value)
      updKernel s o kid fun k => { k with flag := value, cause := cause, detail := detail }

/-! ### The receive queue in local store (R174) -/

/-- A mailbox. -/
def mbxAt (s : State) (c o k : Nat) : Mailbox := Tab.get {} (ctxAt s c o).mbxs k

/-- A mailbox changed. -/
def updMbx (s : State) (c o k : Nat) (f : Mailbox → Mailbox) : State :=
  updCtxAt s c o fun x => { x with mbxs := Tab.set (f (Tab.get {} x.mbxs k)) x.mbxs k }

/-- The place of an entry of a receive queue, `i` from its head. -/
def entryKey (s : State) (c o : Nat) (m : Mailbox) (i : Nat) : Nat :=
  (lsPlace s c o (m.base + 128 * ((m.head + i) % 2 ^ m.k))).getD 0

/-- Words of an entry at its home. -/
def homeWords (s : State) (k : Nat) : Nat → List Word
  | 0 => []
  | n + 1 => BitVec.ofNat 64 (homeNat s k 8) :: homeWords s (k + 8) n

/-- The message of an entry: its header and eight payload words. -/
def readEntry (s : State) (k : Nat) : Msg := ⟨BitVec.ofNat 64 (homeNat s k 8), homeWords s (k + 16) 8⟩

/-- The head message of a mailbox, if it has one. -/
def headMsg (s : State) (c o k : Nat) : Option Msg :=
  let m := mbxAt s c o k
  if m.defined && m.count != 0 then some (readEntry s (entryKey s c o m 0)) else none

/-- The class of a header. -/
def hdrClass (h : Word) : Nat := field h 16 4

/-- A class binding of a mailbox. -/
def classAt (s : State) (c o k cls : Nat) : Option ClassBind := Tab.find (ctxAt s c o).classes (16 * k + cls)

/-- The u bit of a head whose class is unbound, set in the receive queue (R181). -/
def markUnbound (s : State) (c o k : Nat) : State :=
  match headMsg s c o k with
  | some m =>
    if (classAt s c o k (hdrClass m.header)).isNone then
      setHomes s (entryKey s c o (mbxAt s c o k) 0) (leBytes 8 (m.header ||| place 1 35).toNat)
    else s
  | none => s

/-- The heads of an owner's mailboxes on a core that now wait for an unbound class (R181). -/
def markHeads (o : Nat) (s : State) (c : Nat) : State := (List.range 8).foldl (fun s k => markUnbound s c o k) s

/-! ### The end of a kernel (R189) -/

/-- A context after a kernel's end: its class bindings unbound, its mailboxes Undefined with their messages discarded,
its queue bindings released, its shape set free. -/
def Ctx.without (kid : Nat) (c : Ctx) : Ctx :=
  let gone (m : Nat) : Bool := (Tab.get {} c.mbxs m).defined && (Tab.get {} c.mbxs m).kid == kid
  { c with
    classes := c.classes.filter fun b => b.2.kid != kid
    mbxs := c.mbxs.filter fun m => !(m.2.defined && m.2.kid == kid)
    pond := c.pond.filter fun p => !gone p.2
    queues := c.queues.filter fun q => !(q.2.desc != 0 && q.2.kid == kid)
    shapes := c.shapes.filter fun x => x.2.kid != kid }

/-- What is discarded when a kernel reaches Closed or Killed (R189). -/
def dropKernel (s : State) (o kid : Nat) : State :=
  let s := freeWhere s o (ofKernel o kid)
  let s := dropSaved s o kid
  let s := (ownerCores s o).foldl (markHeads o) (mapCtxs s o (Ctx.without kid))
  updOwnerAt s o fun w => { w with joins := w.joins.filter fun j => j.2.kid != kid }

/-- The oldest ended kernel beyond the 4,096 that the front end remembers is forgotten (R190). -/
def forgetOld (ks : Tab Kernel) : Tab Kernel :=
  let done := ks.filter fun k => k.2.over
  if done.length ≤ 4096 then ks
  else
    let first := done.foldl (fun m k => if k.2.ended < m then k.2.ended else m) ((done.head?.map fun k => k.2.ended).getD 0)
    ks.filter fun k => !(k.2.over && k.2.ended == first)

/-- A kernel reaches Closed, Killed or Rejected (R189, R192). -/
def endKernel (s : State) (o kid : Nat) (st : KState) : State :=
  let (n, s) := fresh s
  let s := updKernel s o kid fun k => { k with st := st, ended := n, tasks := [] }
  let s := dropKernel s o kid
  updOwnerAt s o fun w => { w with kernels := forgetOld w.kernels }

/-- A kernel Killed: INVALID with a cause, once (R189, R206). -/
def killKernel (s : State) (o kid cause : Nat) : State := endKernel (writeFlag s o kid 3 cause 0) o kid .killed

/-- A thread of the kernel lives, in a slot or with its owner swapped out. -/
def hasThread (s : State) (o kid : Nat) : Bool :=
  !(threadsWhere s (ofKernel o kid)).isEmpty || anyShadow s o (ofKernel o kid)

/-- A context saved by CTXSAVE belongs to the kernel (R189: a saved thread is freed with its context). -/
def hasSaved (s : State) (o kid : Nat) : Bool := s.cores.any fun c => c.2.saved.any fun v => !v.taken && v.owner == o && v.kid == kid

/-- The kernel holds nothing: no thread, task record, class binding or join cell (R189). -/
def holdsNothing (s : State) (o kid : Nat) (k : Kernel) : Bool :=
  !hasThread s o kid && !hasSaved s o kid && k.tasks.isEmpty
    && !(s.cores.any fun c => (Tab.get {} c.2.ctxs o).classes.any fun b => b.2.kid == kid)
    && !((ownerAt s o).joins.any fun j => j.2.kid == kid && (!j.2.discarded || j.2.waits))

/-- What the end of a thread leads to: a Closing kernel without threads is Closed, and a Running or WrappingUp kernel
that holds nothing is Closed with flag INVALID, cause 0x21 (R189). -/
def settleKernel (s : State) (o kid : Nat) : State :=
  match kernelAt s o kid with
  | none => s
  | some k =>
    if k.st == .closing && !hasThread s o kid then endKernel s o kid .closed
    else if k.live && holdsNothing s o kid k then endKernel (writeFlag s o kid 3 0x21 0) o kid .closed
    else s

/-- A thread's end as DONE makes it, and what follows for its kernel (R146, R189). -/
def endThread (s : State) (c sl : Nat) : State :=
  let t := thrAt s c sl
  settleKernel (freeSlot s c sl) t.owner t.kid

/-- Every other thread of a kernel freed at its boundary, as entering Closing does (R189, R205). -/
def freeOthers (s : State) (o kid uid : Nat) : State :=
  freeWhere (dropSaved s o kid) o fun t => ofKernel o kid t && t.uid != uid

/-! ### Front-end messages and owner events (R194, R378) -/

/-- A message put into a receive queue's ring in local store (R174): header, zero or the mailbox number, payload, zeros. -/
def ringEntryBytes (second : Nat) (m : Msg) : List Byte :=
  leBytes 8 m.header.toNat ++ leBytes 8 second ++ (m.payload.map fun w => leBytes 8 w.toNat).flatten
    ++ List.replicate (112 - 8 * m.payload.length) 0

end Sys2Proof.Machine
end

