-- ==== Sys2Proof/Machine/Barrier.lean ====
section
/-! DEFINITION. Barriers: cells of tile, group and owner, memory barriers, arrivals and waits (R284 to R290). -/

namespace Sys2Proof.Machine

/-- The number of a cell: its level, the tile or group of the rank, its index (R284). -/
def barIndex (level unit index : Nat) : Nat := 2 ^ 16 * level + 16 * unit + index

/-- A barrier named by an instruction: a cell, or a memory barrier at its place. -/
inductive BarRef where
  | cell (n : Nat)
  | mem (key : Nat)
deriving DecidableEq, Repr

/-- The cell that a thread of a rank names. -/
def cellOf (rank : Nat) (l : BitVec 2) (i : BitVec 4) : Nat :=
  barIndex l.toNat (match l.toNat with | 0 => rank / 4 | 1 => rank / 16 | _ => 0) i.toNat

/-- A barrier's fields, and whether word 1's reserved bits are clear. -/
structure Bar where
  cell : BarCell
  clean : Bool := true
deriving DecidableEq, Repr

/-- The barrier of a memory barrier's two words (R285). -/
def barOf (w0 w1 : Word) : Bar :=
  ⟨⟨w0.extractLsb' 0 32, field w1 0 16, field w0 32 16, field w0 48 16⟩, zeroBits w1 63 16⟩

/-- Word 0 of a memory barrier, and the result of BARTEST (R285). -/
def barWord (b : BarCell) : Word := place b.p.toNat 0 ||| place b.cur 32 ||| place b.nxt 48

/-- A barrier's fields, at its home (R287). -/
def readBar (s : State) (o : Nat) : BarRef → Bar
  | .cell n => ⟨Tab.get {} (ownerAt s o).cells n, true⟩
  | .mem k => barOf (BitVec.ofNat 64 (homeNat s k 8)) (BitVec.ofNat 64 (homeNat s (k + 8) 8))

/-- A barrier written; of a memory barrier, word 1 whole or word 0 alone. -/
def writeBar (s : State) (o : Nat) (r : BarRef) (b : BarCell) (whole : Bool) : State :=
  match r with
  | .cell n => updOwnerAt s o fun w => { w with cells := Tab.set b w.cells n }
  | .mem k => writeThrough s k (leBytes 8 (barWord b).toNat ++ if whole then leBytes 8 b.c else [])

/-- A BARRIER value (R289). -/
def barTrap (reason : Nat) (l : BitVec 2) (i : BitVec 4) : Word := place reason 0 ||| place l.toNat 8 ||| place i.toNat 10

/-- The end of every phase whose arrivals are complete: at most P and P + 1 (R288). -/
def settleBar : Nat → BarCell → BarCell
  | 0, b => b
  | n + 1, b => if b.cur = b.c ∧ b.c ≠ 0 then settleBar n { b with p := b.p + 1, cur := b.nxt, nxt := 0 } else b

/-- An arrival for phase `t`: the barrier after it, or the reason it traps; cur has 16 bits (R7, R288). -/
def arriveBar (b : Bar) (mem : Bool) (t : BitVec 32) : Nat ⊕ BarCell :=
  let c := b.cell
  if c.c = 0 then .inl 6
  else if mem ∧ (c.cur > c.c ∨ c.nxt > c.c ∨ !b.clean) then .inl 7
  else if t = c.p then .inr (settleBar 2 { c with cur := (c.cur + 1) % 2 ^ 16 })
  else if t = c.p + 1 then
    if c.nxt = c.c then .inl 5 else .inr (settleBar 2 { c with nxt := c.nxt + 1 })
  else .inl 4

/-- Phase t − 1 has ended (R288). -/
def barDone (b : BarCell) (t : BitVec 32) : Bool := (b.p - t).toNat < 2 ^ 31

/-- The limit of a level's count (R288). -/
def barLimit (l : BitVec 2) : Nat := match l.toNat with | 0 => 64 | 1 => 256 | 2 => 16384 | _ => 65535

/-- The barrier an instruction names: a cell of the issuer's rank, or the memory barrier at g[ra] (R286, R287). -/
def barRef (s : State) (a : BitVec 6) (l : BitVec 2) (i : BitVec 4) (need : Need) : Act BarRef :=
  if l = 3 then
    (effAddr s (rg s a) 0 16).bind fun ea s =>
      let v := BitVec.ofNat 64 ea
      if inWindow ea then .trap Cause.access v s
      else (locGlobal s ea need).bind fun loc s =>
        if isHost loc.key then .trap Cause.access v s else .ok (.mem loc.key) s
  else .ok (.cell (cellOf (ctx s).rank l i)) s

/-- A step at a memory barrier waits for the thread's buffered stores, as CAS2 does (R131, R287). -/
def atBar (s : State) : BarRef → Act Unit
  | .cell _ => .ok () s
  | .mem _ => waitBuffer s

/-- The barrier on which a Blocked thread waits. -/
def waitsOn (s : State) (c : Nat) (t : Thread) : Option BarRef :=
  let mem (a : BitVec 6) : Option BarRef :=
    (walkPlace s t.owner t.sup (ptrAddr (t.getG a.toNat)) { r := true }).map BarRef.mem
  if t.st != .blocked then none
  else match t.wait with
    | some (.barwait _ a l i, _) => if l = 3 then mem a else some (.cell (cellOf (rankOf s c t.owner) l i))
    | some (.bararw _ _ l i, .arrived k _) => if l = 3 then some (.mem k) else some (.cell (cellOf (rankOf s c t.owner) l i))
    | _ => none

/-- A thread of the owner, or of any owner for a memory barrier, waits on a barrier, in its slot or swapped out. -/
def anyWaits (s : State) (o : Nat) (r : BarRef) : Bool :=
  s.cores.any fun c => holdsThread c.2 fun t =>
    waitsOn s c.1 t == some r && (t.owner == o || match r with | .mem _ => true | .cell _ => false)

/-- What the stack's copies hold once a barrier's word 0 has been read at its home: nothing older (R128). -/
def sawBar (s : State) : BarRef → State
  | .cell _ => s
  | .mem k => refreshCopies s (places k 8)

/-- BARINIT: C ← g[rd], P unchanged. A memory barrier's word 1 is written whole, with release: the release comes before
the one step at the barrier (R131, R133, R288). -/
def execBarinit (d a : BitVec 6) (l : BitVec 2) (i : BitVec 4) (s : State) : Out :=
  instr (.barinit d a l i) {} (if l = 3 then [G d, G a] else [G d]) [] s fun s =>
    (barRef s a l i { r := true, w := true }).bind fun r s =>
    (match r with | .mem _ => release s | .cell _ => .ok () s).bind fun _ s =>
      let o := (thr s).owner
      let b := (readBar s o r).cell
      if b.cur ≠ 0 ∨ b.nxt ≠ 0 ∨ anyWaits s o r then .trap Cause.barrier (barTrap 3 l i) s
      else if barLimit l < (rg s d).toNat then .trap Cause.barrier (barTrap 2 l i) s
      else .ok none (wg (writeBar s o r { b with c := (rg s d).toNat } true) d (zx b.p))

/-- An arrival made by the current thread, after its release (R288). -/
def arriveAct (s : State) (r : BarRef) (l : BitVec 2) (i : BitVec 4) (t : BitVec 32) : Act Unit :=
  (release s).bind fun _ s =>
    let o := (thr s).owner
    match arriveBar (readBar s o r) (l == 3) t with
    | .inl e => .trap Cause.barrier (barTrap e l i) s
    | .inr b => .ok () (writeBar s o r b false)

/-- The token of g[rd] (R288). -/
def token (s : State) (d : BitVec 6) : BitVec 32 := (rg s d).setWidth 32

/-- BARARR (R288). -/
def execBararr (d a : BitVec 6) (l : BitVec 2) (i : BitVec 4) (s : State) : Out :=
  instr (.bararr d a l i) {} (if l = 3 then [G d, G a] else [G d]) [] s fun s =>
    (barRef s a l i { r := true, w := true }).bind fun r s =>
      let t := token s d
      (arriveAct s r l i t).bind fun _ s => .ok none (wg s d (zx (t + 1)))

/-- BARWAIT (R288). -/
def execBarwait (d a : BitVec 6) (l : BitVec 2) (i : BitVec 4) (s : State) : Out :=
  instr (.barwait d a l i) {} (if l = 3 then [G d, G a] else [G d]) [] s fun s =>
    (barRef s a l i { r := true }).bind fun r s =>
      let b := (readBar s (thr s).owner r).cell
      if barDone b (token s d) then .ok none (wg (acquire s) d (zx b.p)) else .wait .retry s

/-- The end of a BARARW whose arrival is made. -/
def awaitBar (d : BitVec 6) (r : BarRef) (key : Nat) (tr : Option Xlat) (s : State) : Act (Option Word) :=
  let t := token s d
  if barDone (readBar s (thr s).owner r).cell (t + 1) then .ok none (wg (acquire s) d (zx (t + 1)))
  else .wait (.arrived key tr) s

/-- The place a waiting BARARW arrived at, and its translation. -/
def arrivedAt (t : Thread) : Option (Nat × Option Xlat) :=
  if t.st == .blocked then match t.wait with | some (.bararw .., .arrived k tr) => some (k, tr) | _ => none else none

/-- BARARW: the arrival is made once; what remains is the wait (R288). -/
def execBararw (d a : BitVec 6) (l : BitVec 2) (i : BitVec 4) (s : State) : Out :=
  instr (.bararw d a l i) {} (if l = 3 then [G d, G a] else [G d]) [] s fun s =>
    match arrivedAt (thr s) with
    | some (k, tr) => awaitBar d (if l = 3 then .mem k else .cell (cellOf (ctx s).rank l i)) k tr s
    | none =>
      (barRef s a l i { r := true, w := true }).bind fun r s =>
        (arriveAct s r l i (token s d)).bind fun _ s =>
          match r with
          | .mem k => awaitBar d r k (some (xlatNow s (ptrAddr (rg s a)))) s
          | .cell _ => awaitBar d r 0 none s

/-- BARTEST (R288). -/
def execBartest (d a : BitVec 6) (l : BitVec 2) (i : BitVec 4) (s : State) : Out :=
  instr (.bartest d a l i) {} (if l = 3 then [G d, G a] else [G d]) [] s fun s =>
    (barRef s a l i { r := true }).bind fun r s => (atBar s r).bind fun _ s =>
      let b := (readBar s (thr s).owner r).cell
      .ok none (wg (if barDone b (token s d) then acquire s else sawBar s r) d (barWord b))

/-- A barrier wait that a diversion (status 1) or a budget expiry (status 2) ends: g[rd] is written without the acquire
(R290). -/
def endBarWait (s : State) (status : Nat) : Option State :=
  let t := thr s
  match waitsOn s s.core t, t.wait with
  | some r, some (.barwait d a l i, _) =>
    some (complete (.barwait d a l i)
      (.ok none (wg (sawBar s r) d (zx (readBar s t.owner r).cell.p ||| place status 32))) s)
  | some _, some (.bararw d a l i, _) =>
    some (complete (.bararw d a l i) (.ok none (wg s d (zx (token s d + 1) ||| place status 32))) s)
  | _, _ => none

end Sys2Proof.Machine
end

