-- ==== Sys2Proof/Machine/Deliver.lean ====
section
/-! DEFINITION. Messages: receive queues, the pond, arrival, dispatch, and the messages of the front end and the
hardware (R173 to R182, R194, R378). -/

namespace Sys2Proof.Machine

/-! ### Descriptors and headers (R176) -/

/-- Payload words of a length code: one, four or eight. -/
def lenWords (c : Nat) : Nat := match c with | 0 => 1 | 1 => 4 | _ => 8

/-- The length code of a word count. -/
def lenCode (n : Nat) : Nat := match n with | 1 => 0 | 4 => 1 | _ => 2

/-- A header: sequence number, sender's owner, another owner's message (x), length code, reply class and mailbox, the
REPLY bit, class, mailbox, sender's rank. -/
def header (seq : BitVec 16) (owner : Nat) (x : Bool) (len rclass rmbx : Nat) (r : Bool) (cls mbx rank : Nat) : Word :=
  place seq.toNat 48 ||| place owner 40 ||| place (if x then 1 else 0) 36 ||| place len 32 ||| place rclass 28
    ||| place rmbx 25 ||| place (if r then 1 else 0) 24 ||| place cls 16 ||| place mbx 13 ||| place rank 0

def hdrLen (h : Word) : Nat := lenWords (field h 32 2)

/-- Whether the sender is another owner (x). -/
def hdrForeign (h : Word) : Bool := h.getLsbD 36

/-! ### The receive queue (R174) -/

/-- The head removed. -/
def popMsg (s : State) (c o k : Nat) : State :=
  updMbx s c o k fun m => { m with head := (m.head + 1) % 2 ^ m.k, count := m.count - 1 }

/-- A message appended to a receive queue (R173, R174). -/
def appendMsg (s : State) (c o k : Nat) (m : Msg) : State :=
  let b := mbxAt s c o k
  let s := setHomes s (entryKey s c o b b.count) (ringEntryBytes 0 m)
  updMbx s c o k fun b => { b with count := b.count + 1 }

/-! ### The pond (R173, R175) -/

/-- Entries of the pond, 0 for no pond. -/
def pondSize (x : Ctx) : Nat := let n := field x.mbxpond 0 4; if n < 5 then 0 else 2 ^ n

/-- Entries from the pond's head to its tail, by which it is full: those of an ended kernel's mailbox are gone from it, and their places
come free as the head passes them (DESIGN CHOICE, assumption 92). -/
def pondSpan (x : Ctx) : Nat :=
  match x.pond with
  | [] => 0
  | (i, _) :: _ => if pondSize x = 0 then 0 else (x.pondTail + pondSize x - i - 1) % pondSize x + 1

/-- The address of a pond entry. -/
def pondAddr (x : Ctx) (i : Nat) : Nat := field x.mbxpond 12 40 * 4096 + 128 * i

/-- The place of a pond entry: its page must be mapped writable and pinned in the owner's supervisor space, which holds
the areas the supervisor's registers name (DEDUCED, assumption 13; R332). -/
def pondKey (s : State) (o : Nat) (x : Ctx) (i : Nat) (need : Need) : Option Nat := areaPlace s o (pondAddr x i) need

/-- MBXOVF's value (R175). -/
def ovfValue (owner mbx count : Nat) : Word := place owner 0 ||| place mbx 8 ||| place count 16

/-- A message put into the pond: status 1, or 2 when there is no room, or no page (R173). -/
def toPond (s : State) (c o k : Nat) (m : Msg) : BitVec 2 × State :=
  let x := ctxAt s c o
  if pondSize x = 0 ∨ pondSpan x ≥ pondSize x then (2, s)
  else match pondKey s o x x.pondTail { w := true } with
    | none => (2, errRecord s 3 o 0x173 c)
    | some key =>
      let s := setHomes (walked s o true (pondAddr x x.pondTail)) key (ringEntryBytes k m)
      let s := updCtxAt s c o fun x =>
        { x with pond := x.pond ++ [(x.pondTail, k)], pondTail := (x.pondTail + 1) % pondSize x }
      let s := if (mbxAt s c o k).spilled then s else
        updCtxAt (updMbx s c o k fun b => { b with spilled := true }) c o fun x =>
          { x with ovf := x.ovf ++ [ovfValue o k x.pond.length] }
      (1, s)

/-- The head pond entry moved into its mailbox's receive queue, when that has room (R175). -/
def pondMove (s : State) (c o : Nat) : Option State :=
  let x := ctxAt s c o
  match x.pond with
  | [] => none
  | (i, k) :: rest =>
    let b := mbxAt s c o k
    if b.defined && b.count < 2 ^ b.k then
      match pondKey s o x i { r := true } with
      | none => none
      | some key =>
        let m := readEntry s key
        let s := walked s o true (pondAddr x i)
        let s := appendMsg s c o k { m with header := m.header ||| place 1 34 }
        let s := if b.count = 0 then markUnbound s c o k else s
        let s := updCtxAt s c o fun x => { x with pond := rest }
        some (if rest.any (fun p => p.2 == k) then s else updMbx s c o k fun b => { b with spilled := false })
    else none

/-! ### Dispatch (R181) -/

def ClassBind.prio (c : ClassBind) : BitVec 8 := c.word1.extractLsb' 20 8
def ClassBind.vsz (c : ClassBind) : BitVec 2 := c.word1.extractLsb' 18 2
def ClassBind.wsz (c : ClassBind) : BitVec 2 := c.word1.extractLsb' 16 2
def ClassBind.exclusive (c : ClassBind) : Bool := c.word1.getLsbD 28
def ClassBind.types (c : ClassBind) : BitVec 8 := c.word1.extractLsb' 8 8
def ClassBind.words (c : ClassBind) : Nat := lenWords (field c.word1 0 2)

/-- Dispatch into a class is stopped: its kernel is WrappingUp or Closing (R181). -/
def stoppedClass (s : State) (o : Nat) (b : ClassBind) : Bool :=
  match kstate s o b.kid with
  | some .wrappingUp | some .closing => true
  | _ => false

/-- The words a handler or a RECV receives: those sent and within `n`, else zero; a foreign fat pointer loses its tag
(R181, R182). -/
def payloadWord (m : Msg) (n : Nat) (types : BitVec 8) (i : Nat) : Word :=
  let w := if i < hdrLen m.header && i < n then m.payload.getD i 0 else 0
  if hdrForeign m.header && types.getLsbD i then zx (w.extractLsb' 0 52) else w

/-- A message of mailbox `k` may be dispatched into its class now: the class is bound to a handler, dispatch is not
stopped, exclusion allows it, the owner runs on the core and is not stopped (R379), and a slot with its allocation is free (R173, R181). -/
def mayDispatch (s : State) (c o k : Nat) (m : Msg) : Option (ClassBind × Nat × Nat × Nat) :=
  match classAt s c o k (hdrClass m.header) with
  | none => none
  | some b =>
    let ts := (coreAt s c).threads
    let of (p : Bool → Bool) : Bool := ts.any fun t => t.2.st != .free && t.2.owner == o &&
      (match t.2.mbx with | some (j, e) => j == k && p e | none => false)
    if b.entry = 0 || stoppedClass s o b || (ownerAt s o).stopped || (coreAt s c).active != o || drains s c
      || (b.exclusive && of fun _ => true) || of (fun e => e) then none
    else (findPlace s c b.wsz b.vsz).map fun p => (b, p)

/-- The handler thread of a message (R181). -/
def handler (s : State) (c o k : Nat) (b : ClassBind) (m : Msg) : Thread :=
  let g := regsFrom 1 ((List.range 8).map (payloadWord m b.words b.types) ++ [m.header])
  { newThread s o b.kid (rankOf s c o) b.wsz b.vsz b.prio b.budget.toNat b.entry g false with
    mbx := some (k, b.exclusive) }

/-- A mailbox's head dispatched, if it may be. -/
def dispatchHead (s : State) (c o k : Nat) : Option State :=
  match headMsg s c o k with
  | none => none
  | some m => match mayDispatch s c o k m with
    | none => none
    | some (b, sl, gb, vb) =>
      let s := startThread (popMsg s c o k) c sl gb vb (handler s c o k b m)
      some (markUnbound (updCore s c fun x => { x with lastMbx := k }) c o k)

/-- The mailbox, of those with the heads given, whose head is dispatched next: the highest class priority, on a tie the first
counting round from the mailbox after the last one (R181). -/
def chooseMailbox (s : State) (c o : Nat) (head : Nat → Option Msg) : Option Nat :=
  let start := (coreAt s c).lastMbx + 1
  let cand := ((List.range 8).map fun i => (start + i) % 8).filterMap fun k =>
    match head k with
    | none => none
    | some m => (mayDispatch s c o k m).map fun b => (k, b.1.prio.toNat)
  (cand.foldl (fun best x => match best with
    | none => some x
    | some y => if y.2 < x.2 then some x else some y) none).map Prod.fst

/-- The mailbox whose head is dispatched next (R181). -/
def nextMailbox (s : State) (c o : Nat) : Option Nat := chooseMailbox s c o (headMsg s c o)

/-- The core's next dispatch (R181). -/
def dispatchCore (s : State) (c : Nat) : Option State :=
  let o := (coreAt s c).active
  match nextMailbox s c o with
  | none => none
  | some k => dispatchHead s c o k

/-! ### Arrival (R173) -/

/-- A message of a sender's owner arrives for mailbox `k` of owner `o` on core `c`: its status and the state. One that
can be dispatched at once, no other mailbox's head going before it, is not written to the receive queue. -/
def arrive (s : State) (c o k sender : Nat) (m : Msg) : BitVec 2 × State :=
  let b := mbxAt s c o k
  if !b.defined || (ownerAt s o).stopped then (3, s)
  else if k = 0 && sender != 0 then (3, s)
  else if k ≠ 0 && sender != o && !(ctxAt s c o).mbxopen.getLsbD k then (3, s)
  else if b.spilled || b.count ≥ 2 ^ b.k then toPond s c o k m
  else if b.count = 0 then
    let first := chooseMailbox s c o fun j => if j = k then some m else headMsg s c o j
    match (if first = some k then mayDispatch s c o k m else none) with
    | some (cb, sl, gb, vb) =>
      (0, updCore (startThread s c sl gb vb (handler s c o k cb m)) c fun x => { x with lastMbx := k })
    | none => (0, markUnbound (appendMsg s c o k m) c o k)
  else (0, appendMsg s c o k m)

/-! ### The front end's messages (R194, R378) -/

/-- A message of the front end to mailbox 0 of a rank as it is sent, with the counter of R194. Owner 0x00 is no owner, so x is
clear (DEDUCED, assumption 14). -/
def frontBuild (s : State) (o rank cls : Nat) (payload : List Word) (events : Bool) : ParkedMsg × State :=
  let c := rankCore (ownerAt s o) rank
  let seq := (ctxAt s c o).feCtr
  (⟨c, o, events, ⟨header seq 0 false (lenCode payload.length) 0 0 false cls 0 0x3FF, payload⟩⟩,
    updCtxAt s c o fun x => { x with feCtr := x.feCtr + 1 })

/-- A message of the front end arrives, or during a pause of its stack waits in the parking buffer (R347). -/
def frontArrive (s : State) (p : ParkedMsg) : BitVec 2 × State :=
  if pausing s (stackOf p.core) then (0, { s with parked := s.parked ++ [p] }) else arrive s p.core p.owner 0 0 p.msg

/-- An owner event: OWNEV's bit and count, and a message to the core of rank 0 (R378, R384). An ID that no owner has takes
none. Where the message itself finds a pond page that cannot be written, its error record makes no further event
(DESIGN CHOICE, assumption 71). -/
def ownerEvent (s : State) (o kind : Nat) (detail : Word) (rank : Nat) : State :=
  if (Tab.find s.owners o).isNone then s else
  let s := updOwnerAt s o fun w =>
    { w with ownev := (place (((field w.ownev 32 32) + 1) % 2 ^ 32) 32 ||| zx (w.ownev.extractLsb' 0 4)
        ||| place 1 (match kind with | 1 => 1 | 2 => 2 | _ => 3)) }
  let (p, s) := frontBuild s o 0 1 [place kind 0, detail, BitVec.ofNat 64 (timeNow s), place rank 0] false
  (frontArrive s p).2

/-- A device error record against an owner, with its owner event (R106, R378). -/
def ownerError (s : State) (o loc rank : Nat) : State :=
  let n := s.sys.errs.length
  ownerEvent (errRecord s 3 o 0 loc) o 3 (place n 0) rank

/-- What follows an arrival on a core: the owner event of a pond page that could not be written (R173, R378). -/
def pondEvent (s : State) (c o : Nat) (r : BitVec 2 × State) : BitVec 2 × State :=
  if s.sys.errs.length < r.2.sys.errs.length then
    (r.1, ownerEvent r.2 o 3 (place s.sys.errs.length 0) (rankOf s c o))
  else r

/-- An arrival, with the owner event of a pond page that could not be written (R173, R378). -/
def arriveMsg (s : State) (c o k sender : Nat) (m : Msg) : BitVec 2 × State := pondEvent s c o (arrive s c o k sender m)

/-- A front-end message that arrives, or is parked, with that event where it makes one. -/
def landParked (s : State) (p : ParkedMsg) : State :=
  if p.events then (pondEvent s p.core p.owner (frontArrive s p)).2 else (frontArrive s p).2

/-- The messages parked for a stack delivered, in the order sent, once its pause is over (R347). -/
def unpark (s : State) (n : Nat) : State :=
  let here (p : ParkedMsg) : Bool := stackOf p.core == n
  (s.parked.filter here).foldl landParked { s with parked := s.parked.filter fun p => !here p }

/-- A message of the front end to mailbox 0 of a rank (R194). -/
def frontMessage (s : State) (o rank cls : Nat) (payload : List Word) : State :=
  let (p, s) := frontBuild s o rank cls payload true
  landParked s p

end Sys2Proof.Machine
end

