-- ==== Sys2Proof/Machine/Message.lean ====
section
/-! DEFINITION. Messages and mailboxes: SEND, REPLY, MBXDEF, BIND, UNBIND, RECV and their events (R176 to R182). -/

namespace Sys2Proof.Machine

/-! ### Sending (R177) -/

/-- A SEND1 event to a slot: the word, the event bit, status 0, or 3 where no thread of the sender's owner is there,
also while that owner is swapped out (R156, R177, R350). -/
def arriveEvent (s : State) (c sl o : Nat) (w : Word) : BitVec 2 × State :=
  let here (t : Thread) : Bool := t.st != .free && t.owner == o
  let away := Tab.get {} (Tab.get [] (coreAt s c).shadow o) sl
  let mark (t : Thread) : Thread := { t with evword := w, evt := true }
  if here (thrAt s c sl) then (0, updThrAt s c sl mark)
  else if here away then (0, updUid s c away.uid mark)
  else (3, s)

/-- A message in flight reaches its destination: the status (R173, R177). -/
def land (s : State) (f : Flight) : BitVec 2 × State :=
  let w := ownerAt s f.owner
  if f.rank ≥ nrank w then (3, s)
  else
    let c := rankCore w f.rank
    match f.event with
    | some sl => arriveEvent s c sl f.srcOwner (f.msg.payload.headD 0)
    | none => arriveMsg s c f.owner f.mbx f.srcOwner f.msg

/-- The destination core of a message in flight. -/
def flightCore (s : State) (f : Flight) : Nat := rankCore (ownerAt s f.owner) f.rank

/-- The words g[ra] upwards of the current thread. -/
def regWords (s : State) (a : BitVec 6) (n : Nat) : List Word := (List.range n).map fun i => (thr s).getG (a.toNat + i)

/-- Two messages of one sender core to one rank of an owner share a channel (R130, R139). -/
def sameChannel (a b : Flight) : Bool := a.core == b.core && a.owner == b.owner && a.rank == b.rank

/-- The release of a push, the counter, and the message on its way; its status is written at once, or when it returns
(R177, R178). An earlier message of the channel still in flight keeps it in flight too (R130, R176), and so does a pause of the
destination's stack (R347). -/
def sendMsg (d : BitVec 6) (f : Nat → BitVec 16 → Flight) (s : State) : Act (Option Word) :=
  (release s).bind fun _ s =>
    let seq := (ctx s).msgCtr
    let s := updCtx s fun x => { x with msgCtr := x.msgCtr + 1 }
    let (id, s) := fresh s
    let m := f id seq
    if s.splitIssue || s.flights.any (sameChannel m) || pausing s (stackOf (flightCore s m)) then
      .wait (.status id none) { s with flights := s.flights ++ [m] }
    else let (st, s) := land s m; .ok none (wg s d (st.setWidth 64))

/-- A descriptor with an invalid field (R177): reserved bits, ev outside SEND1, or ev with reply or mailbox fields. -/
def badDesc (one : Bool) (d : Word) : Bool :=
  !zeroBits d 63 40 || (!d.getLsbD 24 && !zeroBits d 23 20) || !zeroBits d 12 10 || (d.getLsbD 24 && !one)
    || (d.getLsbD 24 && (!zeroBits d 31 25 || !zeroBits d 19 13))

/-- The QUEUE value of an invalid message descriptor: bit 16, reason 12, the mailbox (R169). -/
def descValue (mbx : Nat) : Word := place 1 16 ||| place 12 8 ||| place mbx 0

/-- SEND, SEND4 and SEND1 of `n` words (R177). -/
def send (i : Instr) (n : Nat) (d a : BitVec 6) (s : State) : Out :=
  instr i {} [G d, G a, .g (a.toNat + n - 1)] ((List.range n).map fun k => .g (a.toNat + k)) s fun s =>
    let w := rg s d
    let t := thr s
    let own := field w 32 8
    let dest := if own = 0 then t.owner else own
    if badDesc (n == 1) w then .trap Cause.queue (descValue (field w 13 3)) s
    else if dest = t.owner ∧ nrank (owner s) ≤ field w 0 10 then .trap Cause.access w s
    else
      let rank := (ctx s).rank
      let pay := regWords s a n
      sendMsg d (fun id seq =>
        { id := id, core := s.core, slot := s.slot, uid := t.uid, srcOwner := t.owner, owner := dest,
          rank := field w 0 10, mbx := field w 13 3,
          event := if w.getLsbD 24 then some (field w 20 4) else none, desc := w,
          msg := ⟨header seq t.owner (dest != t.owner) (lenCode n) (field w 28 4) (field w 25 3) false (field w 16 4)
            (field w 13 3) rank, pay⟩ }) s

/-- SEND: eight words (R177). -/
def execSend (d a : BitVec 6) (s : State) : Out := send (.send d a) 8 d a s

/-- SEND4: four words (R177). -/
def execSend4 (d a : BitVec 6) (s : State) : Out := send (.send4 d a) 4 d a s

/-- SEND1: one word, to a mailbox or as an event to a slot (R177). -/
def execSend1 (d a : BitVec 6) (s : State) : Out := send (.send1 d a) 1 d a s

/-- REPLY: four words to the header's reply mailbox and class; no reply to a reply (R177). -/
def execReply (d a : BitVec 6) (s : State) : Out :=
  instr (.reply d a) {} [G d, G a, .g (a.toNat + 3)] ((List.range 4).map fun k => .g (a.toNat + k)) s fun s =>
    let h := rg s d
    let t := thr s
    if h.getLsbD 24 then .trap Cause.queue (descValue (field h 25 3)) s
    else
      let rank := (ctx s).rank
      let pay := regWords s a 4
      sendMsg d (fun id seq =>
        { id := id, core := s.core, slot := s.slot, uid := t.uid, srcOwner := t.owner, owner := field h 40 8,
          rank := field h 0 10, mbx := field h 25 3, event := none, desc := h,
          msg := ⟨header seq t.owner false 1 0 0 true (field h 28 4) (field h 25 3) rank, pay⟩ }) s

/-- The earliest message in flight on the channel of one (R130, R139: messages of one sender core to one rank arrive in
the order sent). -/
def firstOnChannel (s : State) (f : Flight) : Bool :=
  match s.flights.find? (sameChannel f) with
  | some x => x.id == f.id
  | none => false

/-- The status of a message given to its sender, in a slot or with its owner swapped out (R177, R350). -/
def answerSender (s : State) (f : Flight) (st : BitVec 2) : State :=
  updUid s f.core f.uid fun t => match t.wait with
    | some (i, .status id none) => if id = f.id then { t with wait := some (i, .status id (some st)) } else t
    | _ => t

/-- The message numbered as one in flight arrives, and its status starts back (R173, R177). -/
def landFlight (s : State) (f : Flight) : State :=
  let (st, s) := land { s with flights := s.flights.filter fun g => g.id != f.id } f
  answerSender s f st

/-- MESSAGE_ARRIVAL: a message in flight arrives; its status starts back (R173, R177). During a pause of its destination's stack
it is parked (R347). -/
def execMessageArrival (n : Nat) (s : State) : Out :=
  event s <| match s.flights[n]? with
    | none => none
    | some f =>
      if firstOnChannel s f && !pausing s (stackOf (flightCore s f)) then some (landFlight s f) else none

/-- The destination register of a message instruction. -/
def sendDest : Instr → BitVec 6
  | .send d _ | .send4 d _ | .send1 d _ | .reply d _ => d
  | _ => 0

/-- A status that has come completes its sender's instruction, in its slot. -/
def takeStatus (s : State) (core slot : Nat) : Option State :=
  match (thrAt s core slot).wait with
  | some (i, .status _ (some st)) =>
    some (onThread s core slot fun s => complete i (.ok none (wg s (sendDest i) (st.setWidth 64))) s)
  | _ => none

/-- MESSAGE_STATUS: the status returns and completes the sender's instruction (R177); it is parked during a pause of its stack
(R347). -/
def execMessageStatus (core slot : Nat) (s : State) : Out :=
  event s (if pausing s (stackOf core) then none else takeStatus s core slot)

/-- POND_MOVE, outside a rotation pause (R175, R344). -/
def execPondMove (core owner : Nat) (s : State) : Out :=
  event s (if pausing s (stackOf core) then none else pondMove s core owner)

/-- DISPATCH, outside a rotation pause (R181, R344). -/
def execDispatch (core : Nat) (s : State) : Out :=
  event s (if pausing s (stackOf core) then none else dispatchCore s core)

/-! ### Defining mailboxes and binding classes (R179, R180) -/

/-- A QUEUE value for a mailbox (R169). -/
def mbxTrap (reason : Nat) (k : BitVec 3) : Word := place 1 16 ||| place reason 8 ||| place k.toNat 0

/-- The words of a descriptor in the issuer's own local store, under R97 and R98 with its size. -/
def ownBlock (s : State) (a : Word) (size words : Nat) (f : List Word → State → Act (Option Word)) : Act (Option Word) :=
  (address s a 0 size 0 { r := true }).bind fun l s => (loadWords s l.2.key words).bind f

/-- A mailbox that holds messages in its queue or in the pond (R179). -/
def holdsMessages (s : State) (k : BitVec 3) : Bool :=
  (Tab.get {} (ctx s).mbxs k.toNat).count != 0 || (ctx s).pond.any fun p => p.2 == k.toNat

/-- The kernels whose class bindings on the current core have numbers of some form. -/
def boundKids (s : State) (p : Nat → Bool) : List Nat := ((ctx s).classes.filter fun c => p c.1).map fun c => c.2.kid

/-- What losing a class binding leads to for its kernel (R189). -/
def settleKids (s : State) (kids : List Nat) : State := kids.foldl (fun s k => settleKernel s (thr s).owner k) s

/-- MBXDEF: the descriptor is read under its address checks, then mailbox 0 is only for supervisor mode
(R60, R179); g0 releases the mailbox and its bindings; otherwise the descriptor defines it with an empty queue and keeps any class
bindings (R179). -/
def execMbxdef (a : BitVec 6) (b : BitVec 3) (s : State) : Out :=
  instr (.mbxdef a b) {} [G a] [] s fun s =>
    if a = 0 then
      if b = 0 ∧ !(thr s).sup then .trap Cause.queue (mbxTrap 9 b) s
      else if holdsMessages s b then .trap Cause.queue (mbxTrap 11 b) s
      else
        let kids := boundKids s fun n => n / 16 == b.toNat
        let s := updCtx s fun x =>
          { x with mbxs := Tab.del x.mbxs b.toNat, classes := x.classes.filter fun c => c.1 / 16 != b.toNat }
        .ok none (settleKids s kids)
    else
      ownBlock s (rg s a) 16 2 fun ws s =>
        let base := ws.getD 0 0
        let w1 := ws.getD 1 0
        let k := field w1 0 4
        if b = 0 ∧ !(thr s).sup then .trap Cause.queue (mbxTrap 9 b) s
        else if base.toNat % 128 ≠ 0 ∨ !zeroBits w1 63 4 ∨ k < 4 ∨ 12 < k
            ∨ lsLimit s s.core (thr s).owner < base.toNat + 128 * 2 ^ k then
          .trap Cause.queue (mbxTrap 10 b) s
        else if holdsMessages s b then .trap Cause.queue (mbxTrap 11 b) s
        else
          let kid := (thr s).kid
          .ok none (updMbx s s.core (thr s).owner b.toNat fun _ =>
            { defined := true, base := base.toNat, k := k, kid := kid })

/-- A class descriptor that R180 calls invalid. -/
def badClass (ws : List Word) : Bool :=
  let w1 := ws.getD 1 0
  !zeroBits w1 63 29 || !zeroBits w1 7 2 || field w1 16 2 == 3 || field w1 0 2 == 3 || ws.getD 3 0 != 0
    || (ws.getD 0 0 != 0 && !codeAddress (ws.getD 0 0))

/-- BIND: the descriptor copied with the issuer's KID, in one step between two dispatches, after the address checks, reason 8,
reason 10 and reason 9, in the order of R180 (R60). -/
def execBind (a : BitVec 6) (b : BitVec 3) (c : BitVec 4) (s : State) : Out :=
  instr (.bind a b c) {} [G a] [] s fun s =>
    ownBlock s (rg s a) 32 4 fun ws s =>
      if !(Tab.get {} (ctx s).mbxs b.toNat).defined then .trap Cause.queue (mbxTrap 8 b) s
      else if badClass ws then .trap Cause.queue (mbxTrap 10 b) s
      else if b = 0 ∧ !(thr s).sup then .trap Cause.queue (mbxTrap 9 b) s
      else
        let bound : ClassBind := ⟨ws.getD 0 0, ws.getD 1 0, ws.getD 2 0, (thr s).kid⟩
        let n := 16 * b.toNat + c.toNat
        let kids := boundKids s fun m => m == n
        .ok none (settleKids (updCtx s fun x => { x with classes := Tab.set bound x.classes n }) kids)

/-- UNBIND: the class becomes unbound (R180); a head of that class now waits unbound (R181). -/
def execUnbind (b : BitVec 3) (c : BitVec 4) (s : State) : Out :=
  instr (.unbind b c) {} [] [] s fun s =>
    if !(Tab.get {} (ctx s).mbxs b.toNat).defined then .trap Cause.queue (mbxTrap 8 b) s
    else if b = 0 ∧ !(thr s).sup then .trap Cause.queue (mbxTrap 9 b) s
    else
      let n := 16 * b.toNat + c.toNat
      let kids := boundKids s fun m => m == n
      let s := updCtx s fun x => { x with classes := Tab.del x.classes n }
      .ok none (settleKids (markUnbound s s.core (thr s).owner b.toNat) kids)

/-- Words written into consecutive registers of the current thread. -/
def putWords (s : State) (d : Nat) : List Word → State
  | [] => s
  | w :: ws => putWords (wgn s d w) (d + 1) ws

/-- RECV: waits for a head of a pull class, then removes it and writes g[rd] to g[rd+7] with the payload and g[rd+8]
with the header (R182). -/
def execRecv (d : BitVec 6) (b : BitVec 3) (s : State) : Out :=
  instr (.recv d b) {} [G d, .g (d.toNat + 8)] ((List.range 9).map fun k => .g (d.toNat + k)) s fun s =>
    let o := (thr s).owner
    if !(Tab.get {} (ctx s).mbxs b.toNat).defined then .trap Cause.queue (mbxTrap 8 b) s
    else if b = 0 ∧ !(thr s).sup then .trap Cause.queue (mbxTrap 9 b) s
    else match headMsg s s.core o b.toNat with
      | none => .wait .retry s
      | some m => match classAt s s.core o b.toNat (hdrClass m.header) with
        | none => .wait .retry s
        | some c =>
          if c.entry ≠ 0 then .wait .retry s
          else
            let s := markUnbound (popMsg s s.core o b.toNat) s.core o b.toNat
            .ok none (putWords s d.toNat ((List.range 8).map (payloadWord m c.words c.types) ++ [m.header]))

end Sys2Proof.Machine
end

