-- ==== Sys2Proof/Machine/Kernel.lean ====
section
/-! DEFINITION. The instructions of a kernel's life: DONE, SUSPEND, RESUMEC, KLAUNCH, KSTAT, DLGET, WRAPDONE, BUDGET,
RFORK, JOIN (R146 to R149, R195, R205 to R211). -/

namespace Sys2Proof.Machine

/-! ### Ending a thread (R146, R148) -/

/-- wait as DONE does, and take a pending late fault as DONE does (R146). -/
def drainThread (s : State) : Act Unit :=
  (waitUnits s).bind fun _ s => match dueLate (thr s) with
    | some e => .leave (takeLate s e)
    | none => .ok () s

/-- The end of the issuing thread as DONE makes it (R146). A gang's leader ends after its followers, and a follower left
with a trap ends with it (R280, R281). -/
def doneAct (s : State) : Act (Option Word) :=
  (drainThread s).bind fun _ s =>
    if (thr s).gang.isSome && !isFollower s then
      if followerWaits s then .wait .retry s else .leave (endThread (disband s s.core s.slot) s.core s.slot)
    else .leave (endThread s s.core s.slot)

/-- DONE (R146). -/
def execDone (s : State) : Out := instr .done { priv := (thr s).sup } [] [] s doneAct

/-- Compact DONE (R57, R146). -/
def execDoneCompact (s : State) : Out := instr .doneCompact { priv := (thr s).sup } [] [] s doneAct

/-- Word 0 of a continuation record (R147): ls, prio, wsz, the code address. -/
def contWord (t : Thread) (pc : Word) : Word :=
  place (field pc 63 1) 63 ||| place t.prio.toNat 54 ||| place t.wsz.toNat 52 ||| zx (pc.extractLsb' 0 52)

/-- g1 to g7 (R147). -/
def parked (t : Thread) : List Word := (List.range 7).map fun i => t.getG (i + 1)

/-- Words of a record from an offset on put into the store buffer as ordinary stores, in ascending order (R148). -/
def bufferWords (l : Loc) : Nat → List Word → State → State
  | _, [], s => s
  | off, w :: ws, s => bufferWords l (off + 8) ws (bufferStore s { l with key := l.key + off } (leBytes 8 w.toNat))

/-- Word 0 of the record by a release store, and the thread's end (R148). -/
def suspendEnd (l : Loc) (s : State) : Act (Option Word) :=
  (releaseStore s l (leBytes 8 (contWord (thr s) (pcPlus (thr s).pc 4)).toNat)).bind fun _ s =>
    .leave (endThread s s.core s.slot)

/-- SUSPEND: after the release, words 1 to 7 as ordinary stores, then word 0, and the thread ends (R148). Where the thread
only issues (assumption 1), the stores wait in the buffer for their own moves; else they are performed at once. -/
def execSuspend (a : BitVec 6) (s : State) : Out :=
  instr (.suspend a) { priv := (thr s).sup, ill := (thr s).gang.isSome } [G a] [] s fun s =>
    (address s (rg s a) 0 64 0 { w := true }).bind fun l s =>
      match (thr s).wait with
      | some (_, .parked) => (suspendEnd l.2 s).holding .parked
      | _ => (drainThread s).bind fun _ s => (release s).bind fun _ s =>
        let s := bufferWords l.2 8 (parked (thr s)) s
        let s := if s.splitIssue then s else drainBuffer s.core (coreAt s s.core).sb.length s
        (suspendEnd l.2 s).holding .parked

/-- The task budget of a kernel's launch record, 0 for a thread of no kernel (R145). -/
def kernelBudget (s : State) (o kid : Nat) : Nat := match kernelAt s o kid with | some k => k.budget | none => 0

/-- The wrap-up entry of a kernel. -/
def kernelWrap (s : State) (o kid : Nat) : Word := match kernelAt s o kid with | some k => k.wrapent | none => 0

/-- A slot, window and vector run for a new user-mode thread, unless the position drains (R61, R350). -/
def roomFor (s : State) (c : Nat) (wsz vsz : BitVec 2) : Option (Nat × Nat × Nat) :=
  if drains s c then none else findPlace s c wsz vsz

/-- The places of `n` doublewords from an address upwards, each located by the mode (R100). -/
def locateWords (mode : BitVec 3) (need : Need) : Nat → Nat → State → Act (List Loc)
  | 0, _, s => .ok [] s
  | n + 1, ea, s => (locate s mode ea need).bind fun l s =>
      (locateWords mode need n (ea + 8) s).bind fun ls s => .ok (l :: ls) s

/-- RESUMEC: the record is claimed at the home of its word 0; words 1 to 7 lie where the mode locates their addresses (R149). A
word 0 with bit 0 set, which R147 does not write, passes every check; the PC, a code address, takes it with bit 0 clear
(DESIGN CHOICE, assumption 66). -/
def execResumec (d a : BitVec 6) (m : BitVec 3) (s : State) : Out :=
  instr (.resumec d a m) { ill := (thr s).gang.isSome } [G d, G a] [] s fun s =>
    (address s (rg s a) 0 64 m { r := true, w := true }).bind fun l s =>
    (locateWords m { r := true } 7 (l.1 + 8) s).bind fun ls s =>
      let w := BitVec.ofNat 64 (homeNat s l.2.key 8)
      let wsz := w.extractLsb' 52 2
      if w = 0 then .ok none (wg s d 3)
      else if wsz = 3 ∨ (w.getLsbD 63 ∧ !zeroBits w 51 22) then .ok none (wg s d 2)
      else match roomFor s s.core wsz 0 with
        | none => .ok none (wg s d 1)
        | some (sl, gb, vb) =>
          let t := thr s
          let regs := ls.map fun l => BitVec.ofNat 64 (homeNat s l.key 8)
          let s := writeThrough s l.2.key (leBytes 8 0)
          let n := newThread s t.owner t.kid (ctx s).rank wsz 0 (w.extractLsb' 54 8) (kernelBudget s t.owner t.kid)
            (place (field w 63 1) 63 ||| zx (w.extractLsb' 1 51 ++ (0 : BitVec 1))) (regsFrom 1 (regs ++ [w])) true
          let n := if w.getLsbD 62 then { n with pc := kernelWrap s t.owner t.kid } else n
          .ok none (wg (startThread s s.core sl gb vb n) d 0)

/-! ### Launching and status (R195, R205 to R209) -/

/-- KLAUNCH: the task record in g[ra] to g[ra+7] (R195). -/
def execKlaunch (d a : BitVec 6) (s : State) : Out :=
  instr (.klaunch d a) { priv := !(thr s).sup } [G d, G a, .g (a.toNat + 7)]
    ((List.range 8).map fun k => .g (a.toNat + k)) s fun s =>
    let w (i : Nat) : Word := (thr s).getG (a.toNat + i)
    let o := (thr s).owner
    let kid := field (w 1) 0 32
    let wsz := (w 2).extractLsb' 0 2
    let vsz := (w 2).extractLsb' 2 2
    if !zeroBits (w 1) 63 53 ∨ !zeroBits (w 2) 63 19 ∨ wsz = 3 ∨ !codeAddress (w 0) then .ok none (wg s d 2)
    else if !(kstate s o kid == some .running || kstate s o kid == some .wrappingUp) then .ok none (wg s d 4)
    else match roomFor s s.core wsz vsz with
      | none => .ok none (wg s d 1)
      | some (sl, gb, vb) =>
        let g := regsFrom 1 [w 4, w 5, w 6, w 7, place (field (w 1) 32 10) 0, place (field (w 1) 42 11) 0, place kid 0]
        let rank := (ctx s).rank
        let s := updKernel s o kid fun k => { k with tasks := k.tasks.filter fun r => r != rank }
        let t := newThread s o kid rank wsz vsz ((w 2).extractLsb' 4 8) (w 3).toNat (w 0) g true
        .ok none (wg (startThread s s.core sl gb vb t) d 0)

/-- The state code of KSTAT (R209). -/
def KState.code : KState → Nat
  | .queued | .placing => 1 | .running => 2 | .wrappingUp => 3 | .closing => 4 | .closed => 5 | .rejected => 6 | .killed => 7

/-- KSTAT's word (R209). -/
def kernelStatus (s : State) (o kid : Nat) : Word :=
  match kernelAt s o kid with
  | none => 0
  | some k => place kid 32 ||| place k.cause 16 ||| place k.flag 8 ||| place k.st.code 0

/-- KSTAT (R209). -/
def execKstat (d a : BitVec 6) (s : State) : Out :=
  instr (.kstat d a) {} [G d, G a] [] s fun s =>
    let t := thr s
    .ok none (wg s d (kernelStatus s t.owner (if rg s a = 0 then t.kid else (rg s a).toNat)))

/-- ROTNEXT: TIME at a stack's next due point, from the clk that remain at 3.3 clk per ns, rounded down; past the due
point of a step that is not over, that point (R353). -/
def rotNext (s : State) (n : Nat) : Word :=
  let k := stackAt s n
  let due := match k.rot with | .idle => k.due | .deferred d => d | .lead d _ => d | .pausing d .. => d
  if k.rotEn then BitVec.ofInt 64 ((timeNow s : Int) + (((due : Int) - s.cycle) * 10) / 33) else BitVec.allOnes 64

/-- The stacks that hold a group of a kernel. -/
def kernelStacks (s : State) (o : Nat) (k : Kernel) : List Nat :=
  k.groups.map fun g => stackOf (rankCore (ownerAt s o) (16 * g))

/-- The expected remaining duration of a kernel (R207, R310). -/
def remaining (s : State) (k : Kernel) : Nat :=
  match k.rem with
  | some (a, at') => a - (timeNow s - at')
  | none => if k.st == .placing || k.st == .queued then k.expected else k.expected - (timeNow s - k.placed)

/-- A kernel's slack (R207). -/
def slack (s : State) (o : Nat) (k : Kernel) : Int :=
  if !k.hasDeadline then 2 ^ 63 - 1
  else
    let rem := remaining s k
    let late (n : Nat) : Bool := (stackAt s n).rotEn && ((rotNext s n).toNat : Int) < (k.dline : Int) - rem
    (k.dline : Int) - timeNow s - rem - if (kernelStacks s o k).any late then 8000 else 0

/-- The slack a thread reads: its kernel's, or that of no deadline. -/
def threadSlack (s : State) : Word :=
  match kernelAt s (thr s).owner (thr s).kid with
  | some k => BitVec.ofInt 64 (slack s (thr s).owner k)
  | none => BitVec.ofInt 64 (2 ^ 63 - 1)

/-- DLGET (R207). -/
def execDlget (d a : BitVec 6) (s : State) : Out :=
  instr (.dlget d a) {} [G d, G a] [] s fun s =>
    let w := rg s a
    let s := if w = 0 then s else updKernel s (thr s).owner (thr s).kid fun k => { k with rem := some (w.toNat, timeNow s) }
    .ok none (wg s d (threadSlack s))

/-- The front end's step of WRAPDONE: the flag, and Closing, which frees the kernel's other threads (R189, R205). -/
def closeKernel (s : State) (o kid uid v : Nat) : State :=
  match kernelAt s o kid with
  | none => s
  | some k =>
    if k.live then
      let s := writeFlag s o kid v 0 0
      freeOthers (updKernel s o kid fun k => { k with st := .closing }) o kid uid
    else s

/-- WRAPDONE (R205). -/
def execWrapdone (a : BitVec 6) (s : State) : Out :=
  instr (.wrapdone a) { priv := (thr s).sup, ill := (thr s).gang.isSome } [G a] [] s fun s =>
    (waitBuffer s).bind fun _ s => (waitPosted s).bind fun _ s => (release s).bind fun _ s =>
      let w := (rg s a).toNat
      let t := thr s
      doneAct (closeKernel s t.owner t.kid t.uid (if w = 1 ∨ w = 2 then w else 3))

/-- KBUDGET (R203). -/
def budgetWord (t : Thread) : Word := place (if t.budgetEn then 1 else 0) 63 ||| place t.budget 0

/-- A budget set by BUDGET: a user thread may impose or shorten its own, never lengthen it (R208). A count of 0 has
reached zero. -/
def setBudget (t : Thread) (a : Word) : Thread :=
  if a = 0 then t
  else
    let n := field a 0 48
    let n := if !t.sup && t.budgetEn then Nat.min t.budget n else n
    { t with budgetEn := true, budget := n, budgetDue := n == 0 }

/-- BUDGET (R208). -/
def execBudget (d a : BitVec 6) (s : State) : Out :=
  instr (.budget d a) {} [G d, G a] [] s fun s =>
    let w := rg s a
    .ok none (wg (updThr s fun t => setBudget t w) d (budgetWord (thr s)))

/-! ### Range-fork (R210, R211) -/

/-- The part of a range for one coordinate of a split: start and length (R198). -/
def sliceOf (e split c : Nat) : Nat × Nat :=
  let q := e / split
  let m := e % split
  (c * q + Nat.min c m, if c < m then q + 1 else q)

/-- The ranks a fork may recruit, in order: the forker's own, its tile, its group, its position (R210). -/
def forkOrder (rank : Nat) : List Nat :=
  let pos := (List.range 64).map fun i => 64 * (rank / 64) + i
  [rank] ++ pos.filter (fun r => r / 4 == rank / 4 && r != rank)
    ++ pos.filter (fun r => r / 16 == rank / 16 && r / 4 != rank / 4) ++ pos.filter (fun r => r / 16 != rank / 16)

/-- The lowest free join cell of a group's 256 (R210). -/
def freeCell (w : Owner) (group : Nat) : Option Nat :=
  ((List.range 256).map fun i => 256 * group + i).find? fun n => (Tab.find w.joins n).isNone

/-- Tasks of a fork started on its cores, from number `j` on. -/
def startTasks (s : State) (o kid : Nat) (ops : List Word) (n cell : Nat) : List Nat → Nat → State
  | [], _ => s
  | r :: rs, j =>
    let c := rankCore (ownerAt s o) r
    let w3 := ops.getD 3 0
    let wsz := w3.extractLsb' 10 2
    let vsz := w3.extractLsb' 12 2
    let s := match findPlace s c wsz vsz with
      | none => s
      | some (sl, gb, vb) =>
        let (b, len) := sliceOf (ops.getD 1 0).toNat n j
        let g := regsFrom 1 [BitVec.ofNat 64 b, BitVec.ofNat 64 (b + len), ops.getD 4 0, Config.joinHandle cell,
          BitVec.ofNat 64 j]
        startThread s c sl gb vb
          (newThread s o kid r wsz vsz (w3.extractLsb' 14 8) (kernelBudget s o kid) (ops.getD 0 0) g true)
    startTasks s o kid ops n cell rs (j + 1)

/-- RFORK's malformed operands (R210). -/
def badFork (ops : List Word) : Bool :=
  let w3 := ops.getD 3 0
  !codeAddress (ops.getD 0 0) || !zeroBits (ops.getD 1 0) 63 48 || ops.getD 2 0 == 0 || w3.extractLsb' 10 2 == 3
    || !zeroBits w3 63 22

/-- RFORK. A fork that finds no core recruitable continues as with status 1 (assumption 17). -/
def execRfork (a : BitVec 6) (s : State) : Out :=
  instr (.rfork a) { ill := (thr s).gang.isSome } [G a, .g (a.toNat + 4)]
    ((List.range 5).map fun k => .g (a.toNat + k)) s fun s =>
    let t := thr s
    let ops := (List.range 5).map fun k => t.getG (a.toNat + k)
    let count := (ops.getD 1 0).toNat
    let rank := (ctx s).rank
    if badFork ops then .trap Cause.access (place a.toNat 0) s
    else if wrapping s t.owner t.kid then .ok none (wgn s 8 2)
    else if count = 0 then .ok none (wgn s 8 3)
    else match freeCell (owner s) (rank / 16) with
      | none => .ok none (wgn s 8 1)
      | some cell =>
        (drainThread s).bind fun _ s => (release s).bind fun _ s =>
          let t := thr s
          let g := (ops.getD 2 0).toNat
          let limit := field (ops.getD 3 0) 0 10
          let parkedState := freeSlot s s.core s.slot
          let w3 := ops.getD 3 0
          let free := (forkOrder rank).filter fun r =>
            let c := rankCore (owner s) r
            (Tab.find (coreAt s c).ctxs t.owner).isSome
              && (roomFor parkedState c (w3.extractLsb' 10 2) (w3.extractLsb' 12 2)).isSome
          let most := Nat.min ((count + g - 1) / g) free.length
          let n := if limit = 0 then most else Nat.min most limit
          if n = 0 then .ok none (wgn s 8 1)
          else
            let j : JoinCell :=
              { core := s.core, kid := t.kid, pending := n, total := n, pc := pcPlus t.pc 4, regs := parked t, wsz := t.wsz,
                prio := t.prio, discarded := false, waits := false }
            let s := updOwnerAt parkedState t.owner fun w => { w with joins := Tab.set j w.joins cell }
            .leave (startTasks s t.owner t.kid ops n cell (free.take n) 0)

/-- The live or discarded join cell that a handle names (R211). -/
def cellNamed (w : Owner) (a : Word) : Option (Nat × JoinCell) := w.joins.find? fun j => Config.joinHandle j.1 == a

/-- The forker of a join cell as a thread: its window and g1 to g7, its kernel's budget, and g8 (R211). -/
def forker (s : State) (o c : Nat) (j : JoinCell) (g8 : Word) (mayWrap : Bool) : Thread :=
  newThread s o j.kid (rankOf s c o) j.wsz 0 j.prio (kernelBudget s o j.kid) j.pc (regsFrom 1 (j.regs ++ [g8])) mayWrap

/-- JOIN (R211). -/
def execJoin (a : BitVec 6) (s : State) : Out :=
  instr (.join a) { ill := (thr s).gang.isSome } [G a] [] s fun s =>
    match cellNamed (owner s) (rg s a) with
    | none => .trap Cause.access (rg s a) s
    | some (n, j) =>
      if j.discarded then doneAct s
      else (drainThread s).bind fun _ s => (release s).bind fun _ s =>
        let o := (thr s).owner
        let kid := (thr s).kid
        let c := s.core
        let sl := s.slot
        let s := freeSlot s c sl
        if j.pending ≤ 1 then
          let s := updOwnerAt s o fun w => { w with joins := Tab.del w.joins n }
          .leave (settleKernel (claimSlot (acquire s) c sl (forker s o c j (place j.total 0) false)) o kid)
        else
          .leave (settleKernel (updOwnerAt s o fun w =>
            { w with joins := Tab.set { j with pending := j.pending - 1 } w.joins n }) o kid)

end Sys2Proof.Machine
end

