-- ==== Sys2Proof/Machine/Ecf.lean ====
section
/-! DEFINITION. ECF8 blocks: decoding to E5M3 elements and the encoding that VECFE makes (R30 to R33, R275). -/

namespace Sys2Proof.Machine.Ecf

/-- The bits of a byte, bit 7 first. -/
def byteBits (b : BitVec 8) : List Bool := (List.range 8).map fun i => b.getLsbD (7 - i)

/-- A number from bits, the most significant first. -/
def ofBits : List Bool → Nat
  | [] => 0
  | b :: bs => (if b then 2 ^ bs.length else 0) + ofBits bs

/-- The bits of a number, `n` of them, the most significant first. -/
def toBits (n v : Nat) : List Bool := (List.range n).map fun i => v / 2 ^ (n - 1 - i) % 2 == 1

/-- A token of the exponent stream (R31). -/
inductive Token where
  | delta (d : Int)
  | zero
  | absolute (e : Nat)
deriving DecidableEq, Repr

/-- The next k bits, or none past the end (R32). -/
def takeBits (k : Nat) (s : List Bool) : Option (Nat × List Bool) :=
  if s.length < k then none else some (ofBits (s.take k), s.drop k)

/-- The next token, or none where it is reserved or runs past the end (R31, R32). -/
def token : List Bool → Option (Token × List Bool)
  | false :: s => some (.delta 0, s)
  | true :: false :: b :: s => some (.delta (if b then -1 else 1), s)
  | true :: true :: false :: b :: s => some (.delta (if b then -2 else 2), s)
  | true :: true :: true :: false :: b :: s => some (.delta (if b then -3 else 3), s)
  | true :: true :: true :: true :: false :: false :: s => some (.zero, s)
  | true :: true :: true :: true :: false :: true :: s =>
    (takeBits 5 s).map fun r => (.absolute r.1, r.2)
  | _ => none

/-- The offset of a code table (R31). -/
def offset (t : Nat) : Int := match t with | 0 => 0 | 1 => -1 | 2 => -2 | _ => 1

/-- An E5M3 pattern from its sign, exponent and fraction. -/
def pattern (neg : Bool) (e m : Nat) : Nat := (if neg then 256 else 0) + 8 * e + m

/-- One element in token mode: its pattern, the running exponent, the rest of the stream (R32). -/
def element (off : Int) (nib : Nat) (e : Int) (s : List Bool) : Option (Nat × Int × List Bool) :=
  let neg := nib / 8 == 1
  match token s with
  | none => none
  | some (.zero, s) => some (pattern neg 0 0, e, s)
  | some (t, s) =>
    let e := match t with | .delta d => e + d + off | .absolute x => (x : Int) | .zero => e
    if e < 0 ∨ 30 < e then none else some (pattern neg e.toNat (nib % 8), e, s)

/-- The elements in token mode; the stream must end with the last one. -/
def tokens (off : Int) : List Nat → Int → List Bool → Option (List Nat)
  | [], _, s => if s = [] then some [] else none
  | nib :: nibs, e, s => match element off nib e s with
    | none => none
    | some (x, e, s) => (tokens off nibs e s).map fun xs => x :: xs

/-- The elements in raw mode. -/
def raws : List Nat → List Bool → Option (List Nat)
  | [], s => if s = [] then some [] else none
  | nib :: nibs, s => match takeBits 5 s with
    | none => none
    | some (e, s) => if 30 < e then none else (raws nibs s).map fun xs => pattern (nib / 8 == 1) e (nib % 8) :: xs

/-- The nibbles of the sign and mantissa plane. -/
def nibbles : List (BitVec 8) → List Nat
  | [] => []
  | b :: bs => b.toNat % 16 :: b.toNat / 16 :: nibbles bs

/-- A byte of a block. -/
def at' (bytes : List (BitVec 8)) (i : Nat) : Nat := (bytes.getD i 0).toNat

/-- L, the length of the exponent stream in bits. -/
def streamBits (bytes : List (BitVec 8)) : Nat := at' bytes 2 + 256 * at' bytes 3

/-- The bytes a block takes, padding included, as its header implies (R33). -/
def blockBytes (n : Nat) (bytes : List (BitVec 8)) : Nat :=
  if at' bytes 1 / 128 = 1 then 8 else (4 + n / 2 + (streamBits bytes + 7) / 8 + 7) / 8 * 8

/-- The header faults that R32 raises before it reads the stream, so that a unit reads no bytes by a header that says
too many. -/
def badHeader (n : Nat) (bytes : List (BitVec 8)) : Bool :=
  let h := at' bytes 1
  h / 128 == 0 && (at' bytes 0 / 32 != 0 || h / 4 % 16 != 0 || 5 * n < streamBits bytes
    || (h / 64 % 2 == 0 && at' bytes 0 % 32 == 31))

/-- A block of n elements decoded to E5M3 patterns; none is a decode fault (R32). -/
def decode (n : Nat) (bytes : List (BitVec 8)) : Option (List Nat) :=
  let h := at' bytes 1
  if h / 128 = 1 then some (List.replicate n 0)
  else if badHeader n bytes then none
  else
    let nibs := nibbles ((bytes.drop 4).take (n / 2))
    let stream := (((bytes.drop (4 + n / 2)).map byteBits).flatten).take (streamBits bytes)
    if h / 64 % 2 = 1 then raws nibs stream
    else tokens (offset (h % 4)) nibs (at' bytes 0 % 32 : Nat) stream

/-! ### Encoding (R275) -/

/-- A pattern's exponent field, and whether it is a zero. -/
def expOf (x : Nat) : Nat := x / 8 % 32
def isZero (x : Nat) : Bool := x % 256 == 0

/-- The bits of a delta, zero or absolute token (R31). -/
def tokenBits : Token → List Bool
  | .delta 0 => [false]
  | .delta 1 => [true, false, false]
  | .delta (-1) => [true, false, true]
  | .delta 2 => [true, true, false, false]
  | .delta (-2) => [true, true, false, true]
  | .delta 3 => [true, true, true, false, false]
  | .delta _ => [true, true, true, false, true]
  | .zero => [true, true, true, true, false, false]
  | .absolute e => [true, true, true, true, false, true] ++ toBits 5 e

/-- The stream of a block under a code table, from the running exponent. -/
def streamOf (off : Int) : List Nat → Nat → List Bool
  | [], _ => []
  | x :: xs, e =>
    if isZero x then tokenBits .zero ++ streamOf off xs e
    else
      let d := (expOf x : Int) - e - off
      (if -3 ≤ d ∧ d ≤ 3 then tokenBits (.delta d) else tokenBits (.absolute (expOf x))) ++ streamOf off xs (expOf x)

/-- Bits packed into bytes, bit 7 first, the last byte padded with zeros. -/
def packBits : Nat → List Bool → List (BitVec 8)
  | 0, _ => []
  | _, [] => []
  | n + 1, s => BitVec.ofNat 8 (ofBits ((s ++ List.replicate 8 false).take 8)) :: packBits n (s.drop 8)

/-- Nibbles packed into bytes, the even one low. -/
def packNibbles : List Nat → List (BitVec 8)
  | a :: b :: ns => BitVec.ofNat 8 (a + 16 * b) :: packNibbles ns
  | _ => []

/-- The code table of the shortest stream, the lowest-numbered on a tie, with that stream. -/
def bestTable (xs : List Nat) (e0 : Nat) : Nat × List Bool :=
  [1, 2, 3].foldl (fun best t =>
    let s := streamOf (offset t) xs e0
    if s.length < best.2.length then (t, s) else best) (0, streamOf 0 xs e0)

/-- Zero bytes up to the next multiple of 8. -/
def pad8 (bytes : List (BitVec 8)) : List (BitVec 8) := bytes ++ List.replicate ((8 - bytes.length % 8) % 8) 0

/-- The block that VECFE stores for E5M3 patterns. -/
def encode (xs : List Nat) : List (BitVec 8) :=
  if xs.all (fun x => x == 0) then [0, 0x80, 0, 0, 0, 0, 0, 0]
  else
    let e0 := ((xs.find? fun x => !isZero x).map expOf).getD 0
    let (t, s) := bestTable xs e0
    let raw := 5 * xs.length < s.length
    let s := if raw then (xs.map fun x => toBits 5 (expOf x)).flatten else s
    let plane := xs.map fun x => 8 * (x / 256) + x % 8
    pad8 ([BitVec.ofNat 8 e0, BitVec.ofNat 8 (t + if raw then 64 else 0), BitVec.ofNat 8 s.length,
      BitVec.ofNat 8 (s.length / 256)] ++ packNibbles plane ++ packBits s.length s)

end Sys2Proof.Machine.Ecf
end

