-- ==== Sys2Proof/Machine/Special.lean ====
section
/-! DEFINITION. The special functions VRCP, VRSQ, VEXP2, VLOG2 and VTANH on one lane, rounded to nearest even once
(R272). The transcendental ones are evaluated on integers scaled by 2^448. -/

namespace Sys2Proof.Machine.Fp

/-- The scale of the fixed-point evaluation: 2^448. -/
def scale : Nat := 2 ^ 448

/-- ln 2 at that scale, rounded down. -/
def ln2 : Nat :=
  0xb17217f7d1cf79abc9e3b39803f2f6af40f343267298b62d8a0d175b8baafa2be7b876206debac98559552fb4afa1b10ed2eae35c1382144

/-- The terms t, t·x/2, t·x²/6 … of the exponential series summed, `k` being the number of the next term. -/
def expTerms (x : Nat) : Nat → Nat → Nat → Nat
  | 0, _, _ => 0
  | n + 1, k, t => t + expTerms x n (k + 1) (t * x / (scale * k))

/-- e^x for 0 ≤ x < 1, at the scale. -/
def expFix (x : Nat) : Nat := expTerms x 100 1 scale

/-- z + z³/3 + z⁵/5 …, `k` the next odd number and `t` the next power. -/
def atanhTerms (z2 : Nat) : Nat → Nat → Nat → Nat
  | 0, _, _ => 0
  | n + 1, k, t => t / k + atanhTerms z2 n (k + 2) (t * z2 / scale)

/-- ln m for a magnitude m/d with 1 ≤ m/d < 2, at the scale: 2 atanh((m − d)/(m + d)). -/
def lnFix (m d : Nat) : Nat :=
  let z := (m - d) * scale / (m + d)
  2 * atanhTerms (z * z / scale) 150 1 z

/-- The two parts of a positive finite value: ⌊v⌋ and the fraction at the scale, for v below 2^13; the value's unit is
at least 2^(−149). -/
def splitFix (m : Nat) (e : Int) : Nat × Nat :=
  let x := if 0 ≤ e then m * 2 ^ e.toNat * scale else m * scale / 2 ^ (-e).toNat
  (x / scale, x % scale)

/-- The bit length of a magnitude's integer part: the least k with m × 2^e < 2^k. -/
def magnitude (m : Nat) (e : Int) : Int := e + Nat.log2 m + 1

/-- VRCP (R272). -/
def rcp (f : Fmt) (a : Nat) : Nat × BitVec 5 :=
  match decode f a with
  | .nan s => (f.cnan, if s then NV else 0)
  | .inf n => (f.signed n 0, 0)
  | .num n m e =>
    if m = 0 then (f.infBits n, DZ)
    else let (q, sticky, e') := quotient (f.fb + 3) 1 0 m e; round f 0 false n q sticky e'

/-- VRSQ (R272). -/
def rsq (f : Fmt) (a : Nat) : Nat × BitVec 5 :=
  match decode f a with
  | .nan s => (f.cnan, if s then NV else 0)
  | .inf n => if n then (f.cnan, NV) else (f.signed false 0, 0)
  | .num n m e =>
    if m = 0 then (f.infBits n, DZ)
    else if n then (f.cnan, NV)
    else
      let odd := e % 2 ≠ 0
      let m := if odd then 2 * m else m
      let e := if odd then e - 1 else e
      let k := f.fb + 4 + Nat.log2 m
      let r := isqrt (2 ^ (2 * k) / m)
      round f 0 false false r (r * r * m != 2 ^ (2 * k)) (-(e / 2) - k)

/-- VEXP2 (R272). -/
def exp2 (f : Fmt) (a : Nat) : Nat × BitVec 5 :=
  match decode f a with
  | .nan s => (f.cnan, if s then NV else 0)
  | .inf n => if n then (f.signed false 0, 0) else (f.infBits false, 0)
  | .num n m e =>
    if m = 0 then round f 0 false false 1 false 0
    else if 12 < magnitude m e then round f 0 false false 1 true (if n then -5000 else 5000)
    else
      let (i, x) := splitFix m e
      if x = 0 then round f 0 false false 1 false (if n then -(i : Int) else i)
      else
        let (k, y) : Int × Nat := if n then (-(i : Int) - 1, scale - x) else (i, x)
        round f 0 false false (expFix (y * ln2 / scale)) true (k - 448)

/-- VLOG2 (R272). -/
def log2 (f : Fmt) (a : Nat) : Nat × BitVec 5 :=
  match decode f a with
  | .nan s => (f.cnan, if s then NV else 0)
  | .inf n => if n then (f.cnan, NV) else (f.infBits false, 0)
  | .num n m e =>
    if m = 0 then (f.infBits true, DZ)
    else if n then (f.cnan, NV)
    else
      let b := Nat.log2 m
      let k : Int := e + b
      if m = 2 ^ b then round f 0 false (decide (k < 0)) k.natAbs false 0
      else
        let v : Int := k * scale + (lnFix m (2 ^ b) * scale / ln2 : Nat)
        if v < 0 then round f 0 false true (v.natAbs - 1) true (-448) else round f 0 false false v.toNat true (-448)

/-- VTANH (R272): below 2^(−30) the result is x less its last place and more; from 64 on it is 1 less the same. -/
def tanh (f : Fmt) (a : Nat) : Nat × BitVec 5 :=
  match decode f a with
  | .nan s => (f.cnan, if s then NV else 0)
  | .inf n => round f 0 false n 1 false 0
  | .num n m e =>
    if m = 0 then (f.signed n 0, 0)
    else if magnitude m e < -30 then round f 0 false n (m * 2 ^ 20 - 1) true (e - 20)
    else if 6 < magnitude m e then round f 0 false n (2 ^ 64 - 1) true (-64)
    else
      let (i, x) := splitFix m e
      let t := 2 * (i * scale + x)
      let k := t / ln2
      let y := 2 ^ k * expFix (t - k * ln2)
      round f 0 false n ((y - scale) * 2 ^ 128 / (y + scale)) true (-128)

end Sys2Proof.Machine.Fp
end

