-- ==== Sys2Proof/Machine/Vector.lean ====
section
/-! DEFINITION. Vector instructions: dispatch, late faults, and what the vector unit does for each (R157, R265 to
R278). -/

namespace Sys2Proof.Machine

/-! ### Lanes (R265) -/

/-- Lane i of w bits. -/
def lane (w : Nat) (v : Vec) (i : Nat) : Nat := (v.extractLsb' (w * i) w).toNat

/-- The first n lanes. -/
def lanesOf (w : Nat) (v : Vec) (n : Nat) : List Nat := (List.range n).map (lane w v)

/-- Every lane of a vector. -/
def lanes (w : Nat) (v : Vec) : List Nat := lanesOf w v (512 / w)

/-- Lanes packed into a number, lane 0 lowest. -/
def packLanes (w : Nat) : List Nat → Nat
  | [] => 0
  | x :: xs => x % 2 ^ w + 2 ^ w * packLanes w xs

/-- A vector from its lanes, zero above them. -/
def ofLanes (w : Nat) (xs : List Nat) : Vec := BitVec.ofNat 512 (packLanes w xs)

/-- A lane as a signed number. -/
def sLane (w x : Nat) : Int := if x < 2 ^ (w - 1) then x else (x : Int) - 2 ^ w

/-- A number as a lane, wrapping. -/
def toLane (w : Nat) (x : Int) : Nat := (x % 2 ^ w).toNat

/-- The width of an element size code (R270). -/
def laneBits (z : BitVec 2) : Nat := 8 * 2 ^ z.toNat

/-- The floating format of a type code (R271). -/
def laneFmt (t : BitVec 2) : Fp.Fmt := match t.toNat with | 0 => Fp.fp32 | 1 => Fp.bf16 | _ => Fp.fp16

/-! ### Integer lanes (R270) -/

/-- A lane-by-lane integer operation. -/
def intLanes (d a b : BitVec 6) (z : BitVec 2) (f : Nat → Nat → Nat → Nat) (s : State) : Act (BitVec 5) :=
  let w := laneBits z
  .ok 0 (wv s d (ofLanes w (List.zipWith (f w) (lanes w (rv s a)) (lanes w (rv s b)))))

/-- A signed result clamped to w bits. -/
def clamp (w : Nat) (x : Int) : Int :=
  if x < -(2 ^ (w - 1) : Int) then -(2 ^ (w - 1) : Int) else if 2 ^ (w - 1) - 1 < x then 2 ^ (w - 1) - 1 else x

/-- One lane of VDOT4. -/
def dot4 (acc x y : Nat) : Nat :=
  toLane 32 ((List.range 4).foldl (fun t j => t + sLane 8 (x / 2 ^ (8 * j) % 256) * sLane 8 (y / 2 ^ (8 * j) % 256)) acc)

/-! ### Floating lanes (R271, R272) -/

/-- Lanes computed with their exceptions: the values and the union of the flags. -/
def withFlags (xs : List (Nat × BitVec 5)) : List Nat × BitVec 5 :=
  (xs.map Prod.fst, xs.foldl (fun f x => f ||| x.2) 0)

/-- A lane-by-lane floating operation of two vectors. -/
def fpLanes (d a b : BitVec 6) (t : BitVec 2) (f : Fp.Fmt → Nat → Nat → Nat × BitVec 5) (s : State) : Act (BitVec 5) :=
  let m := laneFmt t
  let r := withFlags (List.zipWith (f m) (lanes m.width (rv s a)) (lanes m.width (rv s b)))
  .ok r.2 (wv s d (ofLanes m.width r.1))

/-- A lane-by-lane floating operation of one vector. -/
def fpLanes1 (d a : BitVec 6) (t : BitVec 2) (f : Fp.Fmt → Nat → Nat × BitVec 5) (s : State) : Act (BitVec 5) :=
  let m := laneFmt t
  let r := withFlags ((lanes m.width (rv s a)).map (f m))
  .ok r.2 (wv s d (ofLanes m.width r.1))

/-- VFMA's lanes. -/
def fmaLanes (m : Fp.Fmt) (mode : Nat) (d a b c : BitVec 6) (s : State) : Act (BitVec 5) :=
  let ab := List.zip (lanes m.width (rv s a)) (lanes m.width (rv s b))
  let r := withFlags (List.zipWith (fun x z => Fp.fma m mode x.1 x.2 z) ab (lanes m.width (rv s c)))
  .ok r.2 (wv s d (ofLanes m.width r.1))

/-! ### Conversion (R273, R274) -/

/-- The formats of a VCVT pair: source bits, destination bits. -/
inductive LaneType where
  | fp (f : Fp.Fmt)
  | int (w : Nat)
deriving DecidableEq, Repr

/-- Bits of a lane type. -/
def LaneType.bits : LaneType → Nat | .fp f => f.width | .int w => w

/-- Source and destination of a VCVT pair (R273). -/
def cvtPair (p : Nat) : LaneType × LaneType :=
  match p with
  | 0 => (.fp Fp.fp32, .fp Fp.bf16)
  | 1 => (.fp Fp.fp32, .fp Fp.fp16)
  | 2 => (.fp Fp.bf16, .fp Fp.fp32)
  | 3 => (.fp Fp.fp16, .fp Fp.fp32)
  | 4 => (.fp Fp.fp32, .fp Fp.e4m3)
  | 5 => (.fp Fp.fp32, .fp Fp.e5m2)
  | 6 => (.fp Fp.bf16, .fp Fp.e4m3)
  | 7 => (.fp Fp.bf16, .fp Fp.e5m2)
  | 8 => (.fp Fp.e4m3, .fp Fp.bf16)
  | 9 => (.fp Fp.e5m2, .fp Fp.bf16)
  | 10 => (.fp Fp.e4m3, .fp Fp.fp32)
  | 11 => (.fp Fp.e5m2, .fp Fp.fp32)
  | 12 => (.fp Fp.fp32, .int 32)
  | 13 => (.int 32, .fp Fp.fp32)
  | 14 => (.fp Fp.fp32, .int 8)
  | _ => (.int 8, .fp Fp.fp32)

/-- The exact value of a source lane. -/
def laneValue : LaneType → Nat → Fp.Val
  | .fp f, x => Fp.decode f x
  | .int w, x => Fp.ofInt (sLane w x)

/-- A value delivered into a lane, with its flags and the generator's state after it (R37, R40, R89). -/
def deliverLane (t : LaneType) (mode : Nat) (sat : Bool) (seed : BitVec 32) (v : Fp.Val) :
    (Nat × BitVec 5) × BitVec 32 :=
  match t with
  | .int w => let r := Fp.toInt w mode v; ((toLane w r.1, r.2), seed)
  | .fp f =>
    if mode = 5 then let seed := Fp.xorshift seed; (Fp.toFloatSR f sat seed v, seed)
    else (Fp.toFloat f mode sat v, seed)

/-- Values delivered in ascending lane order. -/
def deliverLanes (t : LaneType) (mode : Nat) (sat : Bool) : BitVec 32 → List Fp.Val → List (Nat × BitVec 5) × BitVec 32
  | seed, [] => ([], seed)
  | seed, v :: vs =>
    let r := deliverLane t mode sat seed v
    let rest := deliverLanes t mode sat r.2 vs
    (r.1 :: rest.1, rest.2)

/-- The mode of a rounding-code field when FRM holds `frm` (R36). -/
def modeOf (r frm : BitVec 3) : Nat := if r = 6 then frm.toNat else r.toNat

/-- Values delivered into the lanes of a vector, SRSEED moving under SR. -/
def deliverVec (d : BitVec 6) (t : LaneType) (mode : Nat) (sat : Bool) (vs : List Fp.Val) (s : State) : Act (BitVec 5) :=
  let r := deliverLanes t mode sat (thr s).srseed vs
  let x := withFlags r.1
  .ok x.2 (wv (updThr s fun t => { t with srseed := r.2 }) d (ofLanes t.bits x.1))

/-- VCVT. -/
def cvtBody (d a : BitVec 6) (mode : Nat) (sat : Bool) (p : BitVec 4) (s : State) : Act (BitVec 5) :=
  let (src, dst) := cvtPair p.toNat
  let n := 512 / Nat.max src.bits dst.bits
  deliverVec d dst mode sat ((lanesOf src.bits (rv s a) n).map (laneValue src)) s

/-- A value times a power of two, or a NaN where the scale byte is 0xFF (R34). -/
def scaled (byte : Nat) (k : Int) (v : Fp.Val) : Fp.Val :=
  if byte = 255 then .nan false
  else match v with
    | .num n m e => .num n m (e + k)
    | v => v

/-- VQNT: bytes 16 to 63 of the result are zero. -/
def qntBody (d a : BitVec 6) (byte : Nat) (k : BitVec 1) (mode : Nat) (s : State) : Act (BitVec 5) :=
  let vs := (lanes 32 (rv s a)).map fun x => scaled byte (127 - byte) (Fp.decode Fp.fp32 x)
  deliverVec d (if k = 0 then .int 8 else .fp Fp.e4m3) mode true vs s

/-- VDQNT: exact but for a value beyond the FP32 range. -/
def dqntBody (d a : BitVec 6) (byte : Nat) (k : BitVec 1) (s : State) : Act (BitVec 5) :=
  let src : LaneType := if k = 0 then .int 8 else .fp Fp.e4m3
  let vs := (lanesOf 8 (rv s a) 16).map fun x => scaled byte ((byte : Int) - 127) (laneValue src x)
  deliverVec d (.fp Fp.fp32) 0 false vs s

/-! ### Memory (R267 to R269, R275) -/

/-- A VECFAULT value (R266). -/
def vecValue (index : Nat) (cause : BitVec 8) (addr : Nat) : Word :=
  place index 58 ||| place cause.toNat 52 ||| place (addr % 2 ^ 52) 0

/-- The address of an element, as a number. -/
def elemAddr (a : Word) (delta : Int) : Nat := (((ptrAddr a : Int) + delta) % 2 ^ 52).toNat

/-- A trap of an element's access as the vector fault that reports it. -/
def asVecFault {α : Type} (index addr : Nat) : Act α → Act α
  | .trap c _ s => .trap Cause.vecfault (vecValue index c addr) s
  | x => x

/-- The mode of major 0x23's mode field (R268). -/
def vecMode (m : BitVec 2) : BitVec 3 := match m.toNat with | 0 => 0 | 1 => 2 | 2 => 6 | _ => 7

/-- A base tag that elements of w bytes accept: bytes, or a non-block numeric format of that width (R268). -/
def elemTag (a : Word) (n : Nat) : Bool := ptrFmt a == 0 || (!fmtBlock (ptrFmt a) && fmtBits (ptrFmt a) == 8 * n)

/-- An element located: TAG for a base tag it does not accept, then the checks of R97 and R98. -/
def locElem (s : State) (a : Word) (i : Nat) (delta : Int) (n : Nat) (m : BitVec 3) (need : Need) : Act Loc :=
  let at' := elemAddr a delta
  if wellFormed a && !elemTag a n then .trap Cause.vecfault (vecValue i Cause.tag at') s
  else (asVecFault i at' (address s a delta n m need)).bind fun l s => .ok l.2 s

/-- Elements located in ascending order: index, place. -/
def locElems (s : State) (a : Word) (n : Nat) (m : BitVec 3) (need : Need) : List (Nat × Int) → Act (List (Nat × Loc))
  | [] => .ok [] s
  | (i, d) :: es =>
    (locElem s a i d n m need).bind fun l s => (locElems s a n m need es).bind fun ls s => .ok ((i, l) :: ls) s

/-- Doublewords of LDV and STV located separately (R267). -/
def locWords (s : State) (m : BitVec 3) (need : Need) (ea : Nat) : List Nat → Act (List (Nat × Loc))
  | [] => .ok [] s
  | j :: js =>
    (asVecFault 0 (ea + 8 * j) (locate s m (ea + 8 * j) need)).bind fun l s =>
      (locWords s m need ea js).bind fun ls s => .ok ((j, l) :: ls) s

/-- Elements loaded in ascending order: index, value. -/
def loadElems (s : State) (glbo : Bool) (n : Nat) : List (Nat × Loc) → Act (List (Nat × Nat))
  | [] => .ok [] s
  | (i, l) :: ls =>
    (loadBytes s glbo l.key n).bind fun b s => (loadElems s glbo n ls).bind fun xs s => .ok ((i, ofLeBytes b) :: xs) s

/-- Lanes of a vector replaced. -/
def putLanes (w : Nat) (v : Vec) (xs : List (Nat × Nat)) : Vec :=
  ofLanes w ((List.range (512 / w)).map fun i => match Tab.find xs i with | some x => x | none => lane w v i)

/-- Loaded elements put into the lanes of a vector, a GLBO load acquiring after its last element (R268). -/
def finishLoad (d : BitVec 6) (n : Nat) (m : BitVec 3) (xs : List (Nat × Nat)) (s : State) : Act (BitVec 5) :=
  let s := if m = 7 then acquire s else s
  .ok 0 (wv s d (putLanes (8 * n) (rv s d) xs))

/-- Doublewords of LDV and STV, after R97 with size 64 (R267). -/
def locVector (s : State) (a : Word) (o : BitVec 8) (m : BitVec 3) (need : Need) (js : List Nat) : Act (List (Nat × Loc)) :=
  let delta := o.toInt * 64
  (asVecFault 0 (elemAddr a delta) (effAddr s a delta 64)).bind fun ea s => locWords s m need ea js

/-- The active lanes of a masked access and their displacements (R268). -/
def activeLanes (s : State) (n : Nat) (delta : Nat → Int) : List (Nat × Int) :=
  ((List.range (64 / n)).filter fun i => !((thr s).getM 0).getLsbD i).map fun i => (i, delta i)

/-- A masked vector load, some of whose elements are loaded already. -/
def vecLoad (d : BitVec 6) (a : Word) (n : Nat) (m : BitVec 3) (delta : Nat → Int) (seen : List Nat) (s : State) : Act (BitVec 5) :=
  let es := activeLanes s n delta
  (locElems s a n m { r := true } (es.drop seen.length)).bind fun ls s =>
    (loadElems s (m == 7) n ls).bind fun xs s => finishLoad d n m ((es.map Prod.fst).zip seen ++ xs) s

/-- The displacement of a gather's or scatter's lane. -/
def indexDelta (s : State) (b : BitVec 6) (n : Nat) (i : Nat) : Int := sLane (8 * n) (lane (8 * n) (rv s b) i) * n

/-! ### ECF8 blocks (R275) -/

/-- Elements of a block of VECFD and VECFE, and the format of their lanes. -/
def ecfLanes (k : BitVec 1) : Nat × Fp.Fmt := if k = 0 then (16, Fp.fp32) else (32, Fp.bf16)

/-- The block's address: an ECF8 pointer with the block length of k, aligned to 8. -/
def ecfAddr (s : State) (a : Word) (k : BitVec 1) : Act Nat :=
  let ea := ptrAddr a
  if !wellFormed a || ptrFmt a != 0x14 || ptrBlen a != (if k = 0 then 4 else 5) then
    .trap Cause.vecfault (vecValue 0 Cause.tag ea) s
  else if ea % 8 ≠ 0 then .trap Cause.vecfault (vecValue 0 Cause.misalign ea) s
  else .ok ea s

/-- `n` doublewords of a block located, from the j-th on; a failing check reports the block. -/
def locBlock (s : State) (m : BitVec 3) (need : Need) (ea j : Nat) : Nat → Act (List (Nat × Loc))
  | 0 => .ok [] s
  | n + 1 =>
    (asVecFault 0 ea (locate s m (ea + 8 * j) need)).bind fun l s =>
      (locBlock s m need ea (j + 1) n).bind fun ls s => .ok ((j, l) :: ls) s

/-- Bytes of doublewords of a block. -/
def blockBytes (s : State) (m : BitVec 3) (ea j n : Nat) : Act (List Byte) :=
  (locBlock s m { r := true } ea j n).bind fun ls s => (loadElems s (m == 7) 8 ls).bind fun xs s =>
    .ok (xs.map fun x => leBytes 8 x.2).flatten s

/-- The decode fault of VECFD. -/
def ecfFault (ea : Nat) (s : State) : Act (BitVec 5) := .trap Cause.vecfault (vecValue 0 0x3F ea) s

/-- VECFD: the header, then the block up to the length that the header implies; `seen` holds the doublewords loaded already. -/
def ecfdBody (d : BitVec 6) (a : Word) (k : BitVec 1) (m : BitVec 3) (seen : List Nat) (s : State) : Act (BitVec 5) :=
  let (n, f) := ecfLanes k
  let old := (seen.map (leBytes 8)).flatten
  (ecfAddr s a k).bind fun ea s => (if seen = [] then blockBytes s m ea 0 1 else .ok old s).bind fun h s =>
    if Ecf.badHeader n h then ecfFault ea s
    else (blockBytes s m ea (h.length / 8) (Ecf.blockBytes n h / 8 - h.length / 8)).bind fun rest s =>
      match Ecf.decode n (h ++ rest) with
      | none => ecfFault ea s
      | some xs =>
        let s := if m = 7 then acquire s else s
        .ok 0 (wv s d (ofLanes f.width (xs.map fun x => (Fp.toFloat f 0 false (Fp.decode Fp.e5m3 x)).1)))

/-- A lane rounded to E5M3 for VECFE: NaN as +0, an infinity or a value beyond 61,440 as the largest of its sign. -/
def ecfLane (v : Fp.Val) : Nat × BitVec 5 :=
  match v with
  | .nan _ => (0, Fp.NV)
  | .inf n => (Fp.e5m3.signed n Fp.e5m3.maxBits, Fp.OF)
  | .num n m e =>
    if (if 0 ≤ e then 61440 < m * 2 ^ e.toNat else 61440 * 2 ^ (-e).toNat < m) then
      (Fp.e5m3.signed n Fp.e5m3.maxBits, Fp.OF ||| Fp.NX)
    else Fp.round Fp.e5m3 0 false n m false e

/-- A doubleword of a list of bytes. -/
def wordAt (bytes : List Byte) (j : Nat) : List Byte := (bytes.drop (8 * j)).take 8

/-- The block that VECFE stores, and the exceptions it raises. -/
def ecfBlock (d : BitVec 6) (k : BitVec 1) (s : State) : List Byte × BitVec 5 :=
  let (n, f) := ecfLanes k
  let r := withFlags ((lanesOf f.width (rv s d) n).map fun x => ecfLane (Fp.decode f x))
  (Ecf.encode r.1, r.2)

/-! ### Stores, and single accesses (R267 to R269, R275) -/

/-- A vector store: its mode, and the places of all its elements, checked. -/
def storePlan (e : VDisp) (s : State) : Option (BitVec 3 × Act (List (Nat × Loc))) :=
  let elems (z m : BitVec 2) (delta : Nat → Int) : Option (BitVec 3 × Act (List (Nat × Loc))) :=
    let n := sizeBytes z
    some (vecMode m, locElems s e.a n (vecMode m) { w := true } (activeLanes s n delta))
  match e.instr with
  | .stv _ _ m o => some (m, locVector s e.a o m { w := true } (List.range 8))
  | .vsts _ _ _ z m => elems z m fun i => i * e.b.toInt
  | .vscat _ _ b z m => elems z m (indexDelta s b (sizeBytes z))
  | .vecfe d _ k m => some (m, (ecfAddr s e.a k).bind fun ea s => locBlock s m { w := true } ea 0 ((ecfBlock d k s).1.length / 8))
  | _ => none

/-- The bytes of an element of a vector store. -/
def storedBytes (e : VDisp) (s : State) (i : Nat) : List Byte :=
  let elem (d : BitVec 6) (n : Nat) : List Byte := leBytes n (lane (8 * n) (rv s d) i)
  match e.instr with
  | .stv d .. => elem d 8
  | .vsts d _ _ z _ => elem d (sizeBytes z)
  | .vscat d _ _ z _ => elem d (sizeBytes z)
  | .vecfe d _ k _ => wordAt (ecfBlock d k s).1 i
  | _ => []

/-- The elements of a vector store that have still to enter the store buffer: all of them are checked before the first, and a GLBO
store releases there (R268, R269). -/
def storesLeft (e : VDisp) (s : State) : Act (List (Nat × Loc)) :=
  match e.todo, storePlan e s with
  | some ls, _ => .ok ls s
  | none, some (m, plan) => plan.bind fun ls s => (if m = 7 then release s else .ok () s).bind fun _ s => .ok ls s
  | none, none => .ok [] s

/-- A vector store's elements put into the store buffer in ascending order, like ordinary stores (R269). -/
def storeBody (e : VDisp) (s : State) : Act (BitVec 5) :=
  (storesLeft e s).bind fun ls s =>
    .ok (match e.instr with | .vecfe d _ k _ => (ecfBlock d k s).2 | _ => 0)
      (ls.foldl (fun s l => bufferStore s l.2 (storedBytes e s l.1)) s)

/-- The next access of a vector load: its bytes, whether it loads GLBO, and its place, if one is left. -/
def nextLoad (e : VDisp) (s : State) : Nat × Bool × Act (List (Nat × Loc)) :=
  let k := e.seen.length
  let elem (z m : BitVec 2) (delta : Nat → Int) : Nat × Bool × Act (List (Nat × Loc)) :=
    let n := sizeBytes z
    (n, vecMode m == 7, locElems s e.a n (vecMode m) { r := true } (((activeLanes s n delta).drop k).take 1))
  match e.instr with
  | .ldv _ _ m o => (8, m == 7, locVector s e.a o m { r := true } (((List.range 8).drop k).take 1))
  | .vlds _ _ _ z m => elem z m fun i => i * e.b.toInt
  | .vgath _ _ b z m => elem z m (indexDelta s b (sizeBytes z))
  | .vecfd _ _ c m =>
    let h := (e.seen.take 1).flatMap (leBytes 8)
    let n := (ecfLanes c).1
    let more := k = 0 ∨ (Ecf.badHeader n h = false ∧ k < Ecf.blockBytes n h / 8)
    (8, m == 7, (ecfAddr s e.a c).bind fun ea s => locBlock s m { r := true } ea k (if more then 1 else 0))
  | _ => (8, false, .ok [] s)

/-- A vector instruction of the current thread makes its next single access (R269). -/
def vecAccess (e : VDisp) (s : State) : Option (VDisp × State) :=
  if (storePlan e s).isSome then
    match storesLeft e s with
    | .ok (l :: ls) s => some ({ e with todo := some ls }, bufferStore s l.2 (storedBytes e s l.1))
    | _ => none
  else
    let (n, glbo, plan) := nextLoad e s
    match plan with
    | .ok ((_, l) :: _) s => match loadBytes s glbo l.key n with
      | .ok b s => some ({ e with seen := e.seen ++ [ofLeBytes b] }, s)
      | _ => none
    | _ => none

/-! ### Reduction, moves and masks (R276 to R278) -/

/-- Neighbours combined, one level of the tree. -/
def pairUp (f : Nat → Nat → Nat × BitVec 5) : List Nat → List Nat × BitVec 5
  | x :: y :: rest =>
    let r := f x y
    let more := pairUp f rest
    (r.1 :: more.1, r.2 ||| more.2)
  | xs => (xs, 0)

/-- The fixed pairwise tree (R277), `n` levels deep. -/
def treeUp (f : Nat → Nat → Nat × BitVec 5) : Nat → List Nat → Nat × BitVec 5
  | 0, xs => (xs.headD 0, 0)
  | n + 1, xs =>
    let r := pairUp f xs
    let t := treeUp f n r.1
    (t.1, r.2 ||| t.2)

/-- The operation of VRED. -/
def redOp (o : BitVec 2) (w mode : Nat) (x y : Nat) : Nat × BitVec 5 :=
  let f := if w = 32 then Fp.fp32 else Fp.bf16
  match o.toNat with
  | 0 => ((x + y) % 2 ^ w, 0)
  | 1 => Fp.add f mode x y
  | 2 => Fp.minMax f true x y
  | _ => (if sLane w x < sLane w y then y else x, 0)

/-- VRED. -/
def redBody (d a : BitVec 6) (z o : BitVec 2) (mode : Nat) (s : State) : Act (BitVec 5) :=
  let w := laneBits z
  let r := treeUp (redOp o w mode) (Nat.log2 (512 / w)) (lanes w (rv s a))
  .ok r.2 (wv s d (ofLanes w [r.1]))

/-- VPERM. -/
def permBody (d a b : BitVec 6) (s : State) : Act (BitVec 5) :=
  .ok 0 (wv s d (ofLanes 8 ((lanes 8 (rv s b)).map fun x => if x / 128 = 1 then 0 else lane 8 (rv s a) (x % 64))))

/-- VSLIDE. -/
def slideBody (d a : BitVec 6) (z : BitVec 2) (k : Int) (s : State) : Act (BitVec 5) :=
  let w := laneBits z
  let n : Nat := 512 / w
  .ok 0 (wv s d (ofLanes w ((List.range n).map fun (i : Nat) =>
    let j := (i : Int) + k
    if 0 ≤ j ∧ j < (n : Int) then lane w (rv s a) j.toNat else 0)))

/-- VSEL. -/
def selBody (d a b : BitVec 6) (z m : BitVec 2) (s : State) : Act (BitVec 5) :=
  let w := laneBits z
  let mask := (thr s).getM m.toNat
  .ok 0 (wv s d (ofLanes w ((List.range (512 / w)).map fun i =>
    lane w (if mask.getLsbD i then rv s a else rv s b) i)))

/-- A comparison of VCMP: 0 EQ, 1 NE, 2 LT, 3 LE, 4 LTU, 5 LEU, on integers or floats (R278). -/
def cmpLane (t : Nat) (c : Nat) (x y : Nat) : Bool × BitVec 5 :=
  if t < 4 then
    let w := 8 * 2 ^ t
    (match c with
      | 0 => x == y
      | 1 => x != y
      | 2 => decide (sLane w x < sLane w y)
      | 3 => decide (sLane w x ≤ sLane w y)
      | 4 => decide (x < y)
      | _ => decide (x ≤ y), 0)
  else
    let f := match t with | 4 => Fp.fp32 | 5 => Fp.bf16 | _ => Fp.fp16
    match c with
    | 1 => let r := Fp.compare f 0 x y; (!r.1, r.2)
    | 0 => Fp.compare f 0 x y
    | 2 => Fp.compare f 1 x y
    | _ => Fp.compare f 2 x y

/-- A mask from its bits, bit 0 first. -/
def ofMask : List Bool → Nat
  | [] => 0
  | b :: bs => (if b then 1 else 0) + 2 * ofMask bs

/-- VCMP. -/
def cmpBody (m c : BitVec 3) (a b : BitVec 6) (t : BitVec 4) (s : State) : Act (BitVec 5) :=
  let w := match t.toNat with | 0 => 8 | 1 => 16 | 2 => 32 | 3 => 64 | 4 => 32 | _ => 16
  let r := List.zipWith (cmpLane t.toNat c.toNat) (lanes w (rv s a)) (lanes w (rv s b))
  .ok (r.foldl (fun f x => f ||| x.2) 0) (updThr s fun t => t.setM m.toNat (BitVec.ofNat 64 (ofMask (r.map Prod.fst))))

/-- A mask register written. -/
def setMask (d : BitVec 6) (x : Word) (s : State) : Act (BitVec 5) := .ok 0 (updThr s fun t => t.setM d.toNat x)

/-- The number of 1 bits. -/
def maskCount (x : Word) : Nat := ((List.range 64).filter fun i => x.getLsbD i).length

/-- What the vector unit does for an instruction, with the scalar operands and FRM read at its dispatch: the exceptions
it raises, a fault with its VECFAULT value, or a wait. -/
def vecBody (e : VDisp) (s : State) : Act (BitVec 5) :=
  let frm := e.frm.toNat
  match e.instr with
  | .ldv d _ m o =>
    let js := List.range 8
    (locVector s e.a o m { r := true } (js.drop e.seen.length)).bind fun ls s =>
      (loadElems s (m == 7) 8 ls).bind fun xs s => finishLoad d 8 m (js.zip e.seen ++ xs) s
  | .vlds d _ _ z m => vecLoad d e.a (sizeBytes z) (vecMode m) (fun i => i * e.b.toInt) e.seen s
  | .vgath d _ b z m => vecLoad d e.a (sizeBytes z) (vecMode m) (indexDelta s b (sizeBytes z)) e.seen s
  | .stv .. => storeBody e s
  | .vsts .. => storeBody e s
  | .vscat .. => storeBody e s
  | .vldb d _ z m =>
    (locElem s e.a 0 0 (sizeBytes z) (vecMode m) { r := true }).bind fun l s =>
      (loadBytes s (vecMode m == 7) l.key (sizeBytes z)).bind fun b s =>
        let s := if vecMode m = 7 then acquire s else s
        .ok 0 (wv s d (ofLanes (laneBits z) (List.replicate (512 / laneBits z) (ofLeBytes b))))
  | .vadd d a b z => intLanes d a b z (fun w x y => (x + y) % 2 ^ w) s
  | .vsub d a b z => intLanes d a b z (fun w x y => (x + 2 ^ w - y) % 2 ^ w) s
  | .vmul d a b z => intLanes d a b z (fun w x y => toLane w (sLane w x * sLane w y)) s
  | .vmulh d a b z => intLanes d a b z (fun w x y => toLane w (sLane w x * sLane w y / 2 ^ w)) s
  | .vand d a b z => intLanes d a b z (fun _ x y => x &&& y) s
  | .vor d a b z => intLanes d a b z (fun _ x y => x ||| y) s
  | .vxor d a b z => intLanes d a b z (fun _ x y => x ^^^ y) s
  | .vsll d a b z => intLanes d a b z (fun w x y => x * 2 ^ (y % w) % 2 ^ w) s
  | .vsrl d a b z => intLanes d a b z (fun w x y => x / 2 ^ (y % w)) s
  | .vsra d a b z => intLanes d a b z (fun w x y => toLane w (sLane w x / 2 ^ (y % w))) s
  | .vmin d a b z => intLanes d a b z (fun w x y => if sLane w y < sLane w x then y else x) s
  | .vmax d a b z => intLanes d a b z (fun w x y => if sLane w x < sLane w y then y else x) s
  | .vminu d a b z => intLanes d a b z (fun _ x y => if y < x then y else x) s
  | .vmaxu d a b z => intLanes d a b z (fun _ x y => if x < y then y else x) s
  | .vadds d a b z => intLanes d a b z (fun w x y => toLane w (clamp w (sLane w x + sLane w y))) s
  | .vsubs d a b z => intLanes d a b z (fun w x y => toLane w (clamp w (sLane w x - sLane w y))) s
  | .vabsd d a b z => intLanes d a b z (fun w x y => (sLane w x - sLane w y).natAbs) s
  | .vdot4 d a b =>
    let xy := List.zip (lanes 32 (rv s a)) (lanes 32 (rv s b))
    .ok 0 (wv s d (ofLanes 32 (List.zipWith (fun t p => dot4 t p.1 p.2) (lanes 32 (rv s d)) xy)))
  | .vfadd d a b t => fpLanes d a b t (fun f x y => Fp.add f frm x y) s
  | .vfsub d a b t => fpLanes d a b t (fun f x y => Fp.sub f frm x y) s
  | .vfmul d a b t => fpLanes d a b t (fun f x y => Fp.mul f frm x y) s
  | .vfdiv d a b t => fpLanes d a b t (fun f x y => Fp.div f frm x y) s
  | .vfmin d a b t => fpLanes d a b t (fun f x y => Fp.minMax f false x y) s
  | .vfmax d a b t => fpLanes d a b t (fun f x y => Fp.minMax f true x y) s
  | .vfabs d a t => fpLanes1 d a t (fun f x => (x % 2 ^ (f.width - 1), 0)) s
  | .vfneg d a t => fpLanes1 d a t (fun f x => ((x + 2 ^ (f.width - 1)) % 2 ^ f.width, 0)) s
  | .vfma d a b f c => fmaLanes (if f = 0 then Fp.fp32 else Fp.bf16) frm d a b c s
  | .vrcp d a t => fpLanes1 d a t Fp.rcp s
  | .vrsq d a t => fpLanes1 d a t Fp.rsq s
  | .vexp2 d a t => fpLanes1 d a t Fp.exp2 s
  | .vlog2 d a t => fpLanes1 d a t Fp.log2 s
  | .vtanh d a t => fpLanes1 d a t Fp.tanh s
  | .vcvt d a r u p => cvtBody d a (modeOf r e.frm) (u == 1) p s
  | .vqnt d a _ k r => qntBody d a (field e.b 0 8) k (modeOf r e.frm) s
  | .vdqnt d a _ k => dqntBody d a (field e.b 0 8) k s
  | .vecfd d _ k m => ecfdBody d e.a k m e.seen s
  | .vecfe .. => storeBody e s
  | .vbcast d _ z => .ok 0 (wv s d (ofLanes (laneBits z) (List.replicate (512 / laneBits z) e.a.toNat)))
  | .vmovgv d _ _ z =>
    let w := laneBits z
    .ok 0 (wv s d (putLanes w (rv s d) [(e.b.toNat % (512 / w), e.a.toNat % 2 ^ w)]))
  | .vmovvg d a _ z => let w := laneBits z; .ok 0 (wg s d (BitVec.ofNat 64 (lane w (rv s a) (e.b.toNat % (512 / w)))))
  | .vperm d a b => permBody d a b s
  | .vred d a z o => redBody d a z o frm s
  | .vslide d a _ z => slideBody d a z e.b.toInt s
  | .vsel d a b z m => selBody d a b z m s
  | .vcmp m c a b t => cmpBody m c a b t s
  | .mand d a b => setMask d ((thr s).getM a.toNat &&& (thr s).getM b.toNat) s
  | .mor d a b => setMask d ((thr s).getM a.toNat ||| (thr s).getM b.toNat) s
  | .mxor d a b => setMask d ((thr s).getM a.toNat ^^^ (thr s).getM b.toNat) s
  | .mnot d a => setMask d (~~~((thr s).getM a.toNat)) s
  | .mset d _ => setMask d e.a s
  | .mcnt d a x =>
    let m := (thr s).getM a.toNat
    .ok 0 (wg s d (if x = 1 then m else BitVec.ofNat 64 (maskCount m)))
  | _ => .ok 0 s

/-! ### Dispatch and completion (R43, R157, R158) -/

/-- A vector instruction's late fault: its ring entry, the pending fault, and every later vector instruction of the
thread cancelled. -/
def vecFault (s : State) (e : VDisp) (cause : BitVec 8) (value : Word) : State :=
  updThr s fun t =>
    let t := addLate (ringEnd t e.seq 2 cause) ⟨e.seq, cause, value⟩
    let t' := t.vq.foldl (fun t x => ringEnd t x.seq 3 0) t
    { t' with vq := [] }

/-- The vector unit runs an instruction of the current thread: the state after it, or nothing while it waits. -/
def runVec (e : VDisp) (s : State) : Option State :=
  match vecBody e s with
  | .ok f s =>
    let s := raiseFlags s f
    some (if trapsOn (thr s) f then vecFault s e Cause.arith (zx f) else updThr s fun t => ringEnd t e.seq 1 0)
  | .trap c v s => some (vecFault s e c v)
  | _ => none

/-- A dispatch of the current thread to the vector unit: executed at once where nothing stands before it and nothing
holds it, else in its place. A 33rd dispatch stalls (R157). -/
def vecIssue (i : Instr) (ill : Bool) (fs : List RegField) (a b : BitVec 6) (s : State) : Out :=
  instr i { ill := ill } fs [] s fun s =>
    if 32 ≤ dispatchesOut s then .leave s
    else
      let (seq, s) := dispatchSeq s 0
      let e : VDisp := { seq := seq, instr := i, a := rg s a, b := rg s b, frm := (thr s).frm }
      let later := updThr s fun t => { t with vq := t.vq ++ [e] }
      if s.splitIssue || (thr s).vq != [] then .ok none later
      else match runVec e s with
        | some s => .ok none s
        | none => .ok none later

/-- VECTOR_COMPLETION: the thread's oldest dispatched vector instruction completes or faults (R157). -/
def execVectorCompletion (core slot : Nat) (s : State) : Out :=
  event s <| if pausing s (stackOf core) then none else match (thrAt s core slot).vq with
    | [] => none
    | e :: es =>
      let s0 := { s with core := core, slot := slot }
      (runVec e (updThr s0 fun t => { t with vq := es })).map fun s' => { s' with core := s.core, slot := s.slot }

/-- The next single access of a thread's oldest dispatched vector instruction (R269), outside a pause of its stack (R344). -/
def vectorAccess (s : State) (core slot : Nat) : Option State :=
  if pausing s (stackOf core) then none else match (thrAt s core slot).vq with
  | [] => none
  | e :: es => (vecAccess e { s with core := core, slot := slot }).map fun r =>
    { updThr r.2 fun t => { t with vq := r.1 :: es } with core := s.core, slot := s.slot }

/-- The elements of a vector store under way put into the store buffer, where one of them satisfies a condition. -/
def flushElems (p : Nat → Bool) (core slot : Nat) (s : State) : State :=
  match (thrAt s core slot).vq with
  | [] => s
  | e :: es =>
    let ls := e.todo.getD []
    if ls.any fun l => p l.2.key then
      let s' := ls.foldl (fun s l => bufferStore s l.2 (storedBytes e s l.1)) { s with core := core, slot := slot }
      { updThr s' fun t => { t with vq := { e with todo := some [] } :: es } with core := s.core, slot := s.slot }
    else s

/-- LDV (R267). -/
def execLdv (d a : BitVec 6) (m : BitVec 3) (o : BitVec 8) (s : State) : Out :=
  vecIssue (.ldv d a m o) false [V d, G a] a 0 s

/-- STV (R267). -/
def execStv (d a : BitVec 6) (m : BitVec 3) (o : BitVec 8) (s : State) : Out :=
  vecIssue (.stv d a m o) false [V d, G a] a 0 s

/-- VLDS (R268). -/
def execVlds (d a b : BitVec 6) (z m : BitVec 2) (s : State) : Out :=
  vecIssue (.vlds d a b z m) false [V d, G a, G b] a b s

/-- VSTS (R268). -/
def execVsts (d a b : BitVec 6) (z m : BitVec 2) (s : State) : Out :=
  vecIssue (.vsts d a b z m) false [V d, G a, G b] a b s

/-- VGATH (R268). -/
def execVgath (d a b : BitVec 6) (z m : BitVec 2) (s : State) : Out :=
  vecIssue (.vgath d a b z m) false [V d, G a, V b] a 0 s

/-- VSCAT (R268). -/
def execVscat (d a b : BitVec 6) (z m : BitVec 2) (s : State) : Out :=
  vecIssue (.vscat d a b z m) false [V d, G a, V b] a 0 s

/-- VLDB (R268). -/
def execVldb (d a : BitVec 6) (z m : BitVec 2) (s : State) : Out :=
  vecIssue (.vldb d a z m) false [V d, G a] a 0 s

/-- VADD (R270). -/
def execVadd (d a b : BitVec 6) (z : BitVec 2) (s : State) : Out :=
  vecIssue (.vadd d a b z) false [V d, V a, V b] 0 0 s

/-- VSUB (R270). -/
def execVsub (d a b : BitVec 6) (z : BitVec 2) (s : State) : Out :=
  vecIssue (.vsub d a b z) false [V d, V a, V b] 0 0 s

/-- VMUL (R270). -/
def execVmul (d a b : BitVec 6) (z : BitVec 2) (s : State) : Out :=
  vecIssue (.vmul d a b z) false [V d, V a, V b] 0 0 s

/-- VMULH (R270). -/
def execVmulh (d a b : BitVec 6) (z : BitVec 2) (s : State) : Out :=
  vecIssue (.vmulh d a b z) false [V d, V a, V b] 0 0 s

/-- VAND (R270). -/
def execVand (d a b : BitVec 6) (z : BitVec 2) (s : State) : Out :=
  vecIssue (.vand d a b z) false [V d, V a, V b] 0 0 s

/-- VOR (R270). -/
def execVor (d a b : BitVec 6) (z : BitVec 2) (s : State) : Out :=
  vecIssue (.vor d a b z) false [V d, V a, V b] 0 0 s

/-- VXOR (R270). -/
def execVxor (d a b : BitVec 6) (z : BitVec 2) (s : State) : Out :=
  vecIssue (.vxor d a b z) false [V d, V a, V b] 0 0 s

/-- VSLL (R270). -/
def execVsll (d a b : BitVec 6) (z : BitVec 2) (s : State) : Out :=
  vecIssue (.vsll d a b z) false [V d, V a, V b] 0 0 s

/-- VSRL (R270). -/
def execVsrl (d a b : BitVec 6) (z : BitVec 2) (s : State) : Out :=
  vecIssue (.vsrl d a b z) false [V d, V a, V b] 0 0 s

/-- VSRA (R270). -/
def execVsra (d a b : BitVec 6) (z : BitVec 2) (s : State) : Out :=
  vecIssue (.vsra d a b z) false [V d, V a, V b] 0 0 s

/-- VMIN (R270). -/
def execVmin (d a b : BitVec 6) (z : BitVec 2) (s : State) : Out :=
  vecIssue (.vmin d a b z) false [V d, V a, V b] 0 0 s

/-- VMAX (R270). -/
def execVmax (d a b : BitVec 6) (z : BitVec 2) (s : State) : Out :=
  vecIssue (.vmax d a b z) false [V d, V a, V b] 0 0 s

/-- VMINU (R270). -/
def execVminu (d a b : BitVec 6) (z : BitVec 2) (s : State) : Out :=
  vecIssue (.vminu d a b z) false [V d, V a, V b] 0 0 s

/-- VMAXU (R270). -/
def execVmaxu (d a b : BitVec 6) (z : BitVec 2) (s : State) : Out :=
  vecIssue (.vmaxu d a b z) false [V d, V a, V b] 0 0 s

/-- VADDS (R270). -/
def execVadds (d a b : BitVec 6) (z : BitVec 2) (s : State) : Out :=
  vecIssue (.vadds d a b z) false [V d, V a, V b] 0 0 s

/-- VSUBS (R270). -/
def execVsubs (d a b : BitVec 6) (z : BitVec 2) (s : State) : Out :=
  vecIssue (.vsubs d a b z) false [V d, V a, V b] 0 0 s

/-- VABSD (R270). -/
def execVabsd (d a b : BitVec 6) (z : BitVec 2) (s : State) : Out :=
  vecIssue (.vabsd d a b z) false [V d, V a, V b] 0 0 s

/-- VDOT4 (R270). -/
def execVdot4 (d a b : BitVec 6) (s : State) : Out :=
  vecIssue (.vdot4 d a b) false [V d, V a, V b] 0 0 s

/-- VFADD, rounded under FRM (R36, R271). -/
def execVfadd (d a b : BitVec 6) (t : BitVec 2) (s : State) : Out :=
  vecIssue (.vfadd d a b t) (frmBad (thr s)) [V d, V a, V b] 0 0 s

/-- VFSUB, rounded under FRM (R36, R271). -/
def execVfsub (d a b : BitVec 6) (t : BitVec 2) (s : State) : Out :=
  vecIssue (.vfsub d a b t) (frmBad (thr s)) [V d, V a, V b] 0 0 s

/-- VFMUL, rounded under FRM (R36, R271). -/
def execVfmul (d a b : BitVec 6) (t : BitVec 2) (s : State) : Out :=
  vecIssue (.vfmul d a b t) (frmBad (thr s)) [V d, V a, V b] 0 0 s

/-- VFDIV, rounded under FRM (R36, R271). -/
def execVfdiv (d a b : BitVec 6) (t : BitVec 2) (s : State) : Out :=
  vecIssue (.vfdiv d a b t) (frmBad (thr s)) [V d, V a, V b] 0 0 s

/-- VFMIN (R271). -/
def execVfmin (d a b : BitVec 6) (t : BitVec 2) (s : State) : Out :=
  vecIssue (.vfmin d a b t) false [V d, V a, V b] 0 0 s

/-- VFMAX (R271). -/
def execVfmax (d a b : BitVec 6) (t : BitVec 2) (s : State) : Out :=
  vecIssue (.vfmax d a b t) false [V d, V a, V b] 0 0 s

/-- VFABS (R271). -/
def execVfabs (d a : BitVec 6) (t : BitVec 2) (s : State) : Out :=
  vecIssue (.vfabs d a t) false [V d, V a] 0 0 s

/-- VFNEG (R271). -/
def execVfneg (d a : BitVec 6) (t : BitVec 2) (s : State) : Out :=
  vecIssue (.vfneg d a t) false [V d, V a] 0 0 s

/-- VFMA, rounded under FRM (R36, R271). -/
def execVfma (d a b : BitVec 6) (f : BitVec 1) (c : BitVec 6) (s : State) : Out :=
  vecIssue (.vfma d a b f c) (frmBad (thr s)) [V d, V a, V b, V c] 0 0 s

/-- VRCP: FRM does not affect it (R272). -/
def execVrcp (d a : BitVec 6) (t : BitVec 2) (s : State) : Out :=
  vecIssue (.vrcp d a t) false [V d, V a] 0 0 s

/-- VRSQ: FRM does not affect it (R272). -/
def execVrsq (d a : BitVec 6) (t : BitVec 2) (s : State) : Out :=
  vecIssue (.vrsq d a t) false [V d, V a] 0 0 s

/-- VEXP2: FRM does not affect it (R272). -/
def execVexp2 (d a : BitVec 6) (t : BitVec 2) (s : State) : Out :=
  vecIssue (.vexp2 d a t) false [V d, V a] 0 0 s

/-- VLOG2: FRM does not affect it (R272). -/
def execVlog2 (d a : BitVec 6) (t : BitVec 2) (s : State) : Out :=
  vecIssue (.vlog2 d a t) false [V d, V a] 0 0 s

/-- VTANH: FRM does not affect it (R272). -/
def execVtanh (d a : BitVec 6) (t : BitVec 2) (s : State) : Out :=
  vecIssue (.vtanh d a t) false [V d, V a] 0 0 s

/-- VCVT (R36, R273). -/
def execVcvt (d a : BitVec 6) (r : BitVec 3) (u : BitVec 1) (p : BitVec 4) (s : State) : Out :=
  vecIssue (.vcvt d a r u p) (convBad (thr s) r (srPair p)) [V d, V a] 0 0 s

/-- VQNT (R36, R274). -/
def execVqnt (d a b : BitVec 6) (k : BitVec 1) (r : BitVec 3) (s : State) : Out :=
  vecIssue (.vqnt d a b k r) (convBad (thr s) r (k == 1)) [V d, V a, G b] 0 b s

/-- VDQNT (R274). -/
def execVdqnt (d a b : BitVec 6) (k : BitVec 1) (s : State) : Out :=
  vecIssue (.vdqnt d a b k) false [V d, V a, G b] 0 b s

/-- VECFD (R275). -/
def execVecfd (d a : BitVec 6) (k : BitVec 1) (m : BitVec 3) (s : State) : Out :=
  vecIssue (.vecfd d a k m) false [V d, G a] a 0 s

/-- VECFE (R275). -/
def execVecfe (d a : BitVec 6) (k : BitVec 1) (m : BitVec 3) (s : State) : Out :=
  vecIssue (.vecfe d a k m) false [V d, G a] a 0 s

/-- VBCAST (R276). -/
def execVbcast (d a : BitVec 6) (z : BitVec 2) (s : State) : Out :=
  vecIssue (.vbcast d a z) false [V d, G a] a 0 s

/-- VMOVGV (R276). -/
def execVmovgv (d a b : BitVec 6) (z : BitVec 2) (s : State) : Out :=
  vecIssue (.vmovgv d a b z) false [V d, G a, G b] a b s

/-- VMOVVG (R276). -/
def execVmovvg (d a b : BitVec 6) (z : BitVec 2) (s : State) : Out :=
  vecIssue (.vmovvg d a b z) false [G d, V a, G b] 0 b s

/-- VPERM (R276). -/
def execVperm (d a b : BitVec 6) (s : State) : Out :=
  vecIssue (.vperm d a b) false [V d, V a, V b] 0 0 s

/-- VRED: its float sums round under FRM (R36, R277). -/
def execVred (d a : BitVec 6) (z o : BitVec 2) (s : State) : Out :=
  vecIssue (.vred d a z o) (o == 1 && frmBad (thr s)) [V d, V a] 0 0 s

/-- VSLIDE (R276). -/
def execVslide (d a b : BitVec 6) (z : BitVec 2) (s : State) : Out :=
  vecIssue (.vslide d a b z) false [V d, V a, G b] 0 b s

/-- VSEL (R276). -/
def execVsel (d a b : BitVec 6) (z m : BitVec 2) (s : State) : Out :=
  vecIssue (.vsel d a b z m) false [V d, V a, V b] 0 0 s

/-- VCMP (R278). -/
def execVcmp (m c : BitVec 3) (a b : BitVec 6) (t : BitVec 4) (s : State) : Out :=
  vecIssue (.vcmp m c a b t) false [V a, V b] 0 0 s

/-- MAND (R278). -/
def execMand (d a b : BitVec 6) (s : State) : Out :=
  vecIssue (.mand d a b) false [] 0 0 s

/-- MOR (R278). -/
def execMor (d a b : BitVec 6) (s : State) : Out :=
  vecIssue (.mor d a b) false [] 0 0 s

/-- MXOR (R278). -/
def execMxor (d a b : BitVec 6) (s : State) : Out :=
  vecIssue (.mxor d a b) false [] 0 0 s

/-- MNOT (R278). -/
def execMnot (d a : BitVec 6) (s : State) : Out :=
  vecIssue (.mnot d a) false [] 0 0 s

/-- MCNT (R278). -/
def execMcnt (d a : BitVec 6) (x : BitVec 1) (s : State) : Out :=
  vecIssue (.mcnt d a x) false [G d] 0 0 s

/-- MSET (R278). -/
def execMset (d a : BitVec 6) (s : State) : Out :=
  vecIssue (.mset d a) false [G a] a 0 s

end Sys2Proof.Machine
end

