-- ==== Sys2Proof/Machine/Gang.lean ====
section
/-! DEFINITION. Gangs and the exchange (R279 to R283). -/

namespace Sys2Proof.Machine

/-! ### Forming and ending a gang (R279, R280) -/

/-- A core holds a gang: one of its threads is in one. -/
def holdsGang (s : State) (c : Nat) : Bool := (coreAt s c).threads.any fun t => t.2.st != .free && t.2.gang.isSome

/-- A follower of index `i`: a user-mode thread of the leader's kernel with the leader's allocation and budget and copies
of its registers (R279). -/
def follower (s : State) (rank i size : Nat) (d : BitVec 6) : Thread :=
  let t := thr s
  let n := newThread s t.owner t.kid rank t.wsz t.vsz t.prio 0 (pcPlus t.pc 4) t.g false
  let n := { n with budgetEn := t.budgetEn, budget := t.budget, v := t.v, m := t.m, ix := t.ix, frm := t.frm }
  let n := { n with fflags := t.fflags, fen := t.fen, srseed := t.srseed, utvec := t.utvec }
  let n := { n with gang := some { core := s.core, slot := s.slot, size := size, index := i } }
  n.setG d.toNat (BitVec.ofNat 64 i)

/-- The followers started, with the places found for them. -/
def startFollowers (size : Nat) (d : BitVec 6) : State → List (Nat × Nat × Nat × Nat) → State
  | s, [] => s
  | s, (r, sl, gb, vb) :: rest =>
    startFollowers size d (startThread s (rankCore (owner s) r) sl gb vb (follower s r (r % size) size d)) rest

/-- GANG (R279). In a gang it raises ILLEGAL (R280), which R60 checks first. -/
def execGang (d a : BitVec 6) (s : State) : Out :=
  instr (.gang d a) { ill := (thr s).gang.isSome } [G d, G a] [] s fun s =>
    (waitUnits s).bind fun _ s =>
      let w := rg s a
      let t := thr s
      if w = 0 ∨ !zeroBits w 63 2 then .ok none (wg s d (BitVec.ofInt 64 (-2)))
      else
        let size := 2 ^ w.toNat
        let q := (ctx s).rank
        let others := ((List.range size).map fun i => size * (q / size) + i).filter fun r => r != q
        let places := others.filterMap fun r =>
          let c := rankCore (owner s) r
          if holdsGang s c then none else (roomFor s c t.wsz t.vsz).map fun p => (r, p)
        if places.length ≠ others.length then .ok none (wg s d (BitVec.ofInt 64 (-1)))
        else
          let s := startFollowers size d s places
          let s := updThr s fun t =>
            { t with gang := some { core := s.core, slot := s.slot, size := size, index := q % size } }
          .ok none (wg s d (BitVec.ofNat 64 (q % size)))

/-- UNGANG: every follower ends as DONE ends it, so each first waits and takes a late fault as DONE does; a follower with
a trap is left to the boundary after (R146, R280, R281). Outside a gang there is no follower to end. -/
def execUngang (s : State) : Out :=
  instr .ungang {} [] [] s fun s =>
    if isFollower s then (drainThread s).bind fun _ s => .ok none s
    else if followerWaits s then .wait .retry s
    else
      let f := followers s s.core s.slot
      if f.any fun p => (thrAt s p.1 p.2).gangTrap.isSome then .ok none s
      else .ok none (if (thr s).gang.isSome then disband s s.core s.slot else s)

/-! ### GBCAST and GSTAT (R282) -/

/-- The thread whose register GBCAST copies: the leader, or outside a gang the issuing thread. -/
def gangLeader (s : State) : Thread :=
  match (thr s).gang with
  | some g => thrAt s g.core g.slot
  | none => thr s

/-- GBCAST: a general register or, with v, a vector register. It waits for the vector instructions before it. -/
def execGbcast (d a : BitVec 6) (v : BitVec 1) (s : State) : Out :=
  instr (.gbcast d a v) {} (if v = 1 then [V d, V a] else [G d, G a]) [] s fun s =>
    let l := gangLeader s
    if v = 1 then
      if (thr s).vq == [] && l.vq == [] then .ok none (wv s d (l.getV a.toNat)) else .leave s
    else if hazard l [G a] then .leave s
    else .ok none (wg s d (l.getG a.toNat))

/-- GSTAT's word for a = 0. -/
def gangWord (t : Thread) : Word :=
  match t.gang with
  | some g => place 1 63 ||| place g.index 8 ||| place g.size 0
  | none => 0

/-- GSTAT. -/
def execGstat (d a : BitVec 6) (s : State) : Out :=
  instr (.gstat d a) {} [G d, G a] [] s fun s =>
    .ok none (wg s d (if rg s a = 0 then gangWord (thr s) else if rg s a = 1 then (thr s).gstat else 0))

/-! ### Exchange (R283) -/

/-- The number of an exchange barrier: the scope, and the gang's leader, the tile or the group. -/
def xbarIndex (scope unit : Nat) : Nat := 2 ^ 20 * scope + unit

/-- The participants of an exchange: their number, the issuer's place among them and the barrier; none for scope gang
outside a gang. -/
def exchange (s : State) (scope : BitVec 2) : Option (Nat × Nat × Nat) :=
  let q := (ctx s).rank
  match scope.toNat with
  | 0 => (thr s).gang.map fun g => (g.size, q % g.size, xbarIndex 0 (16 * g.core + g.slot))
  | 1 => some (4, q % 4, xbarIndex 1 (q / 4))
  | _ => some (16, q % 16, xbarIndex 2 (q / 16))

/-- The first arrival of each participant. -/
def firstArrivals (p : Nat) (l : List XArrival) : List XArrival :=
  (List.range p).filterMap fun j => l.find? fun a => a.part == j

/-- The chunk exchange: chunk j of participant i's result is chunk i of participant j's vector. -/
def exchanged (round : List XArrival) (i : Nat) : Vec :=
  let w := 512 / round.length
  ofLanes w (round.map fun a => lane w a.val i)

/-- The result given to a participant that waits. -/
def deliverExchange (s : State) (x : XArrival) (v : Vec) : State :=
  match (thrAt s x.core x.slot).wait with
  | some (.xchg d a sc, .exchange) =>
    onThread s x.core x.slot fun s => complete (.xchg d a sc) (.ok none (wv s d v)) s
  | _ => s

/-- A participant waits in its exchange. -/
def exchanging (t : Thread) : Bool := t.st == .blocked && match t.wait with | some (_, .exchange) => true | _ => false

/-- XCHG. The last participant to arrive completes the exchange of all. -/
def execXchg (d a : BitVec 6) (sc : BitVec 2) (s : State) : Out :=
  instr (.xchg d a sc) { ill := sc != 0 && (thr s).gang.isSome } [V d, V a] [] s fun s =>
    if exchanging (thr s) then .wait .exchange s
    else match exchange s sc with
      | none => .trap Cause.barrier 1 s
      | some (p, j, n) =>
        (waitUnits s).bind fun _ s =>
          let o := (thr s).owner
          let me : XArrival := { part := j, core := s.core, slot := s.slot, uid := (thr s).uid, val := rv s a, dest := d.toNat }
          let all := Tab.get [] (ownerAt s o).xbars n ++ [me]
          let round := firstArrivals p all
          if round.length < p then .wait .exchange (updOwnerAt s o fun w => { w with xbars := Tab.set all w.xbars n })
          else
            let rest := all.filter fun x => !(round.any fun y => y.uid == x.uid)
            let s := updOwnerAt s o fun w => { w with xbars := Tab.set rest w.xbars n }
            let s := round.foldl (fun s x => if x.uid = me.uid then s else deliverExchange s x (exchanged round x.part)) s
            if round.any fun x => x.uid == me.uid then .ok none (wv s d (exchanged round j)) else .wait .exchange s

/-- A waiting exchange ended without effect: its arrival is withdrawn (R283). -/
def withdrawExchange (s : State) : State :=
  let u := (thr s).uid
  updOwner s fun o => { o with xbars := Tab.mapAll (fun _ l => l.filter fun a => a.uid != u) o.xbars }

end Sys2Proof.Machine
end

