-- ==== Sys2Proof/Machine/Queue.lean ====
section
/-! DEFINITION. Queue registers (R168 to R172) and stream ports (R184, R185). -/

namespace Sys2Proof.Machine

/-! ### Bindings (R168) -/

/-- A queue register. -/
def queueAt (s : State) (c o n : Nat) : Queue := Tab.get {} (ctxAt s c o).queues n

/-- A queue register changed. -/
def updQueue (s : State) (c o n : Nat) (f : Queue → Queue) : State :=
  updCtxAt s c o fun x => { x with queues := Tab.set (f (Tab.get {} x.queues n)) x.queues n }

/-- The current thread's queue register. -/
def queue (s : State) (n : BitVec 4) : Queue := queueAt s s.core (thr s).owner n.toNat

def bindKind (d : Word) : Nat := field d 0 3
def bindProd (d : Word) : Nat := field d 4 4
def bindCons (d : Word) : Nat := field d 8 4
def bindAny (d : Word) : Bool := d.getLsbD 12
def bindTenant (d : Word) : Nat := field d 13 1
def bindRing (d : Word) : Nat := field d 14 2
def bindPort (d : Word) : Nat := field d 16 2

/-- The queue of a context that a binding of some form names. -/
def boundQueue (x : Ctx) (p : Word → Bool) : Option Nat := (x.queues.find? fun q => p q.2.desc).map Prod.fst

/-- Two bindings name the same engine output or port (R168); a ring may have several feeds. -/
def sameEngine (a b : Word) : Bool :=
  bindKind a == bindKind b && match bindKind a with
    | 2 => bindTenant a == bindTenant b
    | 3 => true
    | 4 => bindTenant a == bindTenant b && bindRing a == bindRing b
    | 6 | 7 => bindPort a == bindPort b
    | _ => false

/-- A port of a context. -/
def portAt (x : Ctx) (out : Bool) (p : Nat) : Port := Tab.get {} (if out then x.outs else x.ins) p

/-- A binding's port, for kinds 6 and 7, is open: not Closed. -/
def portBusy (x : Ctx) (d : Word) : Bool :=
  match bindKind d with
  | 6 => (portAt x false (bindPort d)).st != .closed
  | 7 => (portAt x true (bindPort d)).st != .closed
  | _ => false

/-- An invalid descriptor of kinds 1 to 7 (R168). -/
def badBinding (x : Ctx) (a : Word) : Bool :=
  let k := bindKind a
  !zeroBits a 63 18 || a.getLsbD 3
    || (!(k == 6 || k == 7) && bindPort a != 0)
    || (!(k == 4 || k == 5) && bindRing a != 0)
    || (!(k == 2 || k == 4 || k == 5) && bindTenant a != 0)
    || (!(k == 2 || k == 3 || k == 4 || k == 6) && bindAny a)
    || ((bindAny a || k == 5 || k == 7) && bindCons a != 0)
    || (!(k == 1 || k == 5 || k == 7) && bindProd a != 0)
    || (x.queues.any fun q => sameEngine a q.2.desc)
    || portBusy x a

/-- A QUEUE value for a queue register (R169). -/
def queueTrap (reason : Nat) (n : BitVec 4) : Word := place reason 8 ||| place n.toNat 0

/-! ### Who waits (R170) -/

/-- An instruction that takes an element from a queue register and waits for one. -/
def popsQueue (n : Nat) : Instr → Bool
  | .qpop _ m => m.toNat == n
  | .qpopCompact _ m => m.toNat == n
  | _ => false

/-- An instruction that waits for an element of a queue register. -/
def readsQueue (n : Nat) : Instr → Bool
  | .qpeek _ m => m.toNat == n
  | i => popsQueue n i

/-- An instruction that waits for room in a queue register. -/
def pushesQueue (n : Nat) : Instr → Bool
  | .qpush _ m => m.toNat == n
  | .qpushCompact m _ => m.toNat == n
  | _ => false

/-- The tenant that an MPOP of a thread pops for, when a queue is bound to that output (R246). -/
def mpopQueue (x : Ctx) (t : Thread) : Option Nat :=
  boundQueue x fun d => bindKind d == 2 && bindTenant d == (if t.mten then 1 else 0)

/-- A thread of a context that waits in an instruction of some form on a queue register, or in an MPOP that acts on it
(R246). -/
def waitsOnQueue (x : Ctx) (n : Nat) (p : Instr → Bool) (t : Thread) : Bool :=
  t.st == .blocked && match t.wait with
    | some (.mpop _, .retry) => mpopQueue x t == some n
    | some (i, .retry) => p i
    | _ => false

/-- The current thread began to wait no later than another. -/
def waitsBefore (s : State) (u : Thread) : Bool := (thr s).st == .blocked && decide ((thr s).waitNo ≤ u.waitNo)

/-- Elements of a queue that threads waiting longer will take: elements go to the waiting threads in the order in which
they began to wait. -/
def reserved (s : State) (n : Nat) : Nat :=
  ((coreAt s s.core).threads.filter fun p => p.2.owner == (thr s).owner && waitsOnQueue (ctx s) n (popsQueue n) p.2
    && !waitsBefore s p.2).length

/-- The element that the current thread would take from a queue. -/
def nextElem (s : State) (n : Nat) : Option Word := (queueAt s s.core (thr s).owner n).elems[reserved s n]?

/-- The event bits that an element available in a queue sets: of the thread in slot cons, or for a binding with any of
every thread of the binding kernel on the core, also while the owner is swapped out (R156, R350). -/
def queueEvent (s : State) (c o n : Nat) : State :=
  let q := queueAt s c o n
  let k := bindKind q.desc
  if k = 0 ∨ k = 5 ∨ k = 7 then s
  else
    let mine (i : Nat) (t : Thread) : Bool :=
      t.st != .free && t.owner == o && if bindAny q.desc then t.kid == q.kid else i == bindCons q.desc
    let set (i : Nat) (t : Thread) : Thread := if mine i t then { t with evt := true } else t
    updCore s c fun x => { x with threads := Tab.mapAll set x.threads,
                                  shadow := Tab.mapAll (fun _ ts => Tab.mapAll set ts) x.shadow }

/-- An element put into a queue that has room. -/
def putElem (s : State) (c o n : Nat) (e : Word) : State :=
  queueEvent (updQueue s c o n fun q => { q with elems := q.elems ++ [e] }) c o n

/-- The QPEEKs that began to wait before the current thread read the elements that are theirs, before it removes one (R170). -/
def servePeeks (s : State) (n : Nat) : State :=
  let due := (coreAt s s.core).threads.filter fun p => p.2.owner == (thr s).owner && !waitsBefore s p.2
  due.foldl (fun s p => match p.2.st, p.2.wait with
    | .blocked, some (.qpeek d m, .retry) =>
      if m.toNat = n then onThread s s.core p.1 fun s => match nextElem s n with
        | some e => complete (.qpeek d m) (.ok none (wg s d e)) s
        | none => s
      else s
    | _, _ => s) s

/-- That element removed; an engine's held element then enters the queue (R171). -/
def takeElem (s : State) (n : Nat) : State :=
  let k := reserved s n
  let o := (thr s).owner
  let s := servePeeks s n
  let s := updQueue s s.core o n fun q => { q with elems := q.elems.eraseIdx k }
  match (queueAt s s.core o n).pending with
  | [] => s
  | e :: es => putElem (updQueue s s.core o n fun q => { q with pending := es }) s.core o n e

/-! ### The instructions (R170) -/

/-- The checks of a pop or peek. -/
def checkPop (s : State) (n : BitVec 4) : Act Unit :=
  let b := (queue s n).desc
  let k := bindKind b
  if k = 0 then .trap Cause.queue (queueTrap 1 n) s
  else if k = 5 ∨ k = 7 then .trap Cause.queue (queueTrap 2 n) s
  else if !bindAny b ∧ s.slot ≠ bindCons b then .trap Cause.queue (queueTrap 3 n) s
  else .ok () s

/-- QPOP and QPEEK's pseudocode. -/
def popAct (d : Nat) (n : BitVec 4) (removes : Bool) (s : State) : Act (Option Word) :=
  (checkPop s n).bind fun _ s =>
    match nextElem s n.toNat with
    | none => .wait .retry s
    | some e => .ok none (wgn (if removes then takeElem s n.toNat else s) d e)

/-- A STREAM value (R185). -/
def streamTrap (reason port : Nat) : Word := place reason 8 ||| place port 0

/-- A slot count applied to an operand ring by a kind-5 element: one that would overfill its ring, or whose ring is
Undefined, is discarded and sets MQSTAT.rov (R168, R252; assumption 15). -/
def feedRing (s : State) (c o : Nat) (d : Word) (a : Word) : State :=
  let key := 4 * bindTenant d + bindRing d
  let rov (x : Ctx) : Ctx :=
    { x with mq := Tab.set { Tab.get {} x.mq (bindTenant d) with rov := true } x.mq (bindTenant d) }
  updCtxAt s c o fun x => match Tab.find x.rings key with
    | none => rov x
    | some r =>
      if a.toNat > 2 ^ r.n - (r.tail - r.head).toNat then rov x
      else { x with rings := Tab.set { r with tail := r.tail + a.setWidth 16 } x.rings key }

/-- QPUSH's pseudocode: a push to any binding is a release (R171). A kind-5 element is taken by its ring at once. -/
def pushAct (n : BitVec 4) (a : Word) (s : State) : Act (Option Word) :=
  let b := (queue s n).desc
  let k := bindKind b
  let o := (thr s).owner
  if k = 0 then .trap Cause.queue (queueTrap 1 n) s
  else if k = 2 ∨ k = 3 ∨ k = 4 ∨ k = 6 then .trap Cause.queue (queueTrap 2 n) s
  else if s.slot ≠ bindProd b then .trap Cause.queue (queueTrap 3 n) s
  else if k = 7 ∧ (portAt (ctx s) true (bindPort b)).st ≠ .opened then .trap Cause.stream (streamTrap 1 (bindPort b)) s
  else (release s).bind fun _ s =>
    if k = 5 then .ok none (feedRing s s.core o b a)
    else if 16 ≤ (queue s n).elems.length then .wait .retry s
    else .ok none (putElem s s.core o n.toNat a)

/-- QPUSH (R170). -/
def execQpush (a : BitVec 6) (n : BitVec 4) (s : State) : Out :=
  instr (.qpush a n) {} [G a] [] s fun s => pushAct n (rg s a) s

/-- QPOP (R170). -/
def execQpop (d : BitVec 6) (n : BitVec 4) (s : State) : Out :=
  instr (.qpop d n) {} [G d] [] s (popAct d.toNat n true)

/-- QPEEK (R170). -/
def execQpeek (d : BitVec 6) (n : BitVec 4) (s : State) : Out :=
  instr (.qpeek d n) {} [G d] [] s (popAct d.toNat n false)

/-- QTRY and QTRYP's pseudocode: the status goes to g[ra]. -/
def tryAct (d a : BitVec 6) (n : BitVec 4) (removes : Bool) (s : State) : Act (Option Word) :=
  (checkPop s n).bind fun _ s =>
    match nextElem s n.toNat with
    | none => .ok none (wg s a 0)
    | some e => .ok none (wg (wg (if removes then takeElem s n.toNat else s) d e) a 1)

/-- QTRY (R170). -/
def execQtry (d a : BitVec 6) (n : BitVec 4) (s : State) : Out :=
  instr (.qtry d a n) {} [G d, G a] [] s (tryAct d a n true)

/-- QTRYP (R170). -/
def execQtryp (d a : BitVec 6) (n : BitVec 4) (s : State) : Out :=
  instr (.qtryp d a n) {} [G d, G a] [] s (tryAct d a n false)

/-- A thread of the current context waits on a queue register in an instruction of some form, or for an element by MPOP. -/
def someWaits (s : State) (n : BitVec 4) (p : Instr → Bool) : Bool :=
  (coreAt s s.core).threads.any fun t => t.2.owner == (thr s).owner && t.2.uid != (thr s).uid && waitsOnQueue (ctx s) n.toNat p t.2

/-- A completion element of an ended matrix command, not yet posted, is on its way to a queue bound to the tenant (R242). -/
def elemComing (s : State) (d : Word) : Bool :=
  bindKind d == 2 && (Tab.get [] (coreAt s s.core).mqueues (bindTenant d)).any fun c => c.owner == (thr s).owner && !c.live

/-- A release condition of reason 5 (R169). -/
def holdsQueue (s : State) (n : BitVec 4) : Bool :=
  let q := queue s n
  q.elems != [] || q.pending != [] || portBusy (ctx s) q.desc || elemComing s q.desc
    || someWaits s n fun i => readsQueue n.toNat i || pushesQueue n.toNat i

/-- QBIND: kind 0 releases, whatever the other bits are: R170 tests them for kinds 1 to 7 only, where R168 calls them
invalid for every kind (DESIGN CHOICE, assumption 69); otherwise the binding is recorded with the issuer's KID and the queue is empty (R170). -/
def execQbind (a : BitVec 6) (n : BitVec 4) (s : State) : Out :=
  instr (.qbind a n) {} [G a] [] s fun s =>
    let w := rg s a
    let t := thr s
    let b := (queue s n).desc
    if bindKind w = 0 then
      if bindKind b ≠ 0 ∧ holdsQueue s n then .trap Cause.queue (queueTrap 5 n) s
      else .ok none (updQueue s s.core t.owner n.toNat fun _ => {})
    else if bindKind b ≠ 0 then .trap Cause.queue (queueTrap 4 n) s
    else if badBinding (ctx s) w then .trap Cause.queue (queueTrap 6 n) s
    else .ok none (updQueue s s.core t.owner n.toNat fun _ => { desc := w, kid := t.kid })

/-- A thread of the current context waits to push into a queue register. -/
def producerWaits (s : State) (n : BitVec 4) : Bool :=
  (coreAt s s.core).threads.any fun t => t.2.st == .blocked && t.2.owner == (thr s).owner &&
    match t.2.wait with | some (i, .retry) => pushesQueue n.toNat i | _ => false

/-- The status word of a queue (R170). -/
def queueStatus (s : State) (n : BitVec 4) : Word :=
  let q := queue s n
  let k := bindKind q.desc
  if k = 0 then 0
  else
    place (bindPort q.desc) 22 ||| place (if k = 6 ∧ q.closed then 1 else 0) 21
      ||| place (if someWaits s n (readsQueue n.toNat) then 1 else 0) 20
      ||| place (if producerWaits s n then 1 else 0) 19
      ||| place (if bindAny q.desc then 1 else 0) 18 ||| place (bindCons q.desc) 14 ||| place (bindProd q.desc) 10
      ||| place q.elems.length 5 ||| place k 0

/-- QSTAT: never traps after the register checks (R170). -/
def execQstat (d : BitVec 6) (n : BitVec 4) (s : State) : Out :=
  instr (.qstat d n) {} [G d] [] s fun s => .ok none (wg s d (queueStatus s n))

/-- Compact QPOP (R57). -/
def execQpopCompact (d n : BitVec 4) (s : State) : Out :=
  instr (.qpopCompact d n) {} [G d] [] s (popAct d.toNat n true)

/-- Compact QPUSH (R57). -/
def execQpushCompact (n r : BitVec 4) (s : State) : Out :=
  instr (.qpushCompact n r) {} [G r] [] s fun s => pushAct n ((thr s).getG r.toNat) s

/-! ### Engine outputs (R171) -/

/-- An element an engine puts out to a bound queue: appended, or held while the queue is full. -/
def engineOut (s : State) (c o n : Nat) (e : Word) : State :=
  let q := queueAt s c o n
  if q.elems.length < 16 ∧ q.pending = [] then putElem s c o n e
  else updQueue s c o n fun q => { q with pending := q.pending ++ [e] }

/-! ### Stream ports (R184, R185) -/

/-- An in-port changed. -/
def updIn (s : State) (c o p : Nat) (f : Port → Port) : State :=
  updCtxAt s c o fun x => { x with ins := Tab.set (f (Tab.get {} x.ins p)) x.ins p }

/-- The queue bound to an out-port or an in-port. -/
def portQueue (x : Ctx) (out : Bool) (p : Nat) : Option Nat :=
  boundQueue x fun d => bindKind d == (if out then 7 else 6) && bindPort d == p

/-- A stream between two cores stands still in a rotation pause of either's stack, and goes on after it as if there had been none
(R348). -/
def streamHeld (s : State) (c dc : Nat) : Bool := pausing s (stackOf c) || pausing s (stackOf dc)

/-- The answer to the head flit of an Opening out-port: 0 accepted, 2 without a kind-6 queue; none while the in-port
carries another stream (R184). After the answer 2 the port keeps the target that it asked, with count 0 (DESIGN CHOICE,
assumption 91). -/
def headAnswer (s : State) (c o p : Nat) : Option (Word × State) :=
  let out := portAt (ctxAt s c o) true p
  let dc := rankCore (ownerAt s o) out.rank
  let dx := ctxAt s dc o
  if streamHeld s c dc then none
  else match portQueue dx false out.port with
  | none => some (2, updOut s c o p fun k => { k with st := .closed })
  | some q =>
    if (portAt dx false out.port).st ≠ .closed then none
    else
      let s := updIn s dc o out.port fun _ => { st := .opened, rank := rankOf s c o, port := p, count := 0 }
      let s := updQueue s dc o q fun k => { k with closed := false }
      some (0, updOut s c o p fun k => { k with st := .opened })

/-- The answer of the head flit, once there is one. -/
def awaitStream (d : BitVec 6) (p : BitVec 3) (before : Port) (s : State) : Act (Option Word) :=
  match headAnswer s s.core (thr s).owner p.toNat with
  | none => .wait (.stream before) s
  | some (v, s) => .ok none (wg s d v)

/-- The out-port as it was before the head flit whose answer the thread waits for. -/
def awaitsStream (t : Thread) : Option Port :=
  if t.st == .blocked then match t.wait with | some (_, .stream b) => some b | _ => none else none

/-- SOPEN (R184). -/
def execSopen (d a : BitVec 6) (p : BitVec 3) (s : State) : Out :=
  instr (.sopen d a p) {} [G d, G a] [] s fun s =>
    match awaitsStream (thr s) with
    | some before => awaitStream d p before s
    | none =>
      let w := rg s a
      let o := (thr s).owner
      let before := portAt (ctx s) true p.toNat
      if !zeroBits w 63 12 then .trap Cause.stream (streamTrap 5 p.toNat) s
      else if nrank (owner s) ≤ field w 0 10 then .trap Cause.access w s
      else if before.st ≠ .closed then .trap Cause.stream (streamTrap 2 p.toNat) s
      else if (portQueue (ctx s) true p.toNat).isNone then .trap Cause.stream (streamTrap 4 p.toNat) s
      else
        let s := updOut s s.core o p.toNat fun _ => { st := .opening, rank := field w 0 10, port := field w 10 2, count := 0 }
        if s.splitIssue then .wait (.stream before) s else awaitStream d p before s

/-- SCLOSE: the marker goes behind every word already pushed (R185). -/
def execSclose (p : BitVec 3) (s : State) : Out :=
  instr (.sclose p) {} [] [] s fun s =>
    if (portAt (ctx s) true p.toNat).st ≠ .opened then .trap Cause.stream (streamTrap 3 p.toNat) s
    else .ok none (updOut s s.core (thr s).owner p.toNat fun k => { k with st := .closing })

/-- The code of a port state (R185). -/
def PortState.code : PortState → Nat
  | .closed => 0 | .opening => 1 | .opened => 2 | .closing => 3

/-- SSTAT: ports 0 to 3 are out-ports, 4 to 7 in-ports 0 to 3 (R185). -/
def execSstat (d : BitVec 6) (p : BitVec 3) (s : State) : Out :=
  instr (.sstat d p) {} [G d] [] s fun s =>
    let out := p.toNat < 4
    let k := portAt (ctx s) out (p.toNat % 4)
    let q := portQueue (ctx s) out (p.toNat % 4)
    .ok none (wg s d (place k.port 42 ||| place k.rank 32 ||| place k.count.toNat 16 ||| place (q.getD 0) 3
      ||| place (if q.isSome then 1 else 0) 2 ||| place k.st.code 0))

/-- HEAD_FLIT: the head flit of an Opening out-port of the core's running owner reaches its in-port, and the waiting
SOPEN completes with the answer (R184). -/
def execHeadFlit (core port : Nat) (s : State) : Out :=
  event s <|
    let o := (coreAt s core).active
    match (coreAt s core).threads.find? (fun t => t.2.owner == o && t.2.st == .blocked &&
        (match t.2.wait with | some (.sopen _ _ p, .stream _) => p.toNat == port | _ => false)) with
    | some (sl, t) => match t.wait with
      | some (.sopen d a p, .stream before) => (headAnswer s core o port).map fun _ =>
          onThread s core sl fun s => complete (.sopen d a p) (awaitStream d p before s) s
      | _ => none
    | none => none

/-- STREAM_WORD: the oldest word of an out-port's queue enters the in-queue when that has room; each port counts it
(R184, R185). -/
def streamWord (s : State) (c o p : Nat) : Option State :=
  let x := ctxAt s c o
  let out := portAt x true p
  let dc := rankCore (ownerAt s o) out.rank
  match portQueue x true p, portQueue (ctxAt s dc o) false out.port with
  | some q, some r =>
    match (queueAt s c o q).elems with
    | [] => none
    | w :: ws =>
      if (out.st = .opened ∨ out.st = .closing) ∧ (queueAt s dc o r).elems.length < 16 ∧ !streamHeld s c dc then
        let s := updQueue s c o q fun k => { k with elems := ws }
        let s := putElem s dc o r w
        some (updIn (updOut s c o p fun k => { k with count := k.count + 1 }) dc o out.port fun k => { k with count := k.count + 1 })
      else none
  | _, _ => none

/-- STREAM_WORD (R184). -/
def execStreamWord (core port : Nat) (s : State) : Out := event s (streamWord s core (coreAt s core).active port)

/-- MARKER: once every word has left, the marker frees the in-port and sets the in-queue's closed bit (R185). A port whose queue the
end of its kernel has released moves nothing more and stays as it is (DESIGN CHOICE, assumption 90). -/
def execMarker (core port : Nat) (s : State) : Out :=
  event s <|
    let o := (coreAt s core).active
    let x := ctxAt s core o
    let out := portAt x true port
    let dc := rankCore (ownerAt s o) out.rank
    match portQueue x true port with
    | none => none
    | some q =>
      if out.st = .closing ∧ out.lost = false ∧ (queueAt s core o q).elems = [] ∧ !streamHeld s core dc then
        let s := updOut s core o port fun k => { k with st := .closed }
        let s := updIn s dc o out.port fun k => { k with st := .closed }
        some (match portQueue (ctxAt s dc o) false out.port with
          | some r => updQueue s dc o r fun k => { k with closed := true }
          | none => s)
      else none

end Sys2Proof.Machine
end

