-- ==== Sys2Proof/Machine/Csr.lean ====
section
/-! DEFINITION. Every CSR: its content, its writable fields, and the four CSR instructions (R68 to R70, R161, R162, R183,
R203, R261, R305, R320, R339, R353, R364, R384). -/

namespace Sys2Proof.Machine

/-! ### Contents -/

/-- ALLOC (R70). -/
def allocWord (t : Thread) : Word := place t.prio.toNat 8 ||| place t.vsz.toNat 2 ||| place t.wsz.toNat 0

/-- TSTAT (R161). -/
def tstatWord (t : Thread) : Word :=
  place (if t.tin then 1 else 0) 9 ||| place (if t.tpm then 1 else 0) 8 ||| place (if t.sup then 1 else 0) 0

/-- Word 1 of a dispatch ring entry (R159). -/
def ringWord1 (e : RingEntry) : Word :=
  place 1 63 ||| place e.cause.toNat 24 ||| place e.unit.toNat 18 ||| place e.st.toNat 16 ||| place e.seq.toNat 0

/-- DRVAL: the word that DRSEL selects, zero where the entry does not hold the selected number (R159, R161). -/
def drval (t : Thread) : Word :=
  let q := t.drsel.extractLsb' 0 16
  match Tab.find t.ring (q.toNat % 32) with
  | some e => if e.seq = q then (if t.drsel.getLsbD 16 then ringWord1 e else e.pc) else 0
  | none => 0

/-- CTXPROG (R161). -/
def ctxprogWord (p : CtxProg) : Word :=
  place (if p.act then 1 else 0) 63 ||| place (if p.load then 1 else 0) 53 ||| place p.slot 49 ||| place p.done 41
    ||| place (if p.tn then 1 else 0) 40 ||| place (p.area / 4096 % 2 ^ 40) 0

/-- ACCOWN's 16 bits of a tile (R243). -/
def accBits (a : AccTile) : Nat :=
  2 ^ 15 * (if a.v then 1 else 0) + 2 ^ 14 * (if a.sp then 1 else 0) + 2 ^ 8 * a.ten + a.own

/-- ACCOWN (R243). -/
def accownWord (k : Core) : Word :=
  (List.range 4).foldl (fun w t => w ||| place (accBits (Tab.get {} k.accown t)) (16 * t)) 0

/-- The tenant of the current thread (R230). -/
def tenant (s : State) : Nat := if (thr s).mten then 1 else 0

/-- MQSTAT of the thread's context and tenant (R250). -/
def mqstatWord (s : State) : Word :=
  let m := Tab.get {} (ctx s).mq (tenant s)
  let q := ((Tab.get [] (coreAt s s.core).mqueues (tenant s)).filter fun c => c.owner == (thr s).owner).length
  place m.ret.toNat 32 ||| place (if m.rov then 1 else 0) 17 ||| place (if m.ov then 1 else 0) 16
    ||| place (if m.nv then 1 else 0) 15 ||| place m.fifo.length 10 ||| place q 0

/-- MBXPST (R183). -/
def mbxpstWord (x : Ctx) : Word :=
  place x.pond.length 32 ||| place x.pondTail 16 ||| place ((x.pond.head?.map Prod.fst).getD x.pondTail) 0

/-- MBXSTAT's four bits of a mailbox (R183). -/
def mbxBits (s : State) (k : Nat) : Nat :=
  let o := (thr s).owner
  let b := mbxAt s s.core o k
  let head := headMsg s s.core o k
  let cls := head.bind fun m => classAt s s.core o k (hdrClass m.header)
  (if b.defined then 1 else 0) + 2 * (if b.spilled then 1 else 0) + 4 * (if head.isSome && cls.isNone then 1 else 0)
    + 8 * (match cls with | some c => if stoppedClass s o c then 1 else 0 | none => 0)

/-- MBXSTAT (R183). -/
def mbxstatWord (s : State) : Word := (List.range 8).foldl (fun w k => w ||| place (mbxBits s k) (4 * k)) 0

/-- KIDX (R203). -/
def kidxWord (s : State) : Word :=
  let t := thr s
  place (if wrapping s t.owner t.kid then 1 else 0) 63 ||| place (if t.diverted then 1 else 0) 62
    ||| place t.kcount 10 ||| place t.kindex 0

/-- THRCAUSE (R320). -/
def thrcauseWord (w : Owner) : Word := place w.tcnt.toNat 16 ||| place w.thrCur.toNat 8 ||| place w.thr.toNat 0

/-- CAPW (R321). -/
def capwWord (w : Owner) : Word := place w.capCls 32 ||| place w.capOwn 16 ||| place w.cap 0

/-- SYSSTAT (R384). -/
def sysstatWord (y : Sys) : Word :=
  place (if y.recovery then 1 else 0) 15 ||| place (if y.warm then 1 else 0) 14 ||| place y.ptp.toNat 12
    ||| place y.dbg.toNat 2 ||| place y.sec.toNat 0

/-- POSN: the site that the core's content stands on now (R340, R353). -/
def posnWord (s : State) : Word :=
  let c := s.core
  let n := (stackAt s (stackOf c)).rotn
  place (c % 4) 9 ||| place (c / 4 % 4) 7 ||| place (columnOf c n) 4 ||| place (layerOf c n) 2 ||| place (stackOf c) 0

/-- ROTCFG (R353). -/
def rotcfgWord (k : Stack) : Word := place (if k.rotEn then 1 else 0) 16 ||| place k.ivl 0

/-- ARCLINK (R364). -/
def arclinkWord (y : Sys) : Word :=
  (List.range 24).foldl (fun w p => w ||| match (Tab.get {} y.ports p).st with
    | .up => place 1 p
    | .degraded => place 1 (24 + p)
    | _ => 0) 0

/-- The deadline of a thread's kernel, all ones for none (R203). -/
def dlineWord (s : State) : Word := match kernelAt s (thr s).owner (thr s).kid with
  | some k => k.word 3
  | none => BitVec.allOnes 64

/-- What a read of a CSR by the current thread returns. -/
def csrRead (s : State) (n : Nat) : Word :=
  let t := thr s
  let w := owner s
  let k := coreAt s s.core
  let x := ctx s
  let st := stackAt s (stackOf s.core)
  if 0x160 ≤ n ∧ n ≤ 0x163 ∧ isControl s.core then Config.controlCsr s.core n
  else match n with
    | 0x000 => place s.slot 0
    | 0x001 => allocWord t
    | 0x002 => place t.owner 0
    | 0x003 => place x.rank 0
    | 0x004 => place (nrank w) 0
    | 0x005 => BitVec.ofNat 64 s.cycle
    | 0x006 => BitVec.ofNat 64 (timeNow s)
    | 0x008 => zx t.frm
    | 0x009 => zx t.fflags
    | 0x00A => zx t.fen
    | 0x00B => zx t.srseed
    | 0x040 => t.utvec
    | 0x041 => t.uepc
    | 0x042 => t.ucause
    | 0x043 => t.utval
    | 0x044 => w.udeleg
    | 0x045 => t.uscratch
    | 0x048 => k.tvec
    | 0x049 => t.tepc
    | 0x04A => t.tcause
    | 0x04B => t.tval
    | 0x04C => t.tseq
    | 0x04D => tstatWord t
    | 0x04E => t.tscratch
    | 0x050 => t.drsel
    | 0x051 => drval t
    | 0x058 => ctxprogWord k.ctxprog
    | 0x059 => zx k.hwlim
    | 0x080 => accownWord k
    | 0x081 => k.mspa
    | 0x082 => bit t.mten
    | 0x083 => mqstatWord s
    | 0x084 => t.mfaddr
    | 0x0C0 => x.mbxpond
    | 0x0C1 => mbxpstWord x
    | 0x0C2 => x.mbxopen
    | 0x0C3 => mbxstatWord s
    | 0x0C4 => t.evword
    | 0x0E0 => t.xferid
    | 0x0E1 => t.xepc
    | 0x0E2 => t.xarg
    | 0x0E3 => x.xovf
    | 0x100 => place t.kid 0
    | 0x101 => dlineWord s
    | 0x102 => threadSlack s
    | 0x103 => t.dlepc
    | 0x104 => kernelWrap s t.owner t.kid
    | 0x105 => budgetWord t
    | 0x106 => kidxWord s
    | 0x120 => thrcauseWord w
    | 0x121 => capwWord w
    | 0x140 => sysstatWord s.sys
    | 0x141 => w.ownev
    | 0x160 => posnWord s
    | 0x161 => BitVec.ofNat 64 st.rotn
    | 0x162 => rotNext s (stackOf s.core)
    | 0x163 => rotcfgWord st
    | 0x164 => t.rothctl
    | 0x170 => place x.lscap 0
    | 0x171 => w.pgroot
    | 0x172 => t.tlbiv
    | 0x173 => t.pgflt
    | 0x174 => t.bksel
    | 0x175 => w.svroot
    | 0x190 => place s.sys.modNo.toNat 32 ||| zx w.dom
    | 0x191 => arclinkWord s.sys
    | _ => 0

/-! ### Writable fields -/

/-- The RW bits of a CSR. -/
def csrRw (n : Nat) : Word :=
  match n with
  | 0x008 => 0x7
  | 0x009 | 0x00A => 0x1F
  | 0x00B | 0x059 => 0xFFFFFFFF
  | 0x040 | 0x041 | 0x048 | 0x049 | 0x0E1 | 0x103 => 0xFFFFFFFFFFFFFFFE
  | 0x042 => 0x80000000FFFF01FF
  | 0x043 | 0x045 | 0x04B | 0x04E | 0x0C4 => 0xFFFFFFFFFFFFFFFF
  | 0x044 => 0x240308
  | 0x04A => 0x1FF
  | 0x04C | 0x050 => 0x1FFFF
  | 0x04D => 0x300
  | 0x081 => 0x000FFFFFFFFFFDFF
  | 0x082 => 0x1
  | 0x0C0 | 0x0E3 => 0x000FFFFFFFFFF00F
  | 0x0C2 => 0xFE
  | 0x121 => 0xFFFFF0000
  | 0x164 => 0x3FFF
  | 0x172 => 0x3FFFFFFFFFFFF000
  | 0x174 => 0x001FFFFF000F00FF
  | _ => 0

/-- The W1C bits of a CSR. -/
def csrW1c (n : Nat) : Word :=
  match n with
  | 0x083 => 0x38000
  | 0x120 => 0x1F
  | 0x141 => 0xE
  | _ => 0

/-- The RW fields of a CSR set: `v` has the new value in them and the old value elsewhere. -/
def csrSet (s : State) (n : Nat) (v : Word) : State :=
  match n with
  | 0x008 => updThr s fun t => { t with frm := v.setWidth 3 }
  | 0x009 => updThr s fun t => { t with fflags := v.setWidth 5 }
  | 0x00A => updThr s fun t => { t with fen := v.setWidth 5 }
  | 0x00B => updThr s fun t => { t with srseed := if v.setWidth 32 = 0#32 then 0x2545F491#32 else v.setWidth 32 }
  | 0x040 => updThr s fun t => { t with utvec := v }
  | 0x041 => updThr s fun t => { t with uepc := v }
  | 0x042 => updThr s fun t => { t with ucause := v }
  | 0x043 => updThr s fun t => { t with utval := v }
  | 0x044 => updOwner s fun w => { w with udeleg := v }
  | 0x045 => updThr s fun t => { t with uscratch := v }
  | 0x048 => updCore s s.core fun k => { k with tvec := v }
  | 0x049 => updThr s fun t => { t with tepc := v }
  | 0x04A => updThr s fun t => { t with tcause := v }
  | 0x04B => updThr s fun t => { t with tval := v }
  | 0x04C => updThr s fun t => { t with tseq := v }
  | 0x04D => updThr s fun t => { t with tin := v.getLsbD 9, tpm := v.getLsbD 8 }
  | 0x04E => updThr s fun t => { t with tscratch := v }
  | 0x050 => updThr s fun t => { t with drsel := v }
  | 0x059 => updCore s s.core fun k => { k with hwlim := v.setWidth 32 }
  | 0x081 => updCore s s.core fun k => { k with mspa := v }
  | 0x082 => updThr s fun t => { t with mten := v.getLsbD 0 }
  | 0x0C0 => updCtx s fun x =>
      if x.pond = [] then { x with mbxpond := v, pondTail := x.pondTail % 2 ^ field v 0 4 } else x
  | 0x0C2 => updCtx s fun x => { x with mbxopen := v }
  | 0x0C4 => updThr s fun t => { t with evword := v }
  | 0x0E1 => updThr s fun t => { t with xepc := v }
  | 0x0E3 => updCtx s fun x => if x.xovfReqs = [] then { x with xovf := v } else x
  | 0x103 => updThr s fun t => { t with dlepc := v }
  | 0x121 => updOwner s fun w => { w with capCls := field v 32 4, capOwn := field v 16 16 }
  | 0x164 => updThr s fun t => { t with rothctl := v }
  | 0x172 => updThr s fun t => { t with tlbiv := v }
  | 0x174 => updThr s fun t => { t with bksel := v }
  | _ => s

/-- W1C bits cleared (R5). -/
def csrClear (s : State) (n : Nat) (v : Word) : State :=
  match n with
  | 0x083 =>
    let e := tenant s
    updCtx s fun x =>
      let m := Tab.get {} x.mq e
      { x with mq := Tab.set { m with
          rov := m.rov && !v.getLsbD 17
          ov := m.ov && !v.getLsbD 16
          nv := m.nv && !v.getLsbD 15 } x.mq e }
  | 0x120 => updOwner s fun w => { w with thr := w.thr &&& ~~~(v.setWidth 5) }
  | 0x141 => updOwner s fun w => { w with ownev := w.ownev &&& ~~~(v &&& 0xE) }
  | _ => s

/-- The RW fields of a CSR given the bits of `v`, its other bits as they read. -/
def csrPut (s : State) (n : Nat) (v : Word) : State := csrSet s n ((csrRead s n &&& ~~~csrRw n) ||| (v &&& csrRw n))

/-! ### The instructions (R162) -/

/-- PRIV: a supervisor-only CSR named in user mode, or a user write to one that user mode may only read (R67, R69). -/
def csrGate (s : State) (c : BitVec 12) (writes : Bool) : Gate :=
  { priv := !(thr s).sup && (csrSupervisor.contains c.toNat || (writes && csrUserReadOnly.contains c.toNat)) }

/-- A CSR instruction is never reordered with the thread's floating-point instructions: one that names their state
waits for the vector instructions dispatched before it (R162). -/
def csrOrder (s : State) (c : BitVec 12) : Act Unit :=
  if 0x008 ≤ c.toNat ∧ c.toNat ≤ 0x00B ∧ (thr s).vq ≠ [] then .wait .retry s else .ok () s

/-- CSRR (R162). -/
def execCsrr (d : BitVec 6) (c : BitVec 12) (s : State) : Out :=
  instr (.csrr d c) (csrGate s c false) [G d] [] s fun s =>
    (csrOrder s c).bind fun _ s => .ok none (wg s d (csrRead s c.toNat))

/-- CSRW: every writable field by R5 (R162). -/
def execCsrw (a : BitVec 6) (c : BitVec 12) (s : State) : Out :=
  instr (.csrw a c) (csrGate s c true) [G a] [] s fun s =>
    (csrOrder s c).bind fun _ s => .ok none (csrClear (csrPut s c.toNat (rg s a)) c.toNat (rg s a))

/-- CSRS: old OR a into the RW fields only (R162). -/
def execCsrs (a : BitVec 6) (c : BitVec 12) (s : State) : Out :=
  instr (.csrs a c) (csrGate s c true) [G a] [] s fun s =>
    (csrOrder s c).bind fun _ s => .ok none (csrPut s c.toNat (csrRead s c.toNat ||| rg s a))

/-- CSRC: old AND NOT a into the RW fields only (R162). -/
def execCsrc (a : BitVec 6) (c : BitVec 12) (s : State) : Out :=
  instr (.csrc a c) (csrGate s c true) [G a] [] s fun s =>
    (csrOrder s c).bind fun _ s => .ok none (csrPut s c.toNat (csrRead s c.toNat &&& ~~~(rg s a)))

end Sys2Proof.Machine
end

