-- ==== Sys2Proof/Machine/Matrix.lean ====
section
/-! DEFINITION. The matrix unit: rings, commands, exact accumulation, completion, accumulator ownership and the exclusion
of stacked units (R20, R21, R45 to R48, R230 to R261). -/

namespace Sys2Proof.Machine

/-! ### Commands (R234 to R241) -/

/-- A word of a command. -/
def MCmd.w (m : MCmd) (i : Nat) : Word := m.words.getD i 0

def MCmd.op (m : MCmd) : Nat := field (m.w 0) 0 4
def MCmd.dst (m : MCmd) : Nat := field (m.w 0) 4 2
def MCmd.tok (m : MCmd) : Bool := (m.w 0).getLsbD 6
def MCmd.tag (m : MCmd) : Nat := field (m.w 0) 8 16
def MCmd.fa (m : MCmd) : Nat := field (m.w 0) 24 6
def MCmd.fb (m : MCmd) : Nat := field (m.w 0) 30 6
def MCmd.ra (m : MCmd) : Nat := field (m.w 0) 36 2
def MCmd.rb (m : MCmd) : Nat := field (m.w 0) 38 2
def MCmd.ha (m : MCmd) : Bool := (m.w 0).getLsbD 40
def MCmd.hb (m : MCmd) : Bool := (m.w 0).getLsbD 41
def MCmd.acca (m : MCmd) : Bool := (m.w 0).getLsbD 42
def MCmd.src (m : MCmd) : Nat := field (m.w 0) 43 2
def MCmd.sat (m : MCmd) : Bool := (m.w 0).getLsbD 45
def MCmd.fresh (m : MCmd) : Bool := (m.w 0).getLsbD 46
/-- Tile pairs of an MMA or MMAS. -/
def MCmd.pairs (m : MCmd) : Nat := field (m.w 0) 47 8 + 1
def MCmd.fm (m : MCmd) : Nat := field (m.w 0) 24 6
def MCmd.rm (m : MCmd) : Nat := field (m.w 0) 30 3
def MCmd.msat (m : MCmd) : Bool := (m.w 0).getLsbD 33
def MCmd.glb (m : MCmd) : Bool := (m.w 0).getLsbD 34
def MCmd.addr (m : MCmd) : Nat := field (m.w 1) 0 52
def MCmd.pitch (m : MCmd) : Nat := field (m.w 2) 0 32

/-- An MMA or MMAS. -/
def MCmd.mul (m : MCmd) : Bool := m.op == 1 || m.op == 2

/-- The tiles a command names, as a mask (R244). -/
def tileMask (m : MCmd) : Nat :=
  match m.op with
  | 1 => 2 ^ m.dst ||| if m.acca then 2 ^ m.src else 0
  | 2 | 4 | 5 => 2 ^ m.dst
  | 3 => field (m.w 0) 24 4
  | 6 => 2 ^ m.dst ||| 2 ^ field (m.w 0) 24 2
  | _ => 0

/-- A command names a tile. -/
def MCmd.names (m : MCmd) (t : Nat) : Bool := tileMask m / 2 ^ t % 2 == 1

/-- A command names a ring of its context. -/
def MCmd.usesRing (m : MCmd) (k : Nat) : Bool := m.mul && ((m.ra == k && !(m.op == 1 && m.acca)) || m.rb == k)

/-- Reserved words of a command, from the n-th on. -/
def MCmd.tailSet (m : MCmd) (n : Nat) : Bool := (m.words.drop n).any fun w => w != 0

/-- Reason 1 (R235): an invalid op, or a reserved bit set. -/
def badBits (m : MCmd) : Bool :=
  let w := m.w 0
  w.getLsbD 7 || match m.op with
    | 1 => !zeroBits w 63 55 || !zeroBits (m.w 1) 63 8 || m.tailSet 2
        || (if m.acca then m.ra != 0 || m.ha else m.src != 0 || m.sat)
    | 2 => !zeroBits w 63 55 || !zeroBits w 45 42 || !zeroBits (m.w 1) 63 26 || !zeroBits (m.w 2) 63 22 || m.tailSet 3
    | 3 => m.dst != 0 || !zeroBits w 63 28 || field w 24 4 == 0 || m.tailSet 1
    | 4 | 5 => !zeroBits w 63 35 || !zeroBits (m.w 1) 63 52 || !zeroBits (m.w 2) 63 32 || m.tailSet 3
    | 6 => !zeroBits w 63 27 || m.tailSet 4
    | _ => true

/-- The pairings of MMA: 16-bit, 8-bit floating, integer (R236). -/
def float16 (f : Nat) : Bool := f == 0x08 || f == 0x09
def float8 (f : Nat) : Bool := f == 0x10 || f == 0x11 || f == 0x14

/-- A block length that an operand's format does not allow. -/
def badBlen (f b : Nat) : Bool := if f == 0x14 then b < 4 || 7 < b else b != 0

/-- The formats of scaled integers and floats (R236). -/
def scaled8 (f : Nat) : Bool := f == 0x18 || f == 0x19

/-- Reason 2 (R235): formats, pairing, rounding code, saturate bit, block length. -/
def badFormat (m : MCmd) : Bool :=
  let half := float16 m.fm
  match m.op with
  | 1 =>
    !((float16 m.fa && float16 m.fb) || (float8 m.fa && float8 m.fb) || (m.fa == 0x01 && m.fb == 0x01))
      || badBlen m.fa (field (m.w 1) 0 4) || badBlen m.fb (field (m.w 1) 4 4)
  | 2 =>
    !(scaled8 m.fa && scaled8 m.fb) || field (m.w 1) 22 4 < 4 || 6 < field (m.w 1) 22 4
  | 4 => !(half || m.fm == 0x0A || m.fm == 0x04) || m.rm != 0 || m.msat
  | 5 => !(half || m.fm == 0x0A || m.fm == 0x04) || (if half then 4 < m.rm else m.rm != 0 || m.msat)
  | _ => false

/-- Of a command that fails reason 2: operand B alone is at fault, its format none of the command's, or its block length
(R243; DEDUCED, assumption 41). -/
def formatOfB (m : MCmd) : Bool :=
  let known (f : Nat) : Bool := if m.op == 1 then float16 f || float8 f || f == 0x01 else scaled8 f
  m.mul && known m.fa && (!known m.fb || (m.op == 1 && !badBlen m.fa (field (m.w 1) 0 4) && badBlen m.fb (field (m.w 1) 4 4)))

/-! ### Rings (R233) -/

/-- A ring of a context's tenant. -/
def opRing (s : State) (c o ten k : Nat) : Option OpRing := Tab.find (ctxAt s c o).rings (4 * ten + k)

/-- Bytes of a ring's slot. -/
def OpRing.slot (r : OpRing) : Nat := if r.big then 3072 else 2048

/-- Filled slots of a ring. -/
def OpRing.filled (r : OpRing) : Nat := (r.tail - r.head).toNat

/-- A ring that a format's tiles fit: slots of 3 KiB for ECF8, 2 KiB otherwise, all of it in the local store. -/
def ringFits (s : State) (c o : Nat) (r : OpRing) (f : Nat) : Bool :=
  r.big == (f == 0x14) && r.base + 2 ^ r.n * r.slot ≤ lsLimit s c o

/-- Reason 3 for a ring (R235). -/
def badRing (s : State) (m : MCmd) (k f : Nat) : Bool :=
  match opRing s m.core m.owner m.ten k with
  | none => true
  | some r => !ringFits s m.core m.owner r f

/-- A ring the command can wait on holds fewer than its slots (R237). -/
def ringShort (s : State) (m : MCmd) (k f : Nat) : Bool :=
  match opRing s m.core m.owner m.ten k with
  | none => false
  | some r => ringFits s m.core m.owner r f && r.filled < m.pairs

/-- The command names a ring that is Undefined or does not fit (R235). -/
def misnamesRing (s : State) (m : MCmd) : Bool :=
  (!(m.op == 1 && m.acca) && badRing s m m.ra m.fa) || badRing s m m.rb m.fb

/-- The command's rings hold its tiles; one that names an Undefined or misfit ring does not wait (R237). -/
def ringsReady (s : State) (m : MCmd) : Bool :=
  !m.mul || misnamesRing s m || ((m.op == 1 && m.acca) || !ringShort s m m.ra m.fa) && !ringShort s m m.rb m.fb

/-- A queued or running command of the context's tenant names a ring (R251). -/
def ringNamed (s : State) (c o ten k : Nat) : Bool :=
  (Tab.get [] (coreAt s c).mqueues ten).any fun m => m.live && m.owner == o && m.usesRing k

/-! ### Memory operands (R236, R240) -/

/-- A unit's byte of local store, mode OWN, for a context's owner. -/
def unitLocal (s : State) (c o off : Nat) : Option Nat := if off < lsLimit s c o then lsPlace s c o off else none

/-- The place of an element of a command's memory operand. -/
def elemPlace (s : State) (m : MCmd) (a : Nat) (need : Need) : Option Nat :=
  if m.glb then
    if 2 ^ 52 ≤ a ∨ inWindow a then none else walkPlace s m.owner m.sup a need
  else unitLocal s m.core m.owner a

/-- Bytes of an element of the memory format. -/
def MCmd.width (m : MCmd) : Nat := fmtBits m.fm / 8

/-- The places of a row's elements, or none where one has none. -/
def rowPlaces (s : State) (m : MCmd) (r : Nat) : Option (List Nat) :=
  (List.range 32).foldr (fun c acc =>
    match elemPlace s m (m.addr + r * m.pitch + c * m.width) { r := m.op == 4, w := m.op == 5 }, acc with
    | some k, some l => some (k :: l)
    | _, _ => none) (some [])

/-- Reason 5 (R235, R240): the address of the first failing row, and whether it is operand B's. For MMAS, a scale array that
leaves the local store counts as such an operand, at its offset. -/
def badOperand (s : State) (m : MCmd) : Option (Nat × Bool) :=
  if m.op = 4 ∨ m.op = 5 then
    if m.addr % m.width ≠ 0 ∨ m.pitch % m.width ≠ 0 ∨ m.pitch < 32 * m.width then some (m.addr, false)
    else ((List.range 32).find? fun r => (rowPlaces s m r).isNone).map fun r => ((m.addr + r * m.pitch) % 2 ^ 52, false)
  else if m.op = 2 then
    let len := m.pairs * 32 * (64 / 2 ^ field (m.w 1) 22 4)
    let a := field (m.w 1) 0 22
    let b := field (m.w 2) 0 22
    if lsLimit s m.core m.owner < a + len then some (a, false)
    else if lsLimit s m.core m.owner < b + len then some (b, true)
    else none
  else none

/-- A fault of a command: its reason, the trap value, and the address for MFADDR. -/
structure MFault where
  reason : Nat
  value : Word
  addr : Option Nat := none
deriving DecidableEq, Repr

/-- The static checks in the order of R235's table. -/
def staticFault (s : State) (m : MCmd) : Option MFault :=
  if badBits m then some ⟨1, 1, none⟩
  else if badFormat m then some ⟨2, place (if formatOfB m then 1 else 0) 10 ||| 2, none⟩
  else if m.mul && !(m.op == 1 && m.acca) && badRing s m m.ra m.fa then some ⟨3, place m.ra 8 ||| 3, none⟩
  else if m.mul && badRing s m m.rb m.fb then some ⟨3, place 1 10 ||| place m.rb 8 ||| 3, none⟩
  else match badOperand s m with
    | some (a, b) => some ⟨5, place (if b then 1 else 0) 10 ||| 5, some a⟩
    | none => if m.op == 1 && m.acca && (m.pairs != 1 || !float16 m.fa) then some ⟨7, 7, none⟩ else none

/-! ### Exact accumulation (R45 to R48) -/

/-- A sum so far: an integer times a power of two. -/
abbrev Exact := Int × Int

/-- A signed term added. -/
def Exact.add (x : Exact) (t : Int) (e : Int) : Exact :=
  let l := if x.2 ≤ e then x.2 else e
  (x.1 * 2 ^ (x.2 - l).toNat + t * 2 ^ (e - l).toNat, l)

/-- What a row and column's terms come to. -/
structure Dot where
  /-- an operand is a NaN -/
  nan : Bool := false
  /-- an infinity times a zero -/
  bad : Bool := false
  pos : Bool := false
  neg : Bool := false
  /-- every term so far is −0 -/
  allNeg0 : Bool := true
  sum : Exact := (0, 0)
deriving DecidableEq, Repr

/-- A value taken into a sum. -/
def Dot.take (d : Dot) : Fp.Val → Dot
  | .nan _ => { d with nan := true, allNeg0 := false }
  | .inf n => { d with pos := d.pos || !n, neg := d.neg || n, allNeg0 := false }
  | .num n m e => { d with sum := d.sum.add (Fp.signedInt n m) e, allNeg0 := d.allNeg0 && n && m == 0 }

/-- A product taken into a sum. Products of integers have no negative zero; a zero product of an integer and a float has the sign that
its factors' signs give, an integer 0 counting as +0 (DESIGN CHOICE, assumption 87). -/
def Dot.mul (ints : Bool) (d : Dot) (p : Fp.Val × Fp.Val) : Dot :=
  match Fp.mulVals p.1 p.2 with
  | (.nan _, _) => if p.1.isNan || p.2.isNan then { d with nan := true } else { d with bad := true }
  | (.num n m e, _) => d.take (.num (n && !(ints && m == 0)) m e)
  | (v, _) => d.take v

/-- The result in a format, and the nv and of it records (R45, R46, R250). -/
def Dot.result (g : Fp.Fmt) (d : Dot) : Nat × Bool × Bool :=
  if d.nan then (g.cnan, false, false)
  else if d.bad || (d.pos && d.neg) then (g.cnan, true, false)
  else if d.pos || d.neg then (g.infBits d.neg, false, false)
  else if d.sum.1 = 0 then (g.signed d.allNeg0 0, false, false)
  else
    let (x, f) := Fp.round g 0 false (decide (d.sum.1 < 0)) d.sum.1.natAbs false d.sum.2
    (x, false, f &&& Fp.OF != 0)

/-- One output element of an MMA on floating operands or of an MMAS. -/
def dotFloat (ints : Bool) (acc : Nat) (terms : List (Fp.Val × Fp.Val)) : Nat × Bool × Bool :=
  (terms.foldl (Dot.mul ints) (Dot.take {} (Fp.decode Fp.fp32 acc))).result Fp.fp32

/-- A value as the integer it holds. -/
def intOf : Fp.Val → Int
  | .num n m _ => Fp.signedInt n m
  | _ => 0

/-- One output element of an MMA on INT8 (R47). -/
def dotInt (acc : BitVec 32) (terms : List (Fp.Val × Fp.Val)) : BitVec 32 :=
  acc + BitVec.ofInt 32 (terms.foldl (fun t p => t + intOf p.1 * intOf p.2) 0)

/-! ### Operand tiles (R232) -/

/-- A list cut into `k` pieces of `n`. -/
def pieces {α : Type} (n : Nat) : Nat → List α → List (List α)
  | 0, _ => []
  | k + 1, l => l.take n :: pieces n k (l.drop n)

/-- A block's elements and the blocks after it; none is a decode fault (R32, R33). -/
def ecfBlocks (n : Nat) : Nat → List Byte → Option (List Nat)
  | 0, _ => some []
  | k + 1, bytes =>
    match Ecf.decode n bytes, ecfBlocks n k (bytes.drop (Ecf.blockBytes n bytes)) with
    | some xs, some ys => some (xs ++ ys)
    | _, _ => none

/-- A signed byte. -/
def int8 (b : Byte) : Fp.Val := Fp.ofInt b.toInt

/-- The elements of a slot in row-major order, scales apart. -/
def decodeSlot (f blen : Nat) (bytes : List Byte) : Option (List Fp.Val) :=
  let halves (g : Fp.Fmt) := (pieces 2 1024 bytes).map fun b => Fp.decode g (ofLeBytes b)
  match f with
  | 0x08 => some (halves Fp.fp16)
  | 0x09 => some (halves Fp.bf16)
  | 0x10 | 0x19 => some (bytes.map fun b => Fp.decode Fp.e4m3 b.toNat)
  | 0x11 => some (bytes.map fun b => Fp.decode Fp.e5m2 b.toNat)
  | 0x14 => (ecfBlocks (2 ^ blen) (2048 / 2 ^ blen) bytes).map fun xs => xs.map fun x => Fp.decode Fp.e5m3 x
  | _ => some (bytes.map int8)

/-- An element under its block's scale byte (R34). -/
def underScale (sc : Nat) : Fp.Val → Fp.Val
  | .num n m e => if sc = 0xFF then .nan false else .num n m (e + sc - 127)
  | v => if sc = 0xFF then .nan false else v

/-- A slot's bytes at the unit. -/
def slotBytes (s : State) (m : MCmd) (k i : Nat) : List Byte :=
  match opRing s m.core m.owner m.ten k with
  | none => []
  | some r =>
    let off := r.base + (r.head.toNat + i) % 2 ^ r.n * r.slot
    (List.range r.slot).map fun j => match unitLocal s m.core m.owner (off + j) with
      | some k => homeByte s k
      | none => 0

/-- The rows of an operand of pair `i`: for MMAS each element under its block's scale (R237). -/
def operand (s : State) (m : MCmd) (k f blen scales i : Nat) : Option (List (List Fp.Val)) :=
  (decodeSlot f blen (slotBytes s m k i)).map fun xs =>
    let cols := xs.length / 32
    let rows := pieces cols 32 xs
    if m.op = 2 then
      let b := 2 ^ field (m.w 1) 22 4
      let per := 64 / b
      rows.mapIdx fun r row => row.mapIdx fun j v =>
        let off := scales + i * 32 * per + r * per + j / b
        underScale (match unitLocal s m.core m.owner off with | some k => (homeByte s k).toNat | none => 0xFF) v
    else rows

/-! ### The accumulators (R244) -/

/-- A word of a tile. -/
def accWord (k : Core) (t r c : Nat) : BitVec 32 := Tab.get 0 k.acc (1024 * t + 32 * r + c)

/-- The words of a tile's row. -/
def accRow (k : Core) (t r : Nat) : List (BitVec 32) := (List.range 32).map (accWord k t r)

/-- A tile written whole, row by row. -/
def setTile (k : Core) (t : Nat) (rows : List (List (BitVec 32))) : Core :=
  let new := (rows.flatten.mapIdx fun i x => (1024 * t + i, x)).filter fun p => p.2 != 0
  { k with acc := (k.acc.filter fun p => p.1 < 1024 * t) ++ new ++ k.acc.filter fun p => 1024 * (t + 1) ≤ p.1 }

/-- The nv and of bits of a context's tenant raised (R250). -/
def recordMq (s : State) (m : MCmd) (nv ov : Bool) : State :=
  if nv || ov then
    updCtxAt s m.core m.owner fun x =>
      let q := Tab.get {} x.mq m.ten
      { x with mq := Tab.set { q with nv := q.nv || nv, ov := q.ov || ov } x.mq m.ten }
  else s

/-- The A operand of acca: the source tile converted, and what it records (R238). -/
def accOperand (s : State) (m : MCmd) : List (List Fp.Val) × Bool × Bool :=
  let f := if m.fa = 0x08 then Fp.fp16 else Fp.bf16
  let cv (x : BitVec 32) : Nat × BitVec 5 := Fp.toFloat f 0 m.sat (Fp.decode Fp.fp32 x.toNat)
  let rows := (List.range 32).map fun r => (accRow (coreAt s m.core) m.src r).map cv
  let fl := rows.flatten.foldl (fun a x => a ||| x.2) 0
  (rows.map fun row => row.map fun x => Fp.decode f x.1, fl &&& Fp.NV != 0, fl &&& Fp.OF != 0)

/-- One pair applied to the destination tile (R237); the sign of a zero product of a mixed pair is a choice (assumption 87). -/
def applyPair (s : State) (m : MCmd) (first : Bool) (x y : List (List Fp.Val)) : State :=
  let k := coreAt s m.core
  let base (r : Nat) : List (BitVec 32) := if m.fresh && first then List.replicate 32 0 else accRow k m.dst r
  if m.op = 1 ∧ m.fa = 0x01 then
    updCore s m.core fun k => setTile k m.dst (x.mapIdx fun r row =>
      List.zipWith (fun a col => dotInt a (row.zip col)) (base r) y)
  else
    let ints := m.op == 2 && m.fa == 0x18 && m.fb == 0x18
    let out := x.mapIdx fun r row => List.zipWith (fun a col => dotFloat ints a.toNat (row.zip col)) (base r) y
    let s := recordMq s m (out.any fun row => row.any fun e => e.2.1) (out.any fun row => row.any fun e => e.2.2)
    updCore s m.core fun k => setTile k m.dst (out.map fun row => row.map fun e => BitVec.ofNat 32 e.1)

/-- The pairs of an MMA or MMAS from pair `i` on; a decode fault leaves the pairs before it applied (R237, R243). -/
def runPairs (m : MCmd) : Nat → Nat → State → State × Option MFault
  | 0, _, s => (s, none)
  | n + 1, i, s =>
    let fault (k b : Nat) : MFault := ⟨4, place i 11 ||| place b 10 ||| place k 8 ||| 4, none⟩
    let a := if m.op == 1 && m.acca then
        let c := accOperand s m
        (some c.1, recordMq s m c.2.1 c.2.2)
      else (operand s m m.ra m.fa (field (m.w 1) 0 4) (field (m.w 1) 0 22) i, s)
    match a with
    | (none, s) => (s, some (fault m.ra 0))
    | (some x, s) => match operand s m m.rb m.fb (field (m.w 1) 4 4) (field (m.w 2) 0 22) i with
      | none => (s, some (fault m.rb 1))
      | some y => runPairs m n (i + 1) (applyPair s m (i == 0) x y)

/-! ### MZERO, MLDACC, MSTACC and MPERM (R239 to R241) -/

/-- MZERO. -/
def runZero (s : State) (m : MCmd) : State :=
  (List.range 4).foldl (fun s t => if m.names t then updCore s m.core fun k => setTile k t [] else s) s

/-- MLDACC: widened exactly, or copied. -/
def runLoad (s : State) (m : MCmd) : State :=
  let conv (x : Nat) : Nat × BitVec 5 :=
    match m.fm with
    | 0x08 => Fp.toFloat Fp.fp32 0 false (Fp.decode Fp.fp16 x)
    | 0x09 => Fp.toFloat Fp.fp32 0 false (Fp.decode Fp.bf16 x)
    | _ => (x, 0)
  let rows := (List.range 32).map fun r => ((rowPlaces s m r).getD []).map fun k => conv (homeNat s k m.width)
  let fl := rows.flatten.foldl (fun a x => a ||| x.2) 0
  updCore (recordMq s m (fl &&& Fp.NV != 0) false) m.core fun k =>
    setTile k m.dst (rows.map fun row => row.map fun x => BitVec.ofNat 32 x.1)

/-- MSTACC: rounded under rm, or copied, and written at the homes. -/
def runStore (s : State) (m : MCmd) : State :=
  let conv (x : BitVec 32) : Nat × BitVec 5 :=
    match m.fm with
    | 0x08 => Fp.toFloat Fp.fp16 m.rm m.msat (Fp.decode Fp.fp32 x.toNat)
    | 0x09 => Fp.toFloat Fp.bf16 m.rm m.msat (Fp.decode Fp.fp32 x.toNat)
    | _ => (x.toNat, 0)
  let out := (List.range 32).map fun r =>
    ((rowPlaces s m r).getD []).zip ((accRow (coreAt s m.core) m.dst r).map conv)
  let fl := out.flatten.foldl (fun a x => a ||| x.2.2) 0
  let s := recordMq s m (fl &&& Fp.NV != 0) (fl &&& Fp.OF != 0)
  out.flatten.foldl (fun s x => setHomes s x.1 (leBytes m.width x.2.1)) s

/-- Entry `j` of MPERM's list: its index, when valid. -/
def permEntry (m : MCmd) (j : Nat) : Option Nat :=
  let v := ((m.w 3 ++ m.w 2 ++ m.w 1 : BitVec 192).extractLsb' (6 * j) 6)
  if v.getLsbD 5 then some (v.toNat % 32) else none

/-- MPERM: side 0 routes rows, side 1 columns (R241). -/
def runPerm (s : State) (m : MCmd) : State :=
  let k := coreAt s m.core
  let src := field (m.w 0) 24 2
  let side := (m.w 0).getLsbD 26
  let rows := (List.range 32).map fun r => (List.range 32).map fun c =>
    match permEntry m (if side then c else r) with
    | some x => if side then accWord k src r x else accWord k src x c
    | none => 0
  updCore s m.core fun k => setTile k m.dst rows

/-- The fault-table entries of the pages of a command's rows closed, their walks having succeeded (R330). -/
def walkedRows (s : State) (m : MCmd) : State :=
  if m.glb && (m.op == 4 || m.op == 5) then
    (List.range 32).foldl (fun s r =>
      let a := m.addr + r * m.pitch
      walked (walked s m.owner m.sup a) m.owner m.sup (a + 31 * m.width)) s
  else s

/-- What a command that has passed its static checks does. -/
def runCmd (s : State) (m : MCmd) : State × Option MFault :=
  let s := walkedRows s m
  match m.op with
  | 3 => (runZero s m, none)
  | 4 => (runLoad s m, none)
  | 5 => (runStore s m, none)
  | 6 => (runPerm s m, none)
  | _ => runPairs m m.pairs 0 s

/-! ### The end of a command (R242, R243) -/

/-- A tenant queue. -/
def tenantQueue (s : State) (c ten : Nat) : List MCmd := Tab.get [] (coreAt s c).mqueues ten

/-- The commands of a tenant queue whose owner runs on the core; those of an owner swapped out are saved with it
(R350). -/
def activeQueue (s : State) (c ten : Nat) : List MCmd :=
  (tenantQueue s c ten).filter fun m => m.owner == (coreAt s c).active

/-- A tenant queue changed. -/
def updTenant (s : State) (c ten : Nat) (f : List MCmd → List MCmd) : State :=
  updCore s c fun k => { k with mqueues := Tab.set (f (Tab.get [] k.mqueues ten)) k.mqueues ten }

/-- The thread that pushed a command changed, if it still exists, also while its owner is swapped out (R350). -/
def updPusher (s : State) (m : MCmd) (f : Thread → Thread) : State := updUid s m.core m.uid f

/-- A completion element (R242). -/
def completion (m : MCmd) (outcome : BitVec 2) (reason : BitVec 8) : Word :=
  place m.tag 48 ||| place m.seq.toNat 16 ||| place reason.toNat 8 ||| place outcome.toNat 0

/-- The queue bound to a context's completion output. -/
def completionQueue (s : State) (c o ten : Nat) : Option Nat :=
  boundQueue (ctxAt s c o) fun d => bindKind d == 2 && bindTenant d == ten

/-- The element posted to the bound queue or the internal FIFO, where that has room. -/
def postElem (s : State) (c o ten : Nat) (e : Word) : Option State :=
  match completionQueue s c o ten with
  | some n =>
    let q := queueAt s c o n
    if q.elems.length < 16 ∧ q.pending = [] then some (putElem s c o n e) else none
  | none =>
    if (Tab.get {} (ctxAt s c o).mq ten).fifo.length < 16 then
      some (updCtxAt s c o fun x =>
        let m := Tab.get {} x.mq ten
        { x with mq := Tab.set { m with fifo := m.fifo ++ [e] } x.mq ten })
    else none

/-- A held element of a tenant: an ended command that keeps its entry. -/
def holdsElem (s : State) (c ten : Nat) : Bool := (activeQueue s c ten).any fun m => !m.live

/-- A command, found by its thread and dispatch number. -/
def sameCmd (m n : MCmd) : Bool := m.uid == n.uid && m.seq == n.seq

/-- A command ends: its ring entry, and its element posted, held with its queue entry, or none (R242, R243). -/
def endCmd (s : State) (m : MCmd) (outcome : BitVec 2) (reason : BitVec 8) : State :=
  let s := updPusher s m fun t =>
    ringEnd t m.seq (match outcome.toNat with | 0 => 1 | 1 => 2 | _ => 3) (if outcome = 1 then Cause.matfault else 0)
  let gone (s : State) : State := updTenant s m.core m.ten fun q => q.filter fun n => !sameCmd m n
  if !m.tok then gone s
  else
    let held := (tenantQueue s m.core m.ten).any fun n => n.owner == m.owner && !n.live
    match if held then none else postElem s m.core m.owner m.ten (completion m outcome reason) with
    | some s => gone s
    | none =>
      let (n, s) := fresh s
      updTenant s m.core m.ten fun q => q.map fun x => if sameCmd m x then { x with st := .ended outcome reason n } else x

/-- A command faulted: MATFAULT late in its thread, MFADDR, and the thread's later commands of the queue cancelled
(R243). -/
def faultCmd (s : State) (m : MCmd) (f : MFault) : State :=
  let s := updPusher s m fun t =>
    let t := addLate t ⟨m.seq, Cause.matfault, f.value⟩
    match f.addr with
    | some a => { t with mfaddr := place a 0 }
    | none => t
  let later := ((tenantQueue s m.core m.ten).dropWhile fun n => !sameCmd m n).filter fun n =>
    n.live && n.uid == m.uid && n.seq != m.seq
  let s := endCmd s m 1 (BitVec.ofNat 8 f.reason)
  later.foldl (fun s n => endCmd s n 2 0) s

/-- The queued commands of a kernel discarded at its deadline (R204, R258). -/
def discardCmds (s : State) (o kid : Nat) : State :=
  s.cores.foldl (fun s c =>
    ((allCmds c.2).filter fun m => m.st == .queued && m.owner == o && m.kid == kid).foldl (fun s m => endCmd s m 3 0) s) s

/-! ### Starting and retiring (R230, R231, R237, R343) -/

/-- The first command of a tenant queue that has not ended. -/
def headCmd (s : State) (c ten : Nat) : Option MCmd := (activeQueue s c ten).find? MCmd.live

/-- A command of a tenant runs. -/
def tenantRuns (s : State) (c ten : Nat) : Bool := (activeQueue s c ten).any fun m => m.st == .running

/-- The worst-case time of a command (R343), none for one that never starts in a Lead. -/
def worstTime (k : Core) (m : MCmd) : Option Nat :=
  let per := if k.rowSplit then 128 else 64
  match m.op with
  | 1 | 2 => some (m.pairs * per)
  | 6 => some per
  | 4 | 5 => if m.glb then none else some 64
  | _ => some 8

/-- A stack's Lead lasts long enough for a command, or the stack is in no Lead (R343). -/
def leadAllows (s : State) (m : MCmd) : Bool :=
  match (stackAt s (stackOf m.core)).rot with
  | .pausing .. => false
  | .lead _ started => match worstTime (coreAt s m.core) m with
    | some w => s.cycle + w ≤ started + 33000
    | none => false
  | _ => true

/-- The head of a tenant queue that is ready to start: nothing of the tenant runs or is held, and its rings hold its
tiles. -/
def readyCmd (s : State) (c ten : Nat) : Option MCmd :=
  match headCmd s c ten with
  | none => none
  | some m => if m.st == .queued && !holdsElem s c ten && ringsReady s m && leadAllows s m then some m else none

/-- The command that a tenant may start now: in full mode one at a time, the tenants taking turns (R230, R231). -/
def startable (s : State) (c ten : Nat) : Option MCmd :=
  let k := coreAt s c
  let other := 1 - ten
  if k.rowSplit || (!tenantRuns s c other && ((readyCmd s c other).isNone || k.lastTen != ten)) then readyCmd s c ten
  else none

/-- The work of a command, in sixteenths of a full-rate step (R260). -/
def cmdWork (k : Core) (m : MCmd) : Nat :=
  let per := if k.rowSplit then 32 else 16
  match m.op with
  | 1 | 2 => m.pairs * per
  | 6 => per
  | _ => 16

/-- A command started: Running, its checks, and its work on the tiles and memory. -/
def startCmd (s : State) (m : MCmd) : State :=
  let m' := { m with st := .running, left := cmdWork (coreAt s m.core) m }
  let s := updTenant s m.core m.ten fun q => q.map fun n => if sameCmd m n then m' else n
  let s := updCore s m.core fun k => { k with lastTen := m.ten }
  match staticFault s m' with
  | some f => faultCmd s m' f
  | none => match runCmd s m' with
    | (s, some f) => faultCmd s m' f
    | (s, none) => s

/-- The head of a tenant queue, of the ops given, starts (R230, R235). -/
def startOp (core ten : Nat) (ops : Nat → Bool) (s : State) : Out :=
  event s <| match startable s core ten with
    | some m => if ops m.op && ten < 2 then some (startCmd s m) else none
    | none => none

/-- MMA starts and runs (R237); a command with an invalid op, which is no command's, faults here too (R235). -/
def execMma (core ten : Nat) (s : State) : Out := startOp core ten (fun o => o == 1 || o == 0 || 7 ≤ o) s

/-- MMAS (R237). -/
def execMmas (core ten : Nat) (s : State) : Out := startOp core ten (fun o => o == 2) s

/-- MZERO (R239). -/
def execMzero (core ten : Nat) (s : State) : Out := startOp core ten (fun o => o == 3) s

/-- MLDACC (R240). -/
def execMldacc (core ten : Nat) (s : State) : Out := startOp core ten (fun o => o == 4) s

/-- MSTACC (R240). -/
def execMstacc (core ten : Nat) (s : State) : Out := startOp core ten (fun o => o == 5) s

/-- MPERM (R241). -/
def execMperm (core ten : Nat) (s : State) : Out := startOp core ten (fun o => o == 6) s

/-- `n` slots of one operand popped from a ring (R237). -/
def popRing (m : MCmd) (s : State) (k : Nat) : State :=
  match opRing s m.core m.owner m.ten k with
  | none => s
  | some r =>
    let h := r.head + BitVec.ofNat 16 m.pairs
    updCtxAt s m.core m.owner fun x => { x with rings := Tab.set { r with head := h } x.rings (4 * m.ten + k) }

/-- The element of kind 4 for a ring from which a retirement has popped: its new head (R255). -/
def postHead (m : MCmd) (s : State) (k : Nat) : State :=
  match opRing s m.core m.owner m.ten k,
      boundQueue (ctxAt s m.core m.owner) fun d => bindKind d == 4 && bindTenant d == m.ten && bindRing d == k with
  | some r, some n => engineOut s m.core m.owner n (place k 16 ||| place r.head.toNat 0)
  | _, _ => s

/-- The rings from which a retirement pops, one for each operand that is not held (R237). -/
def MCmd.pops (m : MCmd) : List Nat :=
  (if m.mul && !m.ha && !(m.op == 1 && m.acca) then [m.ra] else []) ++ if m.mul && !m.hb then [m.rb] else []

/-- A running command retired (R237, R250). -/
def retireCmd (s : State) (m : MCmd) : State :=
  let s := m.pops.eraseDups.foldl (postHead m) (m.pops.foldl (popRing m) s)
  let s := updCtxAt s m.core m.owner fun x =>
    let q := Tab.get {} x.mq m.ten
    { x with mq := Tab.set { q with ret := q.ret + 1 } x.mq m.ten }
  endCmd s m 0 0

/-- RETIRE: a running command whose work is done ends (R237). -/
def execRetire (core ten : Nat) (s : State) : Out :=
  event s <| match (tenantQueue s core ten).find? fun m => m.st == .running with
    | some m => if m.left = 0 then some (retireCmd s m) else none
    | none => none

/-- The ended command of a tenant whose element is posted next: the one that ended first (R242). -/
def firstEnded : List MCmd → Option (MCmd × BitVec 2 × BitVec 8 × Nat)
  | [] => none
  | m :: ms => match m.st, firstEnded ms with
    | .ended o r n, some x => if x.2.2.2 < n then some x else some (m, o, r, n)
    | .ended o r n, none => some (m, o, r, n)
    | _, x => x

/-- COMPLETION_POST: a held element is posted once its destination has room (R242). -/
def execCompletionPost (core o ten : Nat) (s : State) : Out :=
  event s <| match firstEnded ((tenantQueue s core ten).filter fun m => m.owner == o) with
    | none => none
    | some (m, oc, r, _) => (postElem s core o ten (completion m oc r)).map fun s =>
        updTenant s core ten fun q => q.filter fun n => !sameCmd m n

/-! ### Vertical exclusion (R20, R21, R260) -/

/-- The core whose content stands at a site of a stack. -/
def siteCore (s : State) (stack layer col tc : Nat) : Nat :=
  let n := (stackAt s stack).rotn
  (((List.range 32).map fun i => 512 * stack + 64 * (i / 4) + 16 * (i % 4) + tc).find? fun c =>
    layerOf c n == layer && columnOf c n == col).getD 4096

/-- The duty of a core's unit, in sixteenths (R383). -/
def unitDuty (s : State) (c : Nat) : Nat := (ownerAt s (coreAt s c).active).duty

/-- A command executing: Running with work left. -/
def MCmd.executes (m : MCmd) : Bool := m.st == .running && m.left != 0

/-- A unit has a command executing or ready to start (R20). -/
def unitBusy (s : State) (c : Nat) : Bool :=
  (allCmds (coreAt s c)).any MCmd.executes || [0, 1].any fun ten => (readyCmd s c ten).isSome

/-- A unit asks for full rate (R20, R21). -/
def asksFull (s : State) (c : Nat) : Bool := decide (8 < unitDuty s c) && unitBusy s c

/-- A limit recorded for an owner (R320, R321). -/
def recordLimit (s : State) (o : Nat) (b : BitVec 5) : State :=
  updOwnerAt s o fun w => { w with thr := w.thr ||| b, thrNow := w.thrNow ||| b }

/-- The limits of a step recorded for the owner of each command that runs in a unit (R21, R260, R321). -/
def recordStep (s : State) (c : Nat) (limits : Owner → BitVec 5) : State :=
  (((allCmds (coreAt s c)).filter MCmd.executes).map MCmd.owner).eraseDups.foldl (fun s o => recordLimit s o (limits (ownerAt s o))) s

/-- Every command running in a unit advances by a rate (R20). -/
def advance (s : State) (c rate : Nat) : State :=
  [0, 1].foldl (fun s ten => updTenant s c ten fun q => q.map fun m =>
    if m.st == .running then { m with left := m.left - rate } else m) s

/-- A step at the rate of the unit's duty: a duty below 16 lowers it, and the limits that hold the duty are recorded (R21,
R321). -/
def dutyStep (s : State) (c : Nat) : State :=
  let s := if unitDuty s c < 16 then recordStep s c Owner.heldBy else s
  advance s c (unitDuty s c)

/-- The loser of a contest: half rate, recorded (R20, R21). Its duty lies above that rate. -/
def loseStep (s : State) (c : Nat) : State := advance (recordStep s c fun _ => 0x10) c 8

/-- The commands that are ready at a step's first clk start (R20, R230). -/
def startReady (s : State) (c : Nat) : State :=
  [0, 1].foldl (fun s ten => match startable s c ten with
    | some m => startCmd s m
    | none => s) s

/-- The commands of a unit whose work is done retire (R237). -/
def retireDone (s : State) (c : Nat) : State :=
  ((allCmds (coreAt s c)).filter fun m => m.st == .running && m.left == 0).foldl retireCmd s

/-- The number of an exclusion pair of a site. -/
def pairIndex (stack pair col tc : Nat) : Nat := 256 * stack + 128 * pair + 16 * col + tc

/-- A matrix step of an exclusion pair: layers 2p and 2p + 1 of a site. The commands ready at its first clk start. The unit denied
most recently wins a contest; with a cleared record the upper one does (R20). -/
def matrixStep (s : State) (stack pair col tc : Nat) : State :=
  let lo := siteCore s stack (2 * pair) col tc
  let hi := siteCore s stack (2 * pair + 1) col tc
  let n := pairIndex stack pair col tc
  let contest := asksFull s lo && asksFull s hi
  let s := startReady (startReady s lo) hi
  let s := { s with stepped := n :: s.stepped }
  if contest then
    if Tab.find s.denied n = some (2 * pair) then
      let s := loseStep (dutyStep s lo) hi
      { s with denied := Tab.set (2 * pair + 1) s.denied n }
    else
      let s := loseStep (dutyStep s hi) lo
      { s with denied := Tab.set (2 * pair) s.denied n }
  else dutyStep (dutyStep s lo) hi

/-- A unit of a stack executes a command. -/
def stackExecutes (s : State) (n : Nat) : Bool := s.cores.any fun c => stackOf c.1 == n && (allCmds c.2).any MCmd.executes

/-- A step of a pair may begin: CYCLE is a multiple of 32, the pair's step of this CYCLE has not begun, and its stack stands in no
pause, or in the phase of one in which Running commands complete (R20, R319, R349). -/
def mayStep (s : State) (stack pair col tc : Nat) : Bool :=
  stack < 4 && pair < 2 && col < 8 && tc < 16 && s.cycle % 32 == 0 && !s.stepped.contains (pairIndex stack pair col tc)
    && (!pausing s stack || stackExecutes s stack)

/-- MATRIX_STEP (R20, R319). -/
def execMatrixStep (stack pair col tc : Nat) (s : State) : Out :=
  event s (if mayStep s stack pair col tc then some (matrixStep s stack pair col tc) else none)

/-- The matrix step of the pair to which a core's site belongs. -/
def stepOfCore (s : State) (c : Nat) : State :=
  let n := (stackAt s (stackOf c)).rotn
  let pair := layerOf c n / 2
  if mayStep s (stackOf c) pair (columnOf c n) (c % 16) then matrixStep s (stackOf c) pair (columnOf c n) (c % 16) else s

/-- The cores with a unit that has work. -/
def busyUnits (s : State) : List Nat := (s.cores.filter fun c => allCmds c.2 != [] && unitBusy s c.1).map Prod.fst

/-- The matrix steps of this CYCLE that have not begun, for the units with work (R319); then what is done retires. -/
def stepAll (s : State) : State :=
  let l := busyUnits s
  l.foldl retireDone (l.foldl stepOfCore s)

/-! ### The intervals of the limits (R320, R321, R383) -/

/-- The cap of an owner's class; 0 for none. -/
def classCap (s : State) (o : Owner) : Nat := Tab.get 0 s.sys.classCaps o.capCls

/-- The smallest nonzero of two caps, 0 for none. -/
def smallestCap (a b : Nat) : Nat := if a = 0 then b else if b = 0 then a else Nat.min a b

/-- CAPW.cap: the lowest cap in force for an owner, 0xFFFF for none (R321, R383). -/
def capInForce (s : State) (o : Owner) : Nat := let l := smallestCap (classCap s o) o.capOwn; if l = 0 then 0xFFFF else l

/-- The clk of a 10-µs interval. -/
def intervalClk : Nat := 33000

/-- The ends of `n` 10-µs intervals: cur shows the limits that held the owner during the last, and tcnt counts those in which
one did (R321). A limit that lowered the duty holds the owner until it is back at full duty. -/
def closeIntervals (n : Nat) (o : Owner) : Owner :=
  let first := o.thrNow ||| o.heldBy
  let count (b : BitVec 5) (n : Nat) : BitVec 32 := if b = 0 then 0 else BitVec.ofNat 32 n
  if n = 0 then o
  else { o with thrCur := if n = 1 then first else o.heldBy, tcnt := o.tcnt + count first 1 + count o.heldBy (n - 1), thrNow := 0 }

/-- The 10-µs intervals that end as CYCLE has risen from `before`, at which the caps written since take effect (R321, R382). -/
def endIntervals (before : Nat) (s : State) : State :=
  let n := s.cycle / intervalClk - before / intervalClk
  if n = 0 then s
  else { s with owners := Tab.mapAll (fun _ o => closeIntervals n { o with cap := capInForce s o }) s.owners }

/-- CYCLE `n` higher, with the intervals that end. -/
def raiseCycle (n : Nat) (s : State) : State := endIntervals s.cycle { s with cycle := s.cycle + n, stepped := [] }

/-- `n` clk pass on CYCLE, with the matrix steps that begin at its multiples of 32 (R319), each in its interval (R321). -/
def runSteps : Nat → Nat → State → State
  | 0, n, s => raiseCycle n s
  | f + 1, n, s =>
    if n = 0 then s
    else if busyUnits s = [] then raiseCycle n s
    else
      let s := if s.cycle % 32 = 0 then stepAll s else s
      let d := min n (32 - s.cycle % 32)
      runSteps f (n - d) (raiseCycle d s)

/-! ### The instructions (R245 to R249) -/

/-- An MSPLIT waits on a core (R249). -/
def splitWaits (s : State) (c : Nat) : Bool :=
  (coreAt s c).threads.any fun t => t.2.st == .blocked && match t.2.wait with | some (.msplit _, _) => true | _ => false

/-- The command of the current thread. -/
def cmdOf (s : State) (words : List Word) (seq : BitVec 16) : MCmd :=
  let t := thr s
  { words := words, owner := t.owner, ten := tenant s, core := s.core, slot := s.slot, uid := t.uid, kid := t.kid,
    sup := t.sup, seq := seq, st := .queued, left := 0 }

/-- The tiles of a mask that another context holds, or whose spill is in progress (R245). -/
def foreignTiles (s : State) (mask : Nat) : Nat :=
  (List.range 4).foldl (fun n t =>
    let a := Tab.get {} (coreAt s s.core).accown t
    if mask / 2 ^ t % 2 = 1 ∧ (a.sp ∨ (a.v ∧ (a.own ≠ (thr s).owner ∨ a.ten ≠ tenant s))) then n + 2 ^ t else n) 0

/-- The unowned tiles of a mask claimed for the current context. -/
def claimTiles (s : State) (mask : Nat) : State :=
  let o := (thr s).owner
  let ten := tenant s
  updCore s s.core fun k => { k with accown := (List.range 4).foldl (fun a t =>
    if mask / 2 ^ t % 2 = 1 ∧ !(Tab.get {} a t).v then Tab.set { v := true, ten := ten, own := o } a t else a) k.accown }

/-- The last steps of MPUSH: the release, room, the dispatch number, the command appended. -/
def pushCmd (d : BitVec 6) (words : List Word) (s : State) : Act (Option Word) :=
  ((release s).holding (.command words)).bind fun _ s =>
  if 16 ≤ (activeQueue s s.core (tenant s)).length || splitWaits s s.core then .wait (.command words) s
  else
    let (seq, s) := dispatchSeq s 1
    let m := cmdOf s words seq
    .ok none (wg (updTenant s s.core (tenant s) fun q => q ++ [m]) d (zx seq))

/-- MPUSH (R245). A 33rd dispatch stalls (R157). -/
def execMpush (d a : BitVec 6) (s : State) : Out :=
  instr (.mpush d a) {} [G d, G a] [] s fun s =>
    if 32 ≤ dispatchesOut s then .leave s
    else match copied (thr s) with
      | some ws => pushCmd d ws s
      | none =>
        (address s (rg s a) 0 64 0 { r := true }).bind fun l s => (loadWords s l.2.key 8).bind fun ws s =>
          let mask := tileMask (cmdOf s ws 0)
          let bad := foreignTiles s mask
          if bad ≠ 0 then .trap Cause.accown (place bad 0) s
          else pushCmd d ws (claimTiles s mask)

/-- MPOP: the bound queue as QPOP pops it, or the internal FIFO (R246). -/
def execMpop (d : BitVec 6) (s : State) : Out :=
  instr (.mpop d) {} [G d] [] s fun s =>
    match mpopQueue (ctx s) (thr s) with
    | some n => popAct d.toNat (BitVec.ofNat 4 n) true s
    | none => match (Tab.get {} (ctx s).mq (tenant s)).fifo with
      | [] => .wait .retry s
      | e :: es =>
        let ten := tenant s
        .ok none (wg (updCtx s fun x => { x with mq := Tab.set { Tab.get {} x.mq ten with fifo := es } x.mq ten }) d e)

/-- MWAIT (R247). -/
def execMwait (d a : BitVec 6) (s : State) : Out :=
  instr (.mwait d a) {} [G d, G a] [] s fun s =>
    let n := cmdsOut s s.core (thr s).uid
    if n ≤ (rg s a).toNat then .ok none (wg s d (BitVec.ofNat 64 n)) else .wait .retry s

/-- The outstanding commands as MSTAT's five bits hold them; the spec states no value for 32 (assumption 64). -/
def mstatCount (s : State) : Nat × State :=
  let n := cmdsOut s s.core (thr s).uid
  if n < 32 then (n, s) else let (x, s) := draw s; (x.toNat % 32, s)

/-- MSTAT (R248). -/
def execMstat (d a : BitVec 6) (s : State) : Out :=
  instr (.mstat d a) {} [G d, G a] [] s fun s =>
    let ten := if (rg s a).getLsbD 0 then 1 else 0
    let (n, s) := mstatCount s
    .ok none (wg s d (place (Tab.get {} (ctx s).mq ten).fifo.length 21 ||| place n 16
      ||| place (if (coreAt s s.core).rowSplit then 1 else 0) 7 ||| place (if splitWaits s s.core then 1 else 0) 6
      ||| place (if tenantRuns s s.core ten then 1 else 0) 5 ||| place (activeQueue s s.core ten).length 0))

/-- MSPLIT (R249). -/
def execMsplit (a : BitVec 6) (s : State) : Out :=
  instr (.msplit a) { priv := !(thr s).sup } [G a] [] s fun s =>
    if activeQueue s s.core 0 = [] ∧ activeQueue s s.core 1 = [] then
      let b := (rg s a).getLsbD 0
      .ok none (updCore s s.core fun k => { k with rowSplit := b })
    else .wait .retry s

/-! ### Ring instructions (R251 to R254) -/

/-- A RING trap of the current thread's tenant. -/
def ringTrap (s : State) (reason : Nat) (k : BitVec 2) : Act (Option Word) :=
  .trap Cause.ring (place (tenant s) 10 ||| place k.toNat 8 ||| place reason 0) s

/-- The current context's ring k. -/
def myRing (s : State) (k : BitVec 2) : Option OpRing := opRing s s.core (thr s).owner (tenant s) k.toNat

/-- That ring written. -/
def setRing (s : State) (k : BitVec 2) (r : OpRing) : State :=
  let n := 4 * tenant s + k.toNat
  updCtx s fun x => { x with rings := Tab.set r x.rings n }

/-- That ring is named by a command. -/
def myRingNamed (s : State) (k : BitVec 2) : Bool := ringNamed s s.core (thr s).owner (tenant s) k.toNat

/-- RGDEF; n = 7 is a reserved value and counts as a reserved bit (R251). -/
def execRgdef (a : BitVec 6) (k : BitVec 2) (s : State) : Out :=
  instr (.rgdef a k) {} [G a] [] s fun s =>
    let busy := (match myRing s k with | some r => r.filled != 0 | none => false) || myRingNamed s k
    if a = 0 then
      if (myRing s k).isNone then .ok none s
      else if busy then ringTrap s 3 k
      else
        let n := 4 * tenant s + k.toNat
        .ok none (updCtx s fun x => { x with rings := Tab.del x.rings n })
    else
      let w := rg s a
      let r : OpRing := { base := field w 10 12 * 1024, n := field w 22 3, big := w.getLsbD 25 }
      if !zeroBits w 9 0 ∨ !zeroBits w 63 26 ∨ r.n = 7 then ringTrap s 1 k
      else if lsLimit s s.core (thr s).owner < r.base + 2 ^ r.n * r.slot then ringTrap s 2 k
      else if busy then ringTrap s 3 k
      else .ok none (setRing s k r)

/-- RGPUSH (R252). -/
def execRgpush (a : BitVec 6) (k : BitVec 2) (s : State) : Out :=
  instr (.rgpush a k) {} [G a] [] s fun s =>
    match myRing s k with
    | none => ringTrap s 5 k
    | some r =>
      let n := rg s a
      if 2 ^ r.n - r.filled < n.toNat then ringTrap s 4 k
      else (release s).bind fun _ s => .ok none (setRing s k { r with tail := r.tail + n.setWidth 16 })

/-- RGSTAT (R253). -/
def execRgstat (d : BitVec 6) (k : BitVec 2) (s : State) : Out :=
  instr (.rgstat d k) {} [G d] [] s fun s =>
    .ok none (wg s d (match myRing s k with
      | none => 0
      | some r => place (if myRingNamed s k then 1 else 0) 37 ||| place 1 36 ||| place (if r.big then 1 else 0) 35
          ||| place r.n 32 ||| place r.tail.toNat 16 ||| place r.head.toNat 0))

/-- RGRST (R254). -/
def execRgrst (k : BitVec 2) (s : State) : Out :=
  instr (.rgrst k) {} [] [] s fun s =>
    match myRing s k with
    | none => ringTrap s 5 k
    | some r => if myRingNamed s k then ringTrap s 3 k else .ok none (setRing s k { r with head := 0, tail := 0 })

/-! ### Spilling and filling (R256) -/

/-- The place of a supervisor save area: SAVEFAULT without a translation, which the rank window never has (R325), ACCESS for a page
that is not save-area. -/
def saveArea (s : State) (a : Nat) (need : Need) : Act Nat :=
  let o := (thr s).owner
  let v := BitVec.ofNat 64 a
  if inWindow a then .trap Cause.savefault v s
  else match walk s o true a need with
  | .page k => .trap Cause.savefault v (threadFault s o true a k)
  | .access => .trap Cause.access v s
  | .noMemory => .stop .noSuchMemory
  | .found tier pa pinned =>
    if !pinned then .trap Cause.access v s
    else match placeOf tier pa with
      | none => .stop .noSuchMemory
      | some k => .ok k (walked s o true a)

/-- MSPA's fields. -/
def mspaTile (w : Word) : Nat := field w 10 2
def mspaArea (w : Word) : Nat := field w 12 40 * 4096

/-- ACCOWN's entry of a tile written. -/
def setOwn (s : State) (t : Nat) (a : AccTile) : State :=
  updCore s s.core fun k => { k with accown := Tab.set a k.accown t }

/-- A tile's sp bit. -/
def setSp (s : State) (t : Nat) (b : Bool) : State := setOwn s t { Tab.get {} (coreAt s s.core).accown t with sp := b }

/-- The bytes of a tile's save area. -/
def tileBytes (k : Core) (t : Nat) : List Byte :=
  (((List.range 32).map fun r => accRow k t r).flatten.map fun w => leBytes 4 w.toNat).flatten

/-- The tile that a waiting MSPILL took, and the place of its area, once that is checked. -/
def spilling (t : Thread) : Option (Nat × Option Nat) :=
  if t.st == .blocked then match t.wait with | some (_, .spilling n k) => some (n, k) | _ => none else none

/-- The last steps of MSPILL, past its wait and its check: the release, the tile written and cleared (R256). -/
def spillTile (t k : Nat) (s : State) : Act (Option Word) :=
  ((release s).holding (.spilling t (some k))).bind fun _ s =>
    let s := writeThrough s k (tileBytes (coreAt s s.core) t)
    .ok none (setOwn (updCore s s.core fun k => setTile k t []) t {})

/-- MSPILL: it takes its tile once, before it waits, and checks its area once, after that (R256). -/
def execMspill (s : State) : Out :=
  instr .mspill { priv := !(thr s).sup } [] [] s fun s =>
    match spilling (thr s) with
    | some (t, some k) => spillTile t k s
    | w =>
      let t := (w.map Prod.fst).getD (mspaTile (coreAt s s.core).mspa)
      let s := setSp s t true
      if (allCmds (coreAt s s.core)).any fun m => m.live && m.names t then .wait (.spilling t none) s
      else match saveArea s (mspaArea (coreAt s s.core).mspa) { w := true } with
        | .trap c v s => .trap c v (setSp s t false)
        | .ok k s => spillTile t k s
        | .wait k s => .wait k s
        | .leave s => .leave s
        | .stop f => .stop f

/-- MFILL (R256). -/
def execMfill (s : State) : Out :=
  instr .mfill { priv := !(thr s).sup } [] [] s fun s =>
    let w := (coreAt s s.core).mspa
    let t := mspaTile w
    if (Tab.get {} (coreAt s s.core).accown t).v then .trap Cause.accown (place 1 t) s
    else if field w 0 8 = 0 then .trap Cause.access w s
    else (saveArea s (mspaArea w) { r := true }).bind fun k s => (loadBytes s false k 4096).bind fun bytes s =>
      let rows := pieces 32 32 ((pieces 4 1024 bytes).map fun b => BitVec.ofNat 32 (ofLeBytes b))
      let s := updCore s s.core fun c => setTile c t rows
      .ok none (setOwn s t { v := true, ten := field w 8 1, own := field w 0 8 })

end Sys2Proof.Machine
end

