-- ==== Sys2Proof/Machine/Branch.lean ====
section
/-! DEFINITION. Branches, jumps and loops (R91 to R95). In a gang the leader alone evaluates conditions and targets; a
follower writes its own registers and takes the PC its leader gives it. -/

namespace Sys2Proof.Machine

/-- A conditional branch: taken to the target of R53 when the condition holds (R91). -/
def branchOn (off : Int) (cond : Bool) (s : State) : Act (Option Word) :=
  if isFollower s || !cond then .ok none s
  else (branchTarget s off).bind fun t s => .ok (some t) s

/-- A conditional branch of two registers, its offset in halfwords (R91). -/
def branch (i : Instr) (a b : BitVec 6) (off : BitVec 13) (f : Word → Word → Bool) (s : State) : Out :=
  instr i {} [G a, G b] [] s fun s => branchOn (2 * off.toInt) (f (rg s a) (rg s b)) s

/-- BEQ: taken when a = b (R91). -/
def execBeq (a b : BitVec 6) (o : BitVec 13) (s : State) : Out := branch (.beq a b o) a b o (fun a b => a == b) s

/-- BNE: taken when a ≠ b (R91). -/
def execBne (a b : BitVec 6) (o : BitVec 13) (s : State) : Out := branch (.bne a b o) a b o (fun a b => a != b) s

/-- BLT: taken when s(a) < s(b) (R91). -/
def execBlt (a b : BitVec 6) (o : BitVec 13) (s : State) : Out := branch (.blt a b o) a b o (fun a b => a.slt b) s

/-- BGE: taken when s(a) ≥ s(b) (R91). -/
def execBge (a b : BitVec 6) (o : BitVec 13) (s : State) : Out := branch (.bge a b o) a b o (fun a b => !a.slt b) s

/-- BLTU: taken when a < b as unsigned (R91). -/
def execBltu (a b : BitVec 6) (o : BitVec 13) (s : State) : Out := branch (.bltu a b o) a b o (fun a b => a.ult b) s

/-- BGEU: taken when a ≥ b as unsigned (R91). -/
def execBgeu (a b : BitVec 6) (o : BitVec 13) (s : State) : Out := branch (.bgeu a b o) a b o (fun a b => !a.ult b) s

/-- J (R92). -/
def execJ (o : BitVec 25) (s : State) : Out :=
  instr (.j o) {} [] [] s fun s => branchOn (2 * o.toInt) true s

/-- JAL: g10 takes the return address, then the jump; nothing is written when the target traps (R92). -/
def execJal (o : BitVec 25) (s : State) : Out :=
  instr (.jal o) {} [] [.g 10] s fun s =>
    let link := pcPlus (thr s).pc 4
    (branchOn (2 * o.toInt) true s).bind fun t s => .ok t (wgn s 10 link)

/-- A jump to a register-supplied target, with the return address `size` after the PC (R93). -/
def jumpReg (d : BitVec 6) (t : Word) (size : Word) (s : State) : Act (Option Word) :=
  let link := pcPlus (thr s).pc size
  if isFollower s then .ok none (wg s d link)
  else (checkTarget s t).bind fun _ s => .ok (some t) (wg s d link)

/-- JALR: the checks of the target, then the return address, then the jump; a is read first (R93). -/
def execJalr (d a : BitVec 6) (i : BitVec 13) (s : State) : Out :=
  instr (.jalr d a i) {} [G d, G a] [] s fun s => jumpReg d (rg s a + sx i) 4 s

/-- LOOP: the counter rises by one and the jump is taken while it stays below the bound; a target trap leaves the
counter (R94). -/
def execLoop (a b : BitVec 6) (o : BitVec 13) (s : State) : Out :=
  instr (.loop a b o) {} [G a, G b] [] s fun s =>
    let n := rg s a + 1
    (branchOn (2 * o.toInt) (n.ult (rg s b)) s).bind fun t s => .ok t (wg s a n)

end Sys2Proof.Machine
end

