-- ==== Sys2Proof/Machine/Transfer.lean ====
section
/-! DEFINITION. Transfers: parameter blocks, streamers, the overflow ring, completion, multicast freeing and transfer
interrupts (R292 to R305). -/

namespace Sys2Proof.Machine

/-! ### The parameter block (R292) -/

/-- A word of a request's block. -/
def XferReq.w (r : XferReq) (i : Nat) : Word := r.block.getD i 0

def XferReq.sglb (r : XferReq) : Bool := (r.w 0).getLsbD 0
def XferReq.dglb (r : XferReq) : Bool := (r.w 0).getLsbD 1
def XferReq.irq (r : XferReq) : Bool := (r.w 0).getLsbD 2
def XferReq.ring (r : XferReq) : Bool := (r.w 0).getLsbD 3
def XferReq.ringK (r : XferReq) : Nat := field (r.w 0) 4 2
def XferReq.ringTen (r : XferReq) : Nat := field (r.w 0) 6 1
def XferReq.tag (r : XferReq) : Nat := field (r.w 0) 16 16
def XferReq.len (r : XferReq) : Nat := field (r.w 3) 0 32
def XferReq.rows (r : XferReq) : Nat := field (r.w 3) 32 16 + 1
def XferReq.sstride (r : XferReq) : Nat := field (r.w 4) 0 32
def XferReq.dstride (r : XferReq) : Nat := field (r.w 4) 32 32
def XferReq.notify (r : XferReq) : Bool := (r.w 7).getLsbD 0
def XferReq.mbx (r : XferReq) : Nat := field (r.w 7) 1 3
def XferReq.cls (r : XferReq) : Nat := field (r.w 7) 4 4
def XferReq.first (r : XferReq) : Nat := field (r.w 7) 8 10
def XferReq.receivers (r : XferReq) : Nat := field (r.w 7) 18 6 + 1

/-- The ranks that receive: an XMCAST's receivers, or the rank of a local destination. -/
def XferReq.ranks (r : XferReq) : List Nat :=
  if r.mcast then (List.range r.receivers).map fun i => r.first + i
  else if r.dglb then [] else [field (r.w 2) 22 10]

/-- The tiles of an XMCAST's receivers. -/
def XferReq.tilesOf (r : XferReq) : List Nat :=
  (List.range 256).filter fun t => r.ranks.any fun q => q / 4 == t

/-- A local row's last byte lies beyond a rank's local store. -/
def rowsLeave (s : State) (o rank off stride rows len : Nat) : Bool :=
  lsLimit s (rankCore (ownerAt s o) rank) o < off + (rows - 1) * stride + len

/-- The reason with which XFER or XMCAST traps, in the order of R295. -/
def xferFault (s : State) (r : XferReq) : Option Nat :=
  let w := r.w
  let n := nrank (ownerAt s r.owner)
  let last := r.first + r.receivers - 1
  if !zeroBits (w 0) 15 7 ∨ !zeroBits (w 0) 63 32 ∨ (!r.sglb ∧ !zeroBits (w 1) 63 32)
      ∨ (!r.dglb ∧ !zeroBits (w 2) 63 32) ∨ !zeroBits (w 3) 63 48 ∨ !zeroBits (w 7) 63 24
      ∨ (!r.mcast ∧ !zeroBits (w 7) 23 8) ∨ (r.notify ∧ r.mbx = 0) ∨ ((r.ring ∨ r.notify) ∧ r.dglb)
      ∨ (r.mcast ∧ (r.dglb ∨ !zeroBits (w 2) 31 22)) ∨ r.len < 8 ∨ 2 ^ 24 < r.len then some 1
  else if !zeroBits (w 1) 2 0 ∨ !zeroBits (w 2) 2 0 ∨ r.len % 8 ≠ 0 ∨ r.sstride % 8 ≠ 0 ∨ r.dstride % 8 ≠ 0 then some 2
  else if (!r.sglb ∧ n ≤ field (w 1) 22 10) ∨ (r.ranks.any fun q => n ≤ q) ∨ (r.mcast ∧ r.first / 64 ≠ last / 64) then some 3
  else if (!r.sglb ∧ rowsLeave s r.owner (field (w 1) 22 10) (field (w 1) 0 22) r.sstride r.rows r.len)
      ∨ (r.ranks.any fun q => rowsLeave s r.owner q (field (w 2) 0 22) r.dstride r.rows r.len) then some 4
  else if r.irq ∧ !codeAddress (w 5) then some 5
  else if 2 ≤ r.rows ∧ r.dstride < r.len then some 6
  else none

/-! ### Streamers (R294, R296) -/

/-- The streamer of a request: a core's, numbered as the core, or an HBM channel's, numbered from 4,096. A global source
whose first byte has no translation goes to the issuing core's, where it faults. -/
def streamerOf (s : State) (r : XferReq) : Nat :=
  if !r.sglb then rankCore (ownerAt s r.owner) (field (r.w 1) 22 10)
  else match walk s r.owner r.sup (field (r.w 1) 0 52) { r := true } with
    | .found 0 pa _ => 4096 + Config.hbmChannel pa
    | _ => r.core

/-- Requests on chip in a streamer. -/
def onChip (s : State) (st : Nat) : Nat :=
  (s.xfers.filter fun x => x.streamer == st && (x.st == .queued || x.st == .running || x.st == .stuck)).length

/-- Entries of a context's overflow ring: none for sizes below 5 (R305). -/
def xovfSize (x : Ctx) : Nat := let n := field x.xovf 0 4; if n < 5 then 0 else 2 ^ n

/-- The address of the overflow ring's entry `i` from its head. -/
def xovfAddr (x : Ctx) (i : Nat) : Nat := field x.xovf 12 40 * 4096 + 64 * ((x.xovfHead + i) % xovfSize x)

/-- A transfer of the same context and number. -/
def sameXfer (a b : XferReq) : Bool := a.num == b.num && a.owner == b.owner && a.core == b.core

/-- The address at which a context's next spilled request enters its ring. -/
def xovfTail (x : Ctx) : Nat := xovfAddr x x.xovfReqs.length

/-- A request written into its context's overflow ring, where the page is mapped. -/
def ringWrite (s : State) (st : Nat) (r : XferReq) : Option State :=
  let a := xovfTail (ctxAt s r.core r.owner)
  (areaPlace s r.owner a { w := true }).map fun k =>
    let s := setHomes s k (r.block.map fun w => leBytes 8 w.toNat).flatten
    updCtxAt (walked s r.owner true a) r.core r.owner fun x => { x with xovfReqs := x.xovfReqs ++ [(st, r)] }

/-- What a holding register holds (R296), and the fault-table entry made for the page that is missing. -/
def holdReq (s : State) (c : Nat) (h : XHold) : State :=
  let x := ctxAt s c h.owner
  let a := if h.read then xovfAddr x 0 else xovfTail x
  updCore (openFault s (stackOf c) ⟨h.owner, true, a / 4096⟩).2 c fun k => { k with xhold := some h }

/-- A core's holding register holds a request of an owner that is to be written into its ring. -/
def holdsWrite (s : State) (c o : Nat) : Bool := (coreAt s c).xhold.any fun h => h.owner == o && !h.read

/-- A request reaches its streamer: the answer, 0 Queued, 1 Spilled or 2 Refused (R295, R296). There is no answer yet while the
core's one-entry holding register holds an earlier request of the context, unless the ring is full, or while it holds
something and this request needs it too. -/
def acceptReq (s : State) (st : Nat) (r : XferReq) : Option (Nat × State) :=
  let x := ctxAt s r.core r.owner
  let mine := holdsWrite s r.core r.owner
  if x.xovfReqs = [] ∧ !mine ∧ onChip s st < 32 then
    some (0, { s with xfers := s.xfers ++ [{ req := r, st := .queued, streamer := st }] })
  else if xovfSize x ≤ x.xovfReqs.length + (if mine then 1 else 0) then some (2, s)
  else if mine then none
  else
    let s' := { s with xfers := s.xfers ++ [{ req := r, st := .spilled, streamer := st }] }
    match ringWrite s' st r, (coreAt s r.core).xhold with
    | some s', _ => some (1, s')
    | none, none => some (1, holdReq s' r.core ⟨r.owner, st, r, false⟩)
    | none, some _ => none

/-- A spilled request taken by its streamer, with the block as the ring holds it. -/
def intakeReq (s : State) (c o k : Nat) : State :=
  match (ctxAt s c o).xovfReqs with
  | [] => s
  | (st, r) :: rest =>
    let block := (List.range 8).map fun i => BitVec.ofNat 64 (homeNat s (k + 8 * i) 8)
    let s := updCtxAt s c o fun x => { x with xovfReqs := rest, xovfHead := (x.xovfHead + 1) % xovfSize x }
    let s := { s with xovfLast := Tab.set (256 * c + o) s.xovfLast st }
    { s with xfers := s.xfers.map fun x => if sameXfer x.req r && x.st == .spilled then
        { x with st := .queued, req := { r with block := block } } else x }

/-- A streamer's intake from an owner pauses: a request of the owner for it is held for want of a page (R296). -/
def intakePaused (s : State) (st o : Nat) : Bool := s.cores.any fun c => c.2.xhold.any fun h => h.streamer == st && h.owner == o

/-- The contexts whose ring's head request waits for a streamer, in the order after the one it last took from; those of a stack
in its pause stand still (R347). -/
def intakeOrder (s : State) (st : Nat) : List (Nat × Nat) :=
  let all := (s.cores.map fun c => (c.2.ctxs.filter fun x =>
    !intakePaused s st x.1 && !pausing s (stackOf c.1) && match x.2.xovfReqs with | (t, _) :: _ => t == st | [] => false).map fun x => (c.1, x.1)).flatten
  match Tab.find s.xovfLast st with
  | none => all
  | some n => (all.filter fun p => n < 256 * p.1 + p.2) ++ all.filter fun p => 256 * p.1 + p.2 ≤ n

/-- The place of a context's head entry, if its page is mapped. -/
def headPlace (s : State) (p : Nat × Nat) : Option Nat :=
  areaPlace s p.2 (xovfAddr (ctxAt s p.1 p.2) 0) { r := true }

/-- The head request of a context's ring, whose page cannot be read: held in its core's register where that is free, and a
fault-table entry made (R296). -/
def holdHead (s : State) (p : Nat × Nat) : State :=
  let x := ctxAt s p.1 p.2
  match x.xovfReqs, (coreAt s p.1).xhold with
  | (st, r) :: _, none => holdReq s p.1 ⟨p.2, st, r, true⟩
  | _, _ => (openFault s (stackOf p.1) ⟨p.2, true, xovfAddr x 0 / 4096⟩).2

/-- The contexts of an order one after another, up to the first whose head can be read, which is taken. A head that cannot be read
is held, and its owner's other contexts are passed over: the intake from that owner pauses (R296). -/
def intakeFirst : List Nat → List (Nat × Nat) → State → State
  | _, [], s => s
  | gone, p :: ps, s =>
    if gone.contains p.2 then intakeFirst gone ps s
    else match headPlace s p with
      | some k => intakeReq (walked s p.2 true (xovfAddr (ctxAt s p.1 p.2) 0)) p.1 p.2 k
      | none => intakeFirst (p.2 :: gone) ps (holdHead s p)

/-- A streamer of a stack in its pause; the streamers of HBM channels lie in no stack. -/
def streamerPaused (s : State) (st : Nat) : Bool := decide (st < firstControl) && pausing s (stackOf st)

/-- XOVF_INTAKE: the next waiting context whose entry can be read (R296). -/
def execXovfIntake (st : Nat) (s : State) : Out :=
  event s <|
    if 32 ≤ onChip s st || streamerPaused s st || (intakeOrder s st).isEmpty then none
    else some (intakeFirst [] (intakeOrder s st) s)

/-- A core's holding register emptied. -/
def clearHold (s : State) (c : Nat) : State := updCore s c fun k => { k with xhold := none }

/-- A core's holding register tries its walk again: the request is written into its ring, or its ring's head can be read once more;
else it stays held, with its fault-table entry (R296, R330). -/
def retryHold (s : State) (c : Nat) : State :=
  match (coreAt s c).xhold with
  | none => s
  | some h =>
    match (if h.read then (headPlace s (c, h.owner)).map fun _ => walked s h.owner true (xovfAddr (ctxAt s c h.owner) 0)
        else ringWrite s h.streamer h.req) with
    | some s => clearHold s c
    | none => holdReq s c h

/-- The holding registers of the cores that satisfy a condition try their walk again. -/
def retryHolds (s : State) (p : Nat → XHold → Bool) : State :=
  (s.cores.filter fun c => c.2.xhold.any (p c.1)).foldl (fun s c => retryHold s c.1) s

/-- The page that a holding register waits for has an open fault-table entry. -/
def holdOpen (s : State) (c : Nat) (h : XHold) : Bool :=
  let x := ctxAt s c h.owner
  let a := if h.read then xovfAddr x 0 else xovfTail x
  (faultIndex (stackAt s (stackOf c)).faults ⟨h.owner, true, a / 4096⟩).isSome

/-- FAULT_RETRY: the holding registers of a stack's cores that wait on a fault-table entry try their walk again, and those
whose entry has closed (R296, R330). -/
def execFaultRetry (stack n : Nat) (s : State) : Out :=
  let e := Tab.find (stackAt s stack).faults n
  let due (c : Nat) (h : XHold) : Bool :=
    stackOf c == stack && (!holdOpen s c h || match e with | some e => e.sup && e.owner == h.owner | none => false)
  event s (if s.cores.any fun c => c.2.xhold.any (due c.1) then some (retryHolds s due) else none)

/-! ### Running (R293, R297) -/

/-- The place of a word of a side of a copy: a local offset of a rank, or a global address; else the fault reason, 8 for
a missing page and 9 for a forbidden one. -/
def sidePlace (s : State) (r : XferReq) (glb : Bool) (w : Word) (rank delta : Nat) (need : Need) : Nat ⊕ Nat :=
  if glb then
    let a := field w 0 52 + delta
    if 2 ^ 52 ≤ a ∨ inWindow a then .inr 8
    else match walk s r.owner r.sup a need with
      | .found tier pa _ => match placeOf tier pa with | some k => .inl k | none => .inr 9
      | .page _ => .inr 8
      | _ => .inr 9
  else
    let c := rankCore (ownerAt s r.owner) rank
    let off := field w 0 22 + delta
    if lsLimit s c r.owner ≤ off then .inr 9
    else match lsPlace s c r.owner off with
      | some k => .inl k
      | none => .inr 9

/-- A side of a copy located as the streamer reaches it: a walk that succeeds closes its page's fault-table entries (R330);
a completion of the host with error status is reason 9 (R297). -/
def reachSide (s : State) (r : XferReq) (glb : Bool) (w : Word) (rank delta : Nat) (need : Need) : (Nat ⊕ Nat) × State :=
  match sidePlace s r glb w rank delta need with
  | .inr e => (.inr e, s)
  | .inl k =>
    let s := if glb then walked s r.owner r.sup (field w 0 52 + delta) else s
    if s.hostError && isHost k then (.inr 9, s) else (.inl k, s)

/-- The destination ranks of a request; a global destination counts as one. -/
def XferReq.dests (r : XferReq) : List Nat := if r.dglb && !r.mcast then [0] else r.ranks

/-- The words of a request, row by row. -/
def XferReq.words (r : XferReq) : List XWord :=
  ((List.range r.rows).map fun i => (List.range (r.len / 8)).map fun j => { row := i, off := 8 * j, left := r.dests }).flatten

/-- The source of a word read, once (R293): the word that then knows its value, or a fault reason. -/
def readWord (s : State) (r : XferReq) (w : XWord) : (XWord ⊕ Nat) × State :=
  match reachSide s r r.sglb (r.w 1) (field (r.w 1) 22 10) (w.row * r.sstride + w.off) { r := true } with
  | (.inr e, s) => (.inr e, s)
  | (.inl k, s) => (.inl { w with val := some (BitVec.ofNat 64 (homeNat s k 8)) }, s)

/-- A read word performed at one of its destinations (R140): 0, or a fault reason. -/
def writeWord (s : State) (r : XferReq) (w : XWord) (v : Word) (q : Nat) : Nat × State :=
  match reachSide s r (r.dglb && !r.mcast) (r.w 2) q (w.row * r.dstride + w.off) { w := true } with
  | (.inr e, s) => (e, s)
  | (.inl k, s) => (0, setHomes s k (leBytes 8 v.toNat))

/-- A read word performed at each destination left, up to a fault. -/
def writeAll (r : XferReq) (w : XWord) (v : Word) : List Nat → State → Nat × State
  | [], s => (0, s)
  | q :: qs, s => match writeWord s r w v q with
    | (0, s) => writeAll r w v qs s
    | (e, s) => (e, s)

/-- What a word still lacks, all done. -/
def finishWord (s : State) (r : XferReq) (w : XWord) : Nat × State :=
  match w.val with
  | some v => writeAll r w v w.left s
  | none => match readWord s r w with
    | (.inr e, s) => (e, s)
    | (.inl w, s) => writeAll r w (w.val.getD 0) w.left s

/-- Words performed one after another, up to the first that faults: its reason, or 0. -/
def runWords (r : XferReq) : List XWord → State → Nat × State
  | [], s => (0, s)
  | w :: ws, s => match finishWord s r w with
    | (0, s) => runWords r ws s
    | (e, s) => (e, s)

/-- A transfer changed. -/
def updXfer (s : State) (n : Nat) (x : Xfer) : State := { s with xfers := s.xfers.set n x }

/-- Multicasts of an owner in combination at a tile's router (R304). -/
def combining (s : State) (o tile : Nat) : Nat :=
  (s.xfers.filter fun x => x.req.owner == o && x.req.mcast && (x.st == .running || x.st == .awaitingFree)
    && x.req.tilesOf.contains tile && !x.tiles.contains tile).length

/-- The stacks that a transfer works in: its streamer's, and those of the ranks whose local stores it reads or writes. -/
def Xfer.stacks (s : State) (x : Xfer) : List Nat :=
  let r := x.req
  (if x.streamer < firstControl then [stackOf x.streamer] else [])
    ++ ((if r.sglb then [] else [field (r.w 1) 22 10]) ++ r.ranks).map fun q => stackOf (rankCore (ownerAt s r.owner) q)

/-- A transfer stands still in a rotation pause of a stack that it works in (R297, R347). -/
def Xfer.paused (s : State) (x : Xfer) : Bool := (x.stacks s).any (pausing s)

/-- A transfer may start: fewer than four run in its streamer, its tiles' routers have room for a multicast (R297,
R304), and no pause holds it. -/
def mayRun (s : State) (x : Xfer) : Bool :=
  x.st == .queued && !x.paused s && decide ((s.xfers.filter fun y => y.streamer == x.streamer && (y.st == .running || y.st == .stuck)).length < 4)
    && (!x.req.mcast || x.req.tilesOf.all fun t => decide (combining s x.req.owner t < 16))

/-- A Queued transfer runs, if it may, with all its words still to be performed (R297). -/
def beginXfer (s : State) (n : Nat) : Option State :=
  match s.xfers[n]? with
  | none => none
  | some x => if mayRun s x then some (updXfer s n { x with st := .running, todo := x.req.words }) else none

/-- A Running transfer. -/
def Xfer.runs (x : Xfer) : Bool := x.st == .running || x.st == .stuck

/-- The words that a Running transfer still has to perform, all performed, up to a fault: it then performs no more (R297). -/
def runXfer (s : State) (n : Nat) : State :=
  match s.xfers[n]? with
  | none => s
  | some x =>
    if !x.runs then s
    else
      let (e, s) := runWords x.req x.todo s
      updXfer s n { x with todo := [], reason := if e = 0 then x.reason else e }

/-- The 256-byte granule of a word: its row, and its place in the row (R297). -/
def XWord.granule (w : XWord) : Nat × Nat := (w.row, w.off / 256)

/-- The words of the granules that a transfer has begun and not finished. -/
def Xfer.begun (x : Xfer) : List XWord :=
  let fresh (w : XWord) : Bool := w.val.isNone && w.left == x.req.dests
  let whole (g : Nat × Nat) : Nat := Nat.min 32 ((x.req.len - 256 * g.2) / 8)
  x.todo.filter fun w =>
    let mates := x.todo.filter fun v => v.granule == w.granule
    mates.any (fun v => !fresh v) || mates.length != whole w.granule

/-- A Running transfer finishes the granules that it has begun, up to a fault: it then stands at a 256-byte granule boundary (R297). -/
def finishGranules (s : State) (n : Nat) : State :=
  match s.xfers[n]? with
  | none => s
  | some x =>
    let mine := x.begun
    let (e, s) := runWords x.req mine s
    updXfer s n (if e = 0 then { x with todo := x.todo.filter fun w => !mine.contains w } else { x with todo := [], reason := e })

/-- The Running transfers that a stack's pause is to stop: those that work in it and that no pause has stopped yet. -/
def xfersToStop (s : State) (n : Nat) : List Nat :=
  (List.range s.xfers.length).filter fun i => match s.xfers[i]? with
    | some x => x.runs && (x.stacks s).contains n && !x.paused s
    | none => false

/-- One access of a word that a Running transfer still has to perform: the read of its source, or the write at one of its
destinations (R140, R293). -/
def stepXfer (s : State) (n k j : Nat) : Option State :=
  match s.xfers[n]? with
  | none => none
  | some x => match (if x.runs && !x.paused s then x.todo[k]? else none) with
    | none => none
    | some w =>
      let fail (s : State) (e : Nat) : State := updXfer s n { x with todo := [], reason := e }
      match w.val, w.left[j]? with
      | none, _ => match readWord s x.req w with
        | (.inr e, s) => some (fail s e)
        | (.inl w, s) => some (updXfer s n { x with todo := x.todo.set k w })
      | some v, some q => match writeWord s x.req w v q with
        | (0, s) =>
          let rest := w.left.eraseIdx j
          let todo := if rest = [] then x.todo.eraseIdx k else x.todo.set k { w with left := rest }
          some (updXfer s n { x with todo := todo })
        | (e, s) => some (fail s e)
      | some _, none => none

/-- TRANSFER_START: a Queued transfer runs, if it may, and performs its words one after another (R297). That its words are
moves of their own is asked for by `Move.transferBegin` and `Move.transferWord`. -/
def execTransferStart (n : Nat) (s : State) : Out := event s ((beginXfer s n).map fun s => runXfer s n)

/-- A word of a transfer that runs, or may run, dropped on its way, a free choice among those still to be performed: it is counted
as acknowledged, and the transfer will end with reason 10, or with its source unknown never (R318). -/
def dropWord (s : State) (n : Nat) (known : Bool) : Option State :=
  let s := (beginXfer s n).getD s
  match s.xfers[n]? with
  | none => none
  | some x =>
    if !x.runs || x.todo = [] then none
    else
      let (v, s) := draw s
      let todo := x.todo.eraseIdx (v.toNat % x.todo.length)
      if known then some (updXfer s n { x with todo := todo, reason := 10 })
      else some (runXfer (updXfer s n { x with todo := todo, st := .stuck }) n)

/-! ### Completion (R298) -/

/-- The issuing thread of a transfer changed, if it still exists, also while its owner is swapped out (R350). -/
def updIssuer (s : State) (r : XferReq) (f : Thread → Thread) : State := updUid s r.core r.uid f

/-- A completion element of a transfer. -/
def xferElem (r : XferReq) (reason outcome : Nat) : Word :=
  place r.tag 48 ||| place r.num.toNat 16 ||| place reason 8 ||| place outcome 0

/-- An element for the queue bound with kind 3, when one is. -/
def postXfer (s : State) (r : XferReq) (reason outcome : Nat) : State :=
  match boundQueue (ctxAt s r.core r.owner) fun d => bindKind d == 3 with
  | some n => engineOut s r.core r.owner n (xferElem r reason outcome)
  | none => s

/-- The arrival message to a destination rank. -/
def notifyRank (r : XferReq) (s : State) (q : Nat) : State :=
  let rank := rankOf s r.core r.owner
  let c := rankCore (ownerAt s r.owner) q
  let h := header r.num r.owner false 0 0 0 false r.cls r.mbx rank
  let pay := place r.tag 32 ||| place (if r.mcast then 1 else 0) 26 ||| place rank 16 ||| place r.num.toNat 0
  (arriveMsg s c r.owner r.mbx r.owner ⟨h, [pay]⟩).2

/-- The ring feed of a destination rank. -/
def feedRank (r : XferReq) (s : State) (q : Nat) : State :=
  feedRing s (rankCore (ownerAt s r.owner) q) r.owner (place r.ringTen 13 ||| place r.ringK 14) 1

/-- A multicast with every tile's increment is Freed: its element and the issuing thread's event bit (R303). -/
def freedXfer (s : State) (r : XferReq) : State := updIssuer (postXfer s r 0 3) r fun t => { t with evt := true }

/-- The tiles whose receivers have all freed. -/
def Xfer.allFreed (x : Xfer) : Bool := x.req.tilesOf.all fun t => x.tiles.contains t

/-- A transfer forgotten. -/
def dropXfer (s : State) (n : Nat) : State := { s with xfers := s.xfers.eraseIdx n }

/-- The steps of R298, and the event bit of the issuing thread (R156). -/
def endXfer (s : State) (n : Nat) (x : Xfer) : State :=
  let r := x.req
  let good := x.reason == 0
  let heard := r.irq || (boundQueue (ctxAt s r.core r.owner) fun d => bindKind d == 3).isSome
  let s := if good && r.notify then r.ranks.foldl (notifyRank r) s else s
  let s := if good && r.ring then r.ranks.foldl (feedRank r) s else s
  let s := postXfer s r x.reason (if good then 0 else 1)
  let s := updIssuer s r fun t =>
    let word := place r.tag 32 ||| place (if good then 0 else 1) 24 ||| place x.reason 16 ||| place r.num.toNat 0
    let irq : Irq := { xferid := word, entry := r.w 5, user := r.w 6 }
    { t with evt := true, irqs := if r.irq then t.irqs ++ [irq] else t.irqs }
  if good && r.mcast then
    if x.allFreed then freedXfer (dropXfer s n) r else updXfer s n { x with st := .awaitingFree }
  else if !good && !heard then updXfer s n { x with st := .faulted }
  else dropXfer s n

/-- A transfer cannot end now: the issuer's stack stands in its pause, or one that it works in does, in which it still has words to
perform, or messages or feeds to give (R298, R347). -/
def Xfer.endParked (s : State) (x : Xfer) : Bool :=
  pausing s (stackOf x.req.core) || (x.paused s && (x.todo != [] || x.req.notify || x.req.ring))

/-- TRANSFER_COMPLETION: a Running transfer performs what it still has to, and ends Complete or Faulted (R297, R298). -/
def execTransferCompletion (n : Nat) (s : State) : Out :=
  event s <| match s.xfers[n]? with
    | some x =>
      if x.st != .running || x.endParked s then none
      else
        let s := runXfer s n
        (s.xfers[n]?).map fun x => endXfer s n x
    | none => none

/-! ### The instructions (R295, R301 to R304) -/

/-- The streamer's answer written: the transfer number, and the answer in bits [17:16]. -/
def xferResult (num : BitVec 16) (answer : Nat) : Word := place answer 16 ||| zx num

/-- The last steps of XFER and XMCAST: fewer than 64 outstanding, the release, the number, the request. -/
def pushXfer (d : BitVec 6) (mcast : Bool) (block : List Word) (s : State) : Act (Option Word) :=
  if 64 ≤ xfersOut s (thr s).uid then .wait (.command block) s
  else ((release s).holding (.command block)).bind fun _ s =>
    let t := thr s
    let r : XferReq :=
      { num := (ctx s).xferCtr, owner := t.owner, core := s.core, uid := t.uid, slot := s.slot, sup := t.sup, mcast := mcast,
        block := block }
    let st := streamerOf s r
    let s := updCtx s fun x => { x with xferCtr := x.xferCtr + 1 }
    let earlier := s.xflights.any fun g => g.req.core == s.core && g.streamer == st
    match (if s.splitIssue || earlier || streamerPaused s st then none else acceptReq s st r) with
    | some (a, s) => .ok none (wg s d (xferResult r.num a))
    | none =>
      let (id, s) := fresh s
      .wait (.answer id none) { s with xflights := s.xflights ++ [{ id := id, slot := s.slot, streamer := st, req := r }] }

/-- The result that an answer brought while the thread was swapped out. -/
def answered (t : Thread) : Option Word :=
  if t.st == .blocked then match t.wait with | some (_, .answer _ w) => w | _ => none else none

/-- XFER and XMCAST. -/
def xfer (i : Instr) (mcast : Bool) (d a : BitVec 6) (s : State) : Out :=
  instr i {} [G d, G a] [] s fun s =>
    match copied (thr s), answered (thr s) with
    | some ws, _ => pushXfer d mcast ws s
    | none, some w => .ok none (wg s d w)
    | none, none =>
      (address s (rg s a) 0 64 0 { r := true }).bind fun l s => (loadWords s l.2.key 8).bind fun ws s =>
        let t := thr s
        let r : XferReq :=
          { num := 0, owner := t.owner, core := s.core, uid := t.uid, slot := s.slot, sup := t.sup, mcast := mcast, block := ws }
        match xferFault s r with
        | some e => .trap Cause.xferfault (place e 0) s
        | none => pushXfer d mcast ws s

/-- XFER (R295). -/
def execXfer (d a : BitVec 6) (s : State) : Out := xfer (.xfer d a) false d a s

/-- XMCAST (R295, R303). -/
def execXmcast (d a : BitVec 6) (s : State) : Out := xfer (.xmcast d a) true d a s

/-- A streamer's answer completes the issuer's instruction; a thread swapped out meanwhile keeps it (R350), and so does one whose
stack stands in its pause, to complete after it (R347). -/
def answerIssuer (s : State) (f : XFlight) (w : Word) : State :=
  let keep (t : Thread) : Thread := match t.wait with
    | some (i, .answer id none) => if id = f.id then { t with wait := some (i, .answer id (some w)) } else t
    | _ => t
  let s := updUid s f.req.core f.req.uid keep
  if pausing s (stackOf f.req.core) then s else
  match (thrAt s f.req.core f.slot).wait with
  | some (.xfer d b, .answer id (some w)) => if id = f.id then onThread s f.req.core f.slot fun s =>
      complete (.xfer d b) (.ok none (wg s d w)) s else s
  | some (.xmcast d b, .answer id (some w)) => if id = f.id then onThread s f.req.core f.slot fun s =>
      complete (.xmcast d b) (.ok none (wg s d w)) s else s
  | _ => s

/-- A request in flight reaches its streamer, and the answer its issuer. -/
def landRequest (s : State) (f : XFlight) : Option State :=
  (acceptReq { s with xflights := s.xflights.filter fun g => g.id != f.id } f.streamer f.req).map fun r =>
    answerIssuer r.2 f (xferResult f.req.num r.1)

/-- The earliest request in flight on the channel of one (R130). -/
def firstRequest (s : State) (f : XFlight) : Bool :=
  (s.xflights.find? fun g => g.req.core == f.req.core && g.streamer == f.streamer).any fun g => g.id == f.id

/-- TRANSFER_REQUEST: a request reaches its streamer, and the answer completes the issuer's instruction (R295, R296).
The channel from a core to a streamer keeps the order sent (R130). A streamer in its stack's pause takes none (R347). -/
def execTransferRequest (n : Nat) (s : State) : Out :=
  event s <| match s.xflights[n]? with
    | none => none
    | some f => if firstRequest s f && !streamerPaused s f.streamer then landRequest s f else none

/-- The requests inside a stack reach their streamers, in the order sent, as its pause begins (R344). -/
def drainRequests (s : State) (n : Nat) : State :=
  let inside (f : XFlight) : Bool := stackOf f.req.core == n && decide (f.streamer < firstControl) && stackOf f.streamer == n
  (s.xflights.filter inside).foldl (fun s f => if firstRequest s f then (landRequest s f).getD s else s) s

/-- The thread's Faulted transfer of the lowest number that nothing has reported (R301). -/
def unreported (s : State) (uid : Nat) : Option Xfer :=
  (s.xfers.filter fun x => x.req.uid == uid && x.st == .faulted).foldl (fun best x => match best with
    | none => some x
    | some y => if x.req.num.toNat < y.req.num.toNat then some x else some y) none

/-- XWAIT (R301). -/
def execXwait (d a : BitVec 6) (s : State) : Out :=
  instr (.xwait d a) {} [G d, G a] [] s fun s =>
    let n := xfersOut s (thr s).uid
    if (rg s a).toNat < n then .wait .retry s
    else match unreported s (thr s).uid with
      | some x => .trap Cause.xferfault (place x.req.num.toNat 16 ||| place x.reason 0)
          { s with xfers := s.xfers.filter fun y => !(sameXfer y.req x.req && y.st == .faulted) }
      | none => .ok none (wg s d (BitVec.ofNat 64 n))

/-- The state code of XSTAT (R302). -/
def XState.code : XState → Nat
  | .faulted => 0 | .queued => 1 | .spilled => 2 | .running | .stuck => 3 | .awaitingFree => 4

/-- XSTAT's word. -/
def xferStatus (s : State) (num : BitVec 16) : Word :=
  let out := place (xfersOut s (thr s).uid) 32
  match s.xfers.find? fun x => x.req.num == num && x.req.owner == (thr s).owner && x.req.core == s.core with
  | none => out
  | some x =>
    out ||| place x.st.code 0
      ||| if x.req.mcast then place x.req.tilesOf.length 16 ||| place x.tiles.length 8 else 0

/-- XSTAT (R302). -/
def execXstat (d a : BitVec 6) (s : State) : Out :=
  instr (.xstat d a) {} [G d, G a] [] s fun s => .ok none (wg s d (xferStatus s ((rg s a).setWidth 16)))

/-- A receiver's free combined at its tile router: what names no multicast in combination, a second free and a free by a
core that is no receiver are dropped (R303, R304). -/
def combineFree (s : State) (tok : Word) : State :=
  let o := (thr s).owner
  let rank := (ctx s).rank
  let c := rankCore (owner s) (field tok 16 10)
  { s with xfers := s.xfers.map fun x =>
      if x.req.mcast && x.req.owner == o && x.req.core == c && x.req.num == tok.extractLsb' 0 16
          && (x.st == .running || x.st == .awaitingFree) && x.req.ranks.contains rank && !x.freed.contains rank then
        { x with freed := x.freed ++ [rank] }
      else x }

/-- XFREE (R304). -/
def execXfree (a : BitVec 6) (s : State) : Out :=
  instr (.xfree a) {} [G a] [] s fun s =>
    let w := rg s a
    if nrank (owner s) ≤ field w 16 10 then .trap Cause.access w s
    else (release s).bind fun _ s => .ok none (combineFree s w)

/-- FREE_INCREMENT: a tile's combined free reaches the sender of the n-th transfer (R303), outside a pause of its stack (R347). -/
def execFreeIncrement (o n tile : Nat) (s : State) : Out :=
  event s <| match s.xfers[n]? with
    | none => none
    | some x =>
      if !pausing s (stackOf x.req.core) && x.req.mcast && x.req.owner == o && x.req.tilesOf.contains tile && !x.tiles.contains tile
          && x.req.ranks.all fun q => q / 4 != tile || x.freed.contains q then
        let x := { x with tiles := x.tiles ++ [tile] }
        some (if x.st == .awaitingFree && x.allFreed then freedXfer (dropXfer s n) x.req else updXfer s n x)
      else none

/-- XRET: ILLEGAL outside a transfer handler (R300). -/
def execXret (s : State) : Out :=
  instr .xret { ill := !(thr s).xferid.getLsbD 63 } [] [] s fun s =>
    let t := (thr s).xepc
    (checkTarget s t).bind fun _ s =>
      .ok (some t) (updThr s fun t => { t with xferid := zx (t.xferid.extractLsb' 0 63) })

/-! ### Transfer interrupts (R299) -/

/-- The transfer interrupt that the current thread takes at this boundary, where R150 takes nothing. -/
def dueIrq (t : Thread) : Option Irq :=
  if !t.sup && !t.ucause.getLsbD 63 && !t.xferid.getLsbD 63 then t.irqs.head? else none

/-- A transfer interrupt delivered. -/
def takeIrq (s : State) (q : Irq) : State :=
  updThr s fun t =>
    { t with irqs := t.irqs.drop 1, xepc := t.pc, xferid := place 1 63 ||| q.xferid, xarg := q.user, pc := q.entry,
             st := t.st.goOn }

end Sys2Proof.Machine
end

