-- ==== Sys2Proof/Machine/Boundary.lean ====
section
/-! DEFINITION. What strikes a thread at an instruction boundary, and the expiries behind it (R145, R150, R156, R158, R175,
R204, R206, R299). -/

namespace Sys2Proof.Machine

/-- A thread between two instructions. -/
def atBoundary (t : Thread) : Bool := t.st == .ready || t.st == .running

/-! ### How a wait ends at an expiry (R145, R204) -/

/-- What an expiry does to a wait. -/
inductive WaitEnd where
  /-- the wait ends without effect, with the PC at the waiting instruction -/
  | without
  /-- the same, and the arrival at an exchange is withdrawn -/
  | withdrawn
  /-- the wait of a barrier ends with a status -/
  | barrier
  /-- the wait of WFE ends -/
  | event
  /-- the wait is kept -/
  | kept
deriving DecidableEq, Repr

/-- The rows of R145's table. -/
def waitEnd : Option (Instr × WaitKind) → WaitEnd
  | some (.qpush .., _) | some (.qpushCompact .., _) | some (.qpop .., _) | some (.qpopCompact .., _)
  | some (.qpeek .., _) | some (.recv .., _) | some (.sopen .., _) | some (.mpush .., _) | some (.mpop .., _)
  | some (.cpost .., _) => .without
  | some (.xchg .., _) => .withdrawn
  | some (.barwait .., _) | some (.bararw .., .arrived ..) => .barrier
  | some (.wfe .., _) => .event
  | _ => .kept

/-- The current thread leaves its wait without effect. An SOPEN that waited leaves its out-port as it was
before (R184). -/
def leaveWait (s : State) : State :=
  updThr (unopen s s.core (thr s)) fun t => { t with st := .ready, wait := none }

/-- WFE returns: the event bit is cleared (R156). -/
def wfeReturn (a : BitVec 6) (s : State) : State := complete (.wfe a) (.ok none (updThr s fun t => { t with evt := false })) s

/-- A wait that the table of R145 keeps, ended by MBXOVF, which ends any wait of the resident loop (R175): a request, message or
transfer not yet performed is withdrawn, an answer that has come completes the instruction (DEDUCED, assumption 26). -/
def abandonWait (s : State) : State :=
  match (thr s).wait with
  | some (_, .status id none) => leaveWait { s with flights := s.flights.filter fun f => f.id != id }
  | some (i, .status _ (some st)) => complete i (.ok none (wg s (sendDest i) (st.setWidth 64))) s
  | some (_, .answer id none) => leaveWait { s with xflights := s.xflights.filter fun f => f.id != id }
  | some (.xfer d a, .answer _ (some w)) => complete (.xfer d a) (.ok none (wg s d w)) s
  | some (.xmcast d a, .answer _ (some w)) => complete (.xmcast d a) (.ok none (wg s d w)) s
  | some (_, .spilling t _) => leaveWait (setSp s t false)
  | some _ => leaveWait s
  | none => s

/-- The wait of the current thread ended by an expiry, or kept (R145, R204); `status` is that of a barrier. -/
def cutWait (s : State) (status : Nat) : State :=
  if (thr s).st != .blocked then s
  else match waitEnd (thr s).wait with
    | .without => leaveWait s
    | .withdrawn => leaveWait (withdrawExchange s)
    | .barrier => (endBarWait s status).getD s
    | .event => match (thr s).wait with
      | some (.wfe a, _) => wfeReturn a s
      | _ => s
    | .kept => s

/-- The wait of a resident loop ended by MBXOVF (R175). -/
def cutOvf (s : State) : State :=
  if (thr s).st == .blocked && waitEnd (thr s).wait == .kept then abandonWait s else cutWait s 2

/-! ### The order of R150 -/

/-- The MBXOVF that the current thread, a resident loop, takes: the oldest not yet taken (R175). -/
def dueOvf (s : State) : Option Word := if (thr s).resident then (ctx s).ovf.head? else none

/-- MBXOVF taken. -/
def takeOvf (s : State) (w : Word) : State :=
  takeTrap (updCtx s fun x => { x with ovf := x.ovf.drop 1 }) Cause.mbxovf none w

/-- BUDGET taken, with trap value 0 (R145). -/
def takeBudget (s : State) : State := takeTrap (updThr s fun t => { t with budgetDue := false }) Cause.budget none 0

/-- The current thread is to be diverted now: its kernel is WrappingUp, it has not been diverted, and it runs in user mode
outside a user handler (R150, R204). A gang's followers are not diverted: they end (R281). -/
def dueDivert (s : State) : Bool :=
  let t := thr s
  wrapping s t.owner t.kid && !t.diverted && !t.sup && !t.ucause.getLsbD 63 && !t.xferid.getLsbD 63 && !isFollower s

/-- The diversion (R204); a leader's followers end first (R281). -/
def divert (s : State) : State :=
  let s := if (thr s).gang.isSome then disband s s.core s.slot else s
  let w := kernelWrap s (thr s).owner (thr s).kid
  updThr s fun t => { t with dlepc := t.pc, diverted := true, pc := w, st := t.st.goOn }

/-- What the current thread takes at a boundary before its next instruction: the first of R150 that applies, with MBXOVF
in the place of a late fault. -/
def boundaryTake (s : State) : Option State :=
  match dueLate (thr s) with
  | some e => some (takeLate s e)
  | none => match dueOvf s with
    | some w => some (takeOvf s w)
    | none =>
      if (thr s).budgetDue then some (takeBudget s)
      else if dueDivert s then some (divert s)
      else none

/-- The transfer interrupt that the current thread takes where its next instruction raises no precise trap either (R150, R299);
a gang's follower takes none. -/
def irqHere (s : State) : Option Irq := if (boundaryTake s).isSome || isFollower s then none else dueIrq (thr s)

/-- The wait of the current thread ended where something due ends it: MBXOVF and an expired budget (status 2), a diversion
(status 1). -/
def boundaryCut (s : State) : State :=
  if (dueOvf s).isSome then cutOvf s
  else if (thr s).budgetDue then cutWait s 2
  else if dueDivert s then cutWait s 1
  else s

/-- What the current thread has to take, which it takes at no boundary of a rotation pause: its first comes after phase 10 (R344,
R347, R349). -/
def outsidePause (s : State) (x : Option State) : Out := event s (if pausing s (stackOf s.core) then none else x)

/-- LATE_FAULT (R158). -/
def execLateFault (s : State) : Out :=
  outsidePause s <| if atBoundary (thr s) then (dueLate (thr s)).map (takeLate s) else none

/-- MBXOVF (R175): it ends the resident loop's wait (assumption 26). -/
def execMbxovf (s : State) : Out :=
  outsidePause s <| match dueOvf s with
    | none => none
    | some w =>
      let s := cutOvf s
      if atBoundary (thr s) && (dueLate (thr s)).isNone then some (takeOvf s w) else some s

/-- BUDGET_EXPIRY (R145). -/
def execBudgetExpiry (s : State) : Out :=
  outsidePause s <|
    if !(thr s).budgetDue then none
    else
      let s := cutWait s 2
      if atBoundary (thr s) && (dueLate (thr s)).isNone && (dueOvf s).isNone then some (takeBudget s) else some s

/-- DIVERSION (R204). -/
def execDiversion (s : State) : Out :=
  outsidePause s <|
    if !dueDivert s then none
    else
      let s := cutWait s 1
      if atBoundary (thr s) && (dueLate (thr s)).isNone && (dueOvf s).isNone && !(thr s).budgetDue then some (divert s)
      else some s

/-- TRANSFER_INTERRUPT: at a boundary where R150 takes nothing (R299). That the next instruction raises no precise trap there is
tested where the event is asked for, by `runMove`. -/
def execTransferInterrupt (s : State) : Out :=
  outsidePause s (if atBoundary (thr s) then (irqHere s).map (takeIrq s) else none)

/-! ### Deadlines (R204, R206) -/

/-- A thread that has not started yet starts in wrap-up (R204). -/
def startsWrapping (w : Word) (t : Thread) : Thread :=
  { t with pc := w, dlepc := t.pc, diverted := true, g := Tab.set (Tab.get 0 t.g 8 ||| place 1 62) t.g 8 }

/-- The parked forker of a discarded cell resumed at WRAPENT on its own core, where a slot is free; else it waits for one
(R204, R211). -/
def resumeForker (o : Nat) (s : State) (p : Nat × JoinCell) : State :=
  let j := p.2
  match findPlace s j.core j.wsz 0 with
  | some (sl, gb, vb) =>
    let s := startThread s j.core sl gb vb (forker s o j.core j 0 true)
    updOwnerAt s o fun w => { w with joins := Tab.set { j with discarded := true, waits := false } w.joins p.1 }
  | none => updOwnerAt s o fun w => { w with joins := Tab.set { j with discarded := true, waits := true } w.joins p.1 }

/-- A Running kernel becomes WrappingUp, as one step (R204). -/
def wrapUp (s : State) (o kid : Nat) : State :=
  let s := updKernel s o kid fun k => { k with st := .wrappingUp, wrapLeft := k.wrapBudget }
  let s := discardCmds s o kid
  let w := kernelWrap s o kid
  let late (_ : Nat) (t : Thread) : Thread := if t.st == .starting && ofKernel o kid t then startsWrapping w t else t
  let s := { s with cores := Tab.mapAll (fun _ c => { c with threads := Tab.mapAll late c.threads }) s.cores }
  ((ownerAt s o).joins.filter fun j => j.2.kid == kid && !j.2.discarded).foldl (resumeForker o) s

/-- DEADLINE_EXPIRY: TIME has reached DLINE. A kernel still in Placing is Closed with INVALID, cause 0x23 (R204). -/
def execDeadlineExpiry (o kid : Nat) (s : State) : Out :=
  event s <| match kernelAt s o kid with
    | none => none
    | some k =>
      if !k.hasDeadline || timeNow s < k.dline then none
      else if k.st == .placing then some (endKernel (writeFlag s o kid 3 0x23 0) o kid .closed)
      else if k.st == .running then some (wrapUp s o kid)
      else none

/-- WRAPUP_BUDGET_EXPIRY (R206). -/
def execWrapupBudgetExpiry (o kid : Nat) (s : State) : Out :=
  event s <| match kernelAt s o kid with
    | some k => if k.st == .wrappingUp && k.wrapLeft == 0 then some (killKernel s o kid 0x20) else none
    | none => none

/-! ### WFE (R156) -/

/-- WFE: returns at once with the event bit set, else waits from this CYCLE. -/
def execWfe (a : BitVec 6) (s : State) : Out :=
  instr (.wfe a) {} [G a] [] s fun s =>
    let t := thr s
    let since := match t.wait with
      | some (_, .wfe n) => if t.st == .blocked then n else s.cycle
      | _ => s.cycle
    let passed := rg s a != 0 && (rg s a).toNat ≤ s.cycle - since
    if t.evt || passed then .ok none (updThr s fun t => { t with evt := false }) else .wait (.wfe since) s

/-- WFE_TIMEOUT: a clk have passed on CYCLE since the wait began. -/
def execWfeTimeout (core slot : Nat) (s : State) : Out :=
  event s <| match (thrAt s core slot).st, (thrAt s core slot).wait with
    | .blocked, some (.wfe a, .wfe n) =>
      let x := (thrAt s core slot).getG a.toNat
      if x ≠ 0 ∧ x.toNat ≤ s.cycle - n then some (onThread s core slot (wfeReturn a)) else none
    | _, _ => none

end Sys2Proof.Machine
end

