-- ==== Sys2Proof/Machine/Collective.lean ====
section
/-! DEFINITION. The arcade: ports, registrations and collectives (R49, R50, R355 to R364). -/

namespace Sys2Proof.Machine

/-! ### Ports (R355) -/

/-- An arcade port changed. -/
def updPort (s : State) (p : Nat) (f : ArcPort → ArcPort) : State :=
  { s with sys := { s.sys with ports := Tab.set (f (Tab.get {} s.sys.ports p)) s.sys.ports p } }

/-- An arcade port. -/
def arcPort (s : State) (p : Nat) : ArcPort := Tab.get {} s.sys.ports p

/-- A port that carries beats. -/
def ArcPort.works (p : ArcPort) : Bool := p.st == .up || p.st == .degraded

/-- PORT_TRAINING (R355). -/
def execPortTraining (port : Nat) (s : State) : Out :=
  event s (if port < 24 ∧ (arcPort s port).st = .down then
    some (updPort s port fun _ => { st := .training, since := s.cycle }) else none)

/-- 100 ms in clk. -/
def trainingLimit : Nat := 330000000

/-- TRAINING_END: all eight lanes pass, or four to seven, or fewer, or the time is over (R355). -/
def execTrainingEnd (port lanes : Nat) (s : State) : Out :=
  event s <|
    if (arcPort s port).st ≠ .training ∨ 8 < lanes then none
    else if lanes < 4 ∨ trainingLimit ≤ s.cycle - (arcPort s port).since then some (updPort s port fun _ => {})
    else some (updPort s port fun p => { p with st := if lanes = 8 then .up else .degraded, lanes := lanes })

/-! ### Registrations (R356) -/

/-- A registration's fields as a participant. -/
def Registration.part (r : Registration) : Participant :=
  { dom := r.dom, name := r.name, index := r.index, kind := r.kind, len := r.len, count := r.count, gather := r.gather }

/-- The module's registrations of a name: owner, handle, registration. -/
def localRegs (s : State) (dom name : Nat) : List (Nat × Nat × Registration) :=
  (s.owners.map fun o => (o.2.regs.filter fun r => r.2.dom == dom && r.2.name == name).map fun r => (o.1, r)).flatten

/-- The participants of a name, on this module and on others. -/
def participants (s : State) (dom name : Nat) : List Participant :=
  (localRegs s dom name).map (fun r => r.2.2.part) ++ s.remotes.filter fun p => p.dom == dom && p.name == name

/-- A registration changed. -/
def updReg (s : State) (o h : Nat) (f : Registration → Registration) : State :=
  match Tab.find (ownerAt s o).regs h with
  | some r => updOwnerAt s o fun w => { w with regs := Tab.set (f r) w.regs h }
  | none => s

/-- The participants agree: kind, n, m and g equal, and every index once (R357). -/
def agree (r : Registration) (ps : List Participant) : Bool :=
  ps.length == r.count
    && (ps.all fun p => p.kind == r.kind && p.len == r.len && p.count == r.count && p.gather == r.gather)
    && (List.range r.count).all fun i => (ps.filter fun p => p.index == i).length == 1

/-- The arcade's arrival at a memory barrier, at its home; whether it was taken (R360). -/
def arcadeArrive (s : State) (key : Nat) (token : BitVec 32) : Bool × State :=
  match arriveBar (readBar s 0 (.mem key)) true token with
  | .inl _ => (false, s)
  | .inr b => (true, setHomes s key (leBytes 8 (barWord b).toNat))

/-- The oldest outstanding post of a registration ended with a code, 0 for success, and its arrival made. A refused arrival is
dropped, recorded as code 5, and fails the registration (R360, R361; DEDUCED, assumption 46). -/
def endPost (s : State) (o h code : Nat) : State :=
  match Tab.find (ownerAt s o).regs h with
  | none => s
  | some r => match r.posts with
    | [] => s
    | p :: ps =>
      let (taken, s) := arcadeArrive s r.bar p.token
      updReg s o h fun r => { r with
        posts := ps, lastS := p.s, run := none, got := [], done := []
        st := if taken then r.st else .failed
        code := if !taken then 5 else if code ≠ 0 then code else r.code }

/-- Outstanding posts of a Failed registration end at once, with a code (R361). -/
def flushPosts (o h code : Nat) : Nat → State → State
  | 0, s => s
  | n + 1, s => flushPosts o h code n (endPost s o h code)

/-- A registration fails with a code; its outstanding posts end with it. -/
def failReg (s : State) (o h code : Nat) : State :=
  flushPosts o h code 16 (updReg s o h fun r => { r with st := .failed, code := code, run := none })

/-- Pending registrations of a name whose participants have all registered become Ready or Failed (R356). -/
def settleName (s : State) (dom name : Nat) : State :=
  let ps := participants s dom name
  (localRegs s dom name).foldl (fun s r =>
    if r.2.2.st == .pending && decide (r.2.2.count ≤ ps.length) then
      if agree r.2.2 ps then updReg s r.1 r.2.1 fun x => { x with st := .ready } else failReg s r.1 r.2.1 1
    else s) s

/-- Every registration of a name on this module fails because a participant deregistered (R356, R363). -/
def failName (s : State) (dom name : Nat) : State :=
  (localRegs s dom name).foldl (fun s r => failReg s r.1 r.2.1 4) s

/-- A registration freed, as CDEREG does (R363). -/
def deregister (s : State) (o h : Nat) : State :=
  match Tab.find (ownerAt s o).regs h with
  | none => s
  | some r => failName (updOwnerAt s o fun w => { w with regs := Tab.del w.regs h }) r.dom r.name

/-- PARTICIPANT_REGISTRATION (R356). -/
def execParticipantRegistration (p : Participant) (s : State) : Out :=
  event s (some (settleName { s with remotes := s.remotes ++ [p] } p.dom p.name))

/-- PARTICIPANT_DEREGISTRATION (R363). -/
def execParticipantDeregistration (dom name index : Nat) (s : State) : Out :=
  event s <|
    let gone (p : Participant) : Bool := p.dom == dom && p.name == name && p.index == index
    if s.remotes.any gone then some (failName { s with remotes := s.remotes.filter fun p => !gone p } dom name) else none

/-! ### CREG, CPOST, CSTAT, CDEREG (R357, R358, R362, R363) -/

/-- A COLL trap. -/
def collTrap (reason : Nat) (s : State) : Act (Option Word) := .trap Cause.coll (place reason 0) s

/-- A malformed collective descriptor (R357). -/
def badDescriptor (ws : List Word) : Bool :=
  let w (i : Nat) : Word := ws.getD i 0
  let n := field (w 2) 0 32
  w 0 == 0 || !zeroBits (w 1) 5 0 || !zeroBits (w 2) 63 32 || n < 64 || 2 ^ 30 < n || n % 64 != 0
    || 5 < field (w 3) 0 3 || !zeroBits (w 3) 7 3 || !zeroBits (w 3) 63 25 || field (w 3) 16 8 == 0
    || field (w 3) 16 8 < field (w 3) 8 8 || !zeroBits (w 4) 3 0 || (ws.drop 5).any fun x => x != 0

/-- The place of a page of the owner's user space with R, W, P and a tier up to the one given. -/
def collPage (s : State) (o va top : Nat) : Option Nat :=
  if 2 ^ 52 ≤ va ∨ inWindow va then none
  else match walk s o false va { r := true, w := true } with
    | .found tier pa true => if tier ≤ top then placeOf tier pa else none
    | _ => none

/-- The places of the 4 KiB pages of a span, the first at its own address. -/
def spanPages (s : State) (o : Nat) : Nat → Nat → Option (List Nat)
  | 0, _ => some []
  | n + 1, va => match collPage s o va 0, spanPages s o n (va + 4096) with
    | some k, some ks => some (k :: ks)
    | _, _ => none

/-- CREG's walks of `n` bytes of the owner's user space: the fault-table entries of each page whose walk succeeds close (R330). -/
def walkedSpan (s : State) (o va n : Nat) : State := walkedUser s o va n { r := true, w := true }

/-- The lowest free handle. -/
def freeHandle (w : Owner) : Option Nat := (List.range 256).find? fun h => (Tab.find w.regs h).isNone

/-- Registrations on the module. -/
def regCount (s : State) : Nat := s.owners.foldl (fun n o => n + o.2.regs.length) 0

/-- CREG (R357). -/
def execCreg (d a : BitVec 6) (s : State) : Out :=
  instr (.creg d a) {} [G d, G a] [] s fun s =>
    ownBlock s (rg s a) 64 8 fun ws s =>
      let o := (thr s).owner
      let dom := (owner s).dom.toNat
      let w3 := ws.getD 3 0
      let n := field (ws.getD 2 0) 0 32
      let m := field w3 16 8 + 1
      let addr := field (ws.getD 1 0) 0 52
      let span := if w3.getLsbD 24 then m * n else n
      if dom = 0 then collTrap 7 s
      else if badDescriptor ws then collTrap 1 s
      else
        let bars := field (ws.getD 4 0) 0 52
        let found := spanPages s o ((addr % 4096 + span + 4095) / 4096) (addr / 4096 * 4096)
        let bar := collPage s o bars 1
        let s := walkedSpan (walkedSpan s o addr span) o bars 16
        match found, bar with
        | some pages, some bar =>
          match freeHandle (owner s) with
          | none => collTrap 3 s
          | some h =>
            let r : Registration :=
              { st := .pending, dom := dom, name := (ws.getD 0 0).toNat, addr := addr, pages := pages, len := n,
                kind := field w3 0 3, index := field w3 8 8, count := m, gather := w3.getLsbD 24, bar := bar }
            if 4096 ≤ regCount s then collTrap 3 s
            else if (localRegs s dom r.name).any fun x => x.2.2.index == r.index then collTrap 4 s
            else
              let s := updOwnerAt s o fun w => { w with regs := Tab.set r w.regs h }
              .ok none (wg (settleName s dom r.name) d (BitVec.ofNat 64 h))
        | _, _ => collTrap 2 s

/-- CPOST (R358). -/
def execCpost (d a : BitVec 6) (s : State) : Out :=
  instr (.cpost d a) {} [G d, G a] [] s fun s =>
    let w := rg s a
    let o := (thr s).owner
    let h := field w 0 8
    let op := field w 8 2
    if !zeroBits w 31 10 then collTrap 1 s
    else match Tab.find (owner s).regs h with
      | none => collTrap 5 s
      | some r =>
        if r.gather != (op == 3) ∨ (r.kind = 5 ∧ (op = 1 ∨ op = 2)) then collTrap 8 s
        else if 16 ≤ r.posts.length then .wait .retry s
        else (release s).bind fun _ s =>
          let p : Post := { s := r.next, op := op, token := w.extractLsb' 32 32 }
          let s := updReg s o h fun r => { r with posts := r.posts ++ [p], next := r.next + 1 }
          let s := if r.st == .failed then flushPosts o h 4 16 s else s
          .ok none (wg s d (zx r.next))

/-- The state code of CSTAT (R362). -/
def RegState.code : RegState → Nat
  | .pending => 1 | .ready => 2 | .running => 3 | .failed => 4

/-- CSTAT (R362). -/
def execCstat (d a : BitVec 6) (s : State) : Out :=
  instr (.cstat d a) {} [G d, G a] [] s fun s =>
    .ok none (wg s d (match Tab.find (owner s).regs (field (rg s a) 0 8) with
      | none => 0
      | some r => place r.lastS.toNat 32 ||| place r.posts.length 16 ||| place r.code 8 ||| place r.st.code 0))

/-- CDEREG (R363). -/
def execCdereg (a : BitVec 6) (s : State) : Out :=
  instr (.cdereg a) {} [G a] [] s fun s =>
    let h := field (rg s a) 0 8
    match Tab.find (owner s).regs h with
    | none => collTrap 5 s
    | some r => if r.posts ≠ [] then collTrap 6 s else .ok none (deregister s (thr s).owner h)

/-! ### What a collective computes (R359) -/

/-- The place of a byte of a registered buffer. -/
def Registration.key (r : Registration) (off : Nat) : Nat :=
  let x := r.addr % 4096 + off
  r.pages.getD (x / 4096) 0 + x % 4096

/-- Bytes of a registered buffer at their homes. -/
def readBuffer (s : State) (r : Registration) (off n : Nat) : List Byte :=
  (List.range n).map fun i => homeByte s (r.key (off + i))

/-- A quotient by a power of two, rounded half to even (R50). -/
def rneShift (t : Int) (k : Nat) : Int :=
  if k = 0 then t
  else
    let q := t / 2 ^ k
    let r := t % 2 ^ k
    if r < 2 ^ (k - 1) then q else if 2 ^ (k - 1) < r then q + 1 else if q % 2 = 0 then q else q + 1

/-- A block-sum entry: none for one with nonzero bits [63:16] of word 1 (R49). -/
def blockEntry (bytes : List Byte) : Option (Int × Int) :=
  let lo := BitVec.ofNat 64 (ofLeBytes (bytes.take 8))
  let hi := BitVec.ofNat 64 (ofLeBytes (bytes.drop 8))
  if zeroBits hi 63 16 then some (lo.toInt, (hi.extractLsb' 0 16).toInt) else none

/-- A contribution combined into a running sum: none is a COLL error (R50). -/
def combine (acc x : Int × Int) : Option (Int × Int) :=
  let (t, e) := if acc.2 < x.2 then (rneShift acc.1 (x.2 - acc.2).toNat + x.1, x.2)
    else (acc.1 + rneShift x.1 (acc.2 - x.2).toNat, acc.2)
  let (t, e) := if 2 ^ 63 ≤ t ∨ t < -(2 ^ 63) then (rneShift t 1, e + 1) else (t, e)
  if 32767 < e then none else some (t, e)

/-- Block sums combined in ascending index order. -/
def blockSum : List (List Byte) → Option (List Byte)
  | [] => none
  | x :: xs =>
    match xs.foldl (fun acc y => match acc, blockEntry y with
        | some a, some b => combine a b
        | _, _ => none) (blockEntry x) with
    | some (t, e) => some (leBytes 8 (BitVec.ofInt 64 t).toNat ++ leBytes 8 (BitVec.ofInt 16 e).toNat)
    | none => none

/-- Bytes of an element of a kind. -/
def kindBytes (k : Nat) : Nat := match k with | 0 | 2 => 4 | 1 => 8 | 3 | 4 => 2 | _ => 16

/-- The floating format of a kind. -/
def kindFmt (k : Nat) : Fp.Fmt := match k with | 2 => Fp.fp32 | 3 => Fp.bf16 | _ => Fp.fp16

/-- An element of a result from the participants' elements in index order: none is a COLL error. -/
def reduceElem (kind op : Nat) (xs : List (List Byte)) : Option (List Byte) :=
  let w := kindBytes kind
  let vals := xs.map ofLeBytes
  let signed (v : Nat) : Int := (BitVec.ofNat (8 * w) v).toInt
  if kind = 5 then blockSum xs
  else if kind ≤ 1 then
    some (leBytes w (match op with
      | 0 => vals.foldl (fun a v => a + v) 0
      | 1 => vals.foldl (fun a v => if signed a < signed v then v else a) (vals.headD 0)
      | _ => vals.foldl (fun a v => if signed v < signed a then v else a) (vals.headD 0)))
  else
    let f := kindFmt kind
    some (leBytes w (match op with
      | 0 => ((vals.foldl (fun d v => d.take (Fp.decode f v)) ({} : Dot)).result f).1
      | o => (vals.drop 1).foldl (fun a v => (Fp.minMax f (o == 1) a v).1) (vals.headD 0)))

/-- A reduction of whole contributions, element by element. -/
def reduce (kind op n : Nat) (xs : List (List Byte)) : Option (List Byte) :=
  let w := kindBytes kind
  let parts := xs.map fun x => pieces w (n / w) x
  ((List.range (n / w)).foldr (fun i acc =>
    match reduceElem kind op (parts.map fun p => p.getD i []), acc with
    | some b, some bs => some (b ++ bs)
    | _, _ => none) (some []))

/-- Where a participant's contribution begins in its buffer: of a gather, at its own segment (R359). -/
def Registration.start (r : Registration) : Nat := if r.gather then r.index * r.len else 0

/-- Word `k` of a participant's contribution: as the arcade has read it, else as it stands at its home (R360). -/
def contributionWord (s : State) (r : Registration) (k : Nat) : List Byte :=
  match Tab.find r.got k with
  | some w => leBytes 8 w.toNat
  | none => readBuffer s r (r.start + 8 * k) 8

/-- The op of a participant's oldest post, and its contribution. -/
def contribution (s : State) (regs : List (Nat × Nat × Registration)) (remote : List RemotePost) (i : Nat) :
    Option (Nat × List Byte) :=
  match regs.find? fun r => r.2.2.index == i with
  | some (_, _, r) => match r.posts with
    | [] => none
    | p :: _ => some (p.op, ((List.range (r.len / 8)).map (contributionWord s r)).flatten)
  | none => (remote.find? fun p => p.index == i).map fun p => (p.op, p.bytes)

/-- The contributions of participants from index `i` on, if each has posted. -/
def contributions (s : State) (regs : List (Nat × Nat × Registration)) (remote : List RemotePost) :
    Nat → Nat → Option (List (Nat × List Byte))
  | 0, _ => some []
  | n + 1, i => match contribution s regs remote i, contributions s regs remote n (i + 1) with
    | some x, some xs => some (x :: xs)
    | _, _ => none

/-- What a collective comes to: a failure code, or 0 with the result. -/
def outcomeOf (r : Registration) (xs : List (Nat × List Byte)) : Nat × List Byte :=
  let op := (xs.headD (0, [])).1
  if xs.any fun x => x.1 != op then (1, [])
  else if r.gather then (0, (xs.map Prod.snd).flatten)
  else match reduce r.kind op r.len (xs.map Prod.snd) with
    | some b => (0, b)
    | none => (3, [])

/-- The participants of a registration's name on this module that stand in a state. -/
def regsIn (s : State) (r : Registration) (st : RegState) : List (Nat × Nat × Registration) :=
  (localRegs s r.dom r.name).filter fun x => x.2.2.st == st

/-- Participant `i` of a registration's name has made its next post: here, on a Ready registration, or on another module, where the
name table knows it, with a contribution of the registered length (R356, R359). -/
def hasPosted (s : State) (r : Registration) (remote : List RemotePost) (i : Nat) : Bool :=
  match (localRegs s r.dom r.name).find? fun x => x.2.2.index == i with
  | some x => x.2.2.st == .ready && x.2.2.posts != []
  | none => (s.remotes.any fun p => p.dom == r.dom && p.name == r.name && p.index == i)
      && (remote.find? fun p => p.index == i).any fun p => p.bytes.length == r.len

/-- COLLECTIVE_START: every participant has made its next post, and the collective runs (R356, R359). `remote` gives the other
modules' posts. -/
def execCollectiveStart (o h : Nat) (remote : List RemotePost) (s : State) : Out :=
  event s <| match Tab.find (ownerAt s o).regs h with
    | none => none
    | some r =>
      if r.st == .ready && (List.range r.count).all (hasPosted s r remote) then
        some ((regsIn s r .ready).foldl (fun s x =>
          updReg s x.1 x.2.1 fun y => { y with st := .running, run := some remote }) s)
      else none

/-- Words in a buffer's result. -/
def Registration.resultWords (r : Registration) : Nat := (if r.gather then r.count * r.len else r.len) / 8

/-- The contribution words of a participant with the numbers given, once the arcade has read them all. -/
def wordsGot (regs : List (Nat × Nat × Registration)) (remote : List RemotePost) (ks : List Nat) (i : Nat) : Option (List Byte) :=
  match regs.find? fun r => r.2.2.index == i with
  | some (_, _, r) =>
    if ks.all fun k => (Tab.find r.got k).isSome then
      some (ks.map fun k => leBytes 8 ((Tab.find r.got k).getD 0).toNat).flatten
    else none
  | none => (remote.find? fun p => p.index == i).map fun p => (ks.map fun k => (p.bytes.drop (8 * k)).take 8).flatten

/-- Word `k` of a Running collective's result, once every contribution word that it depends on has been read: of a gather, the one word
it copies, of a reduction the words of its element; none where the ops differ or the element has no sum (R359, R361). -/
def resultWord (s : State) (r : Registration) (remote : List RemotePost) (k : Nat) : Option (List Byte) :=
  let regs := regsIn s r .running
  let per := (kindBytes r.kind + 7) / 8
  let ops := (List.range r.count).map fun i => (contribution s regs remote i).map Prod.fst
  match ops with
  | some op :: _ =>
    if ops.any fun x => x != some op then none
    else if r.gather then wordsGot regs remote [8 * k % r.len / 8] (8 * k / r.len)
    else
      let ks := (List.range per).map fun i => per * (k / per) + i
      match (List.range r.count).mapM (wordsGot regs remote ks) with
      | some xs => (reduce r.kind op (8 * per) xs).map fun b => (b.drop (8 * (k % per))).take 8
      | none => none
  | _ => none

/-- One access of the arcade to a buffer of a Running collective: a word of its contribution read, once, or a word of its result
performed (R360). -/
def collectiveWord (s : State) (o h k : Nat) (write : Bool) : Option State :=
  match Tab.find (ownerAt s o).regs h with
  | none => none
  | some r => match r.run with
    | none => none
    | some remote =>
      if write then
        if r.resultWords ≤ k ∨ r.done.contains k then none
        else (resultWord s r remote k).map fun b =>
          updReg (setHomes s (r.key (8 * k)) b) o h fun r => { r with done := k :: r.done }
      else if r.len ≤ 8 * k ∨ (Tab.find r.got k).isSome then none
      else
        let w := BitVec.ofNat 64 (ofLeBytes (readBuffer s r (r.start + 8 * k) 8))
        some (updReg s o h fun r => { r with got := Tab.set w r.got k })

/-- What is left of a result performed in a buffer. -/
def finishBuffer (s : State) (r : Registration) (bytes : List Byte) : State :=
  ((List.range (bytes.length / 8)).filter fun k => !r.done.contains k).foldl
    (fun s k => setHomes s (r.key (8 * k)) ((bytes.drop (8 * k)).take 8)) s

/-- The post of one participant ended with a code: Ready again, or Failed with the posts it still has (R360, R361). -/
def endOne (code : Nat) (s : State) (x : Nat × Nat × Registration) : State :=
  let s := updReg s x.1 x.2.1 fun r => { r with st := if code = 0 then .ready else .failed }
  let s := endPost s x.1 x.2.1 code
  match Tab.find (ownerAt s x.1).regs x.2.1 with
  | some r => if r.st == .failed then flushPosts x.1 x.2.1 4 16 s else s
  | none => s

/-- What a Running collective comes to, the arcade reading what it has not read of the contributions: a failure code, or 0 with the
result (R359, R360). -/
def outcome (s : State) (r : Registration) (remote : List RemotePost) : Nat × List Byte :=
  ((contributions s (regsIn s r .running) remote r.count 0).map (outcomeOf r)).getD (4, [])

/-- A Running collective ends: the results first stand in every buffer, unless it failed, then every barrier receives its arrival
(R360, R361). -/
def endCollective (s : State) (r : Registration) : State :=
  match r.run with
  | none => s
  | some remote =>
    let (code, bytes) := outcome s r remote
    let regs := regsIn s r .running
    let s := if code = 0 then regs.foldl (fun s x => finishBuffer s x.2.2 bytes) s else s
    regs.foldl (endOne code) s

/-! ### Lost routes (R355) -/

/-- A name has participants on other modules. -/
def farFrom (s : State) (r : Registration) : Bool := s.remotes.any fun p => p.dom == r.dom && p.name == r.name

/-- A collective with participants on other modules, while no port of this one carries beats: its route is lost (R355). -/
def routeLost (s : State) (r : Registration) : Bool := farFrom s r && !(s.sys.ports.any fun p => p.2.works)

/-- A Ready or Running registration, whose next collective the loss of its route ends. -/
def Registration.underWay (r : Registration) : Bool := r.st == .ready || r.st == .running

/-- A participant of a collective whose route is lost: Failed with code 2, its posts ended, if it has made any (R355, R361). -/
def loseOne (s : State) (x : Nat × Nat × Registration) : State :=
  if x.2.2.posts = [] then updReg s x.1 x.2.1 fun r => { r with st := .failed, code := 2 } else endOne 2 s x

/-- The collective of a name ended by the loss of its route, once one of its participants here has posted: all of them fail
(DEDUCED, assumption 46). -/
def loseName (s : State) (r : Registration) : Option State :=
  let regs := (localRegs s r.dom r.name).filter fun x => x.2.2.underWay
  if r.underWay && regs.any fun x => x.2.2.posts != [] then some (regs.foldl loseOne s) else none

/-- COLLECTIVE_END: a Running collective ends; or, with `lost`, the route of one with participants on other modules is lost, somewhere
between here and there, as it is for certain when no port here carries beats (R355, R360, R361). -/
def execCollectiveEnd (o h : Nat) (lost : Bool) (s : State) : Out :=
  event s <| match Tab.find (ownerAt s o).regs h with
    | none => none
    | some r =>
      if lost then (if farFrom s r then loseName s r else none)
      else if r.st == .running && !routeLost s r then some (endCollective s r) else none

/-- The collectives whose route is lost end with code 2. -/
def loseRoutes (s : State) : State :=
  s.owners.foldl (fun s o => o.2.regs.foldl (fun s x => match Tab.find (ownerAt s o.1).regs x.1 with
    | some r => if routeLost s r then (loseName s r).getD s else s
    | none => s) s) s

/-- LANE_FAILURE (R355). -/
def execLaneFailure (port : Nat) (s : State) : Out :=
  event s <|
    if (arcPort s port).works then
      some (loseRoutes (updPort s port fun p => if p.lanes ≤ 4 then {} else { p with st := .degraded, lanes := p.lanes - 1 }))
    else none

/-- PORT_STOP (R355). -/
def execPortStop (port : Nat) (s : State) : Out :=
  event s (if (arcPort s port).works then some (loseRoutes (updPort s port fun _ => {})) else none)

end Sys2Proof.Machine
end

