-- ==== Sys2Proof/Machine/Compact.lean ====
section
/-! DEFINITION. Compact forms: each has exactly the effect of its 32-bit equivalent, with the PC moving by 2 (R57). -/

namespace Sys2Proof.Machine

/-- A register of a compact form: g0 to g15. -/
abbrev creg (r : BitVec 4) : BitVec 6 := r.setWidth 6

/-- NOP. -/
def execNopCompact (s : State) : Out := instr .nopCompact {} [] [] s fun s => .ok none s

/-- MOV gd, gs: OR gd, gs, g0. -/
def execMov (d r : BitVec 4) (s : State) : Out :=
  compact [G d, G r, .g 0] s fun s => .ok none (wg s (creg d) (rg s (creg r)))

/-- LI gd, imm6: ADDI gd, g0, imm6. -/
def execLi (d : BitVec 4) (i : BitVec 6) (s : State) : Out :=
  compact [G d, .g 0] s fun s => .ok none (wg s (creg d) (sx i))

/-- A compact operation of gd and gs. -/
def compact2 (d r : BitVec 4) (f : Word → Word → Word) (s : State) : Out :=
  compact [G d, G r] s fun s => .ok none (wg s (creg d) (f (rg s (creg d)) (rg s (creg r))))

/-- A compact operation of gd and a value from the word. -/
def compact1 (d : BitVec 4) (f : Word → Word) (s : State) : Out :=
  compact [G d] s fun s => .ok none (wg s (creg d) (f (rg s (creg d))))

/-- ADD gd, gd, gs. -/
def execAddCompact (d r : BitVec 4) (s : State) : Out := compact2 d r (fun a b => a + b) s

/-- SUB gd, gd, gs. -/
def execSubCompact (d r : BitVec 4) (s : State) : Out := compact2 d r (fun a b => a - b) s

/-- AND gd, gd, gs. -/
def execAndCompact (d r : BitVec 4) (s : State) : Out := compact2 d r (fun a b => a &&& b) s

/-- OR gd, gd, gs. -/
def execOrCompact (d r : BitVec 4) (s : State) : Out := compact2 d r (fun a b => a ||| b) s

/-- XOR gd, gd, gs. -/
def execXorCompact (d r : BitVec 4) (s : State) : Out := compact2 d r (fun a b => a ^^^ b) s

/-- ADDI gd, gd, imm6. -/
def execAddiCompact (d : BitVec 4) (i : BitVec 6) (s : State) : Out := compact1 d (fun x => x + sx i) s

/-- SLLI gd, gd, sh. -/
def execSlliCompact (d : BitVec 4) (i : BitVec 6) (s : State) : Out := compact1 d (fun x => x <<< i.toNat) s

/-- SRLI gd, gd, sh. -/
def execSrliCompact (d : BitVec 4) (i : BitVec 6) (s : State) : Out := compact1 d (fun x => x >>> i.toNat) s

/-- SRAI gd, gd, sh. -/
def execSraiCompact (d : BitVec 4) (i : BitVec 6) (s : State) : Out := compact1 d (fun x => x.sshiftRight i.toNat) s

/-- LD.W gd, [gs + 4k], mode OWN. -/
def execLdWCompact (d r : BitVec 4) (k : BitVec 2) (s : State) : Out :=
  instr (.ldWCompact d r k) {} [G d, G r] [] s fun s => loadAct d.toNat (rg s (creg r)) (4 * k.toNat : Nat) 4 0 true s

/-- LD.D gd, [gs + 8k], mode OWN. -/
def execLdDCompact (d r : BitVec 4) (k : BitVec 2) (s : State) : Out :=
  instr (.ldDCompact d r k) {} [G d, G r] [] s fun s => loadAct d.toNat (rg s (creg r)) (8 * k.toNat : Nat) 8 0 true s

/-- ST.W gt, [gs + 4k], mode OWN. -/
def execStWCompact (t r : BitVec 4) (k : BitVec 2) (s : State) : Out :=
  instr (.stWCompact t r k) {} [G t, G r] [] s fun s => storeAct (rg s (creg t)) (rg s (creg r)) (4 * k.toNat : Nat) 4 0 s

/-- ST.D gt, [gs + 8k], mode OWN. -/
def execStDCompact (t r : BitVec 4) (k : BitVec 2) (s : State) : Out :=
  instr (.stDCompact t r k) {} [G t, G r] [] s fun s => storeAct (rg s (creg t)) (rg s (creg r)) (8 * k.toNat : Nat) 8 0 s

/-- BEQZ gs, off6: BEQ gs, g0, off6. -/
def execBeqz (r : BitVec 4) (o : BitVec 6) (s : State) : Out :=
  compact [G r, .g 0] s fun s => branchOn (2 * o.toInt) (rg s (creg r) == 0) s

/-- BNEZ gs, off6: BNE gs, g0, off6. -/
def execBnez (r : BitVec 4) (o : BitVec 6) (s : State) : Out :=
  compact [G r, .g 0] s fun s => branchOn (2 * o.toInt) (rg s (creg r) != 0) s

/-- J off10. -/
def execJCompact (o : BitVec 10) (s : State) : Out := compact [] s fun s => branchOn (2 * o.toInt) true s

/-- RET: JALR g0, g10, 0. -/
def execRet (s : State) : Out := instr .ret {} [.g 0, .g 10] [] s fun s => jumpReg 0 (rg s 10) 2 s

end Sys2Proof.Machine
end

