-- ==== Sys2Proof/Machine/Context.lean ====
section
/-! DEFINITION. Saving and loading a context: CTXSAVE, CTXLOAD and the hang watchdog (R163 to R167). -/

namespace Sys2Proof.Machine

/-! ### The save area (R163) -/

/-- CTXPROG of the current core changed. -/
def updProg (s : State) (f : CtxProg → CtxProg) : State := updCore s s.core fun c => { c with ctxprog := f c.ctxprog }

/-- A save area's magic. -/
def saveMagic : Word := 0x53585443

/-- Word 1 of the header. -/
def headerWord (state owner slot rank : Nat) : Word :=
  place state 0 ||| place owner 8 ||| place slot 16 ||| place 1 24 ||| place rank 32

/-- A word's bytes. -/
def wordBytes (w : Word) : List Byte := leBytes 8 w.toNat

/-- The header unit of a save. -/
def headerBytes (t : Thread) (state slot rank began : Nat) : List Byte :=
  ([saveMagic, headerWord state t.owner slot rank, place t.kid 0, BitVec.ofNat 64 began, 0, 0, 0, 0].map wordBytes).flatten

/-- Word 17: the dispatch counter and the pending late faults. The spec gives no layout; the counter stands in bits [15:0], and
the rest is zero where no fault is pending (DESIGN CHOICE, assumption 51). -/
def lateWord (t : Thread) : Word :=
  let rest : BitVec 48 := if t.late = [] then 0 else Config.lateBits (t.late.map fun e => (e.seq, e.cause, e.value))
  rest ++ t.seq

/-- KIDX of a thread, whose kernel is WrappingUp or not. -/
def kidxOf (s : State) (t : Thread) : Word :=
  place (if wrapping s t.owner t.kid then 1 else 0) 63 ||| place (if t.diverted then 1 else 0) 62
    ||| place t.kcount 10 ||| place t.kindex 0

/-- Words 0 to 55 of the area, from offset 64. -/
def stateWords (s : State) (t : Thread) : List Word :=
  [t.pc, tstatWord t, allocWord t, zx t.frm, zx t.fflags, zx t.fen, zx t.srseed, t.utvec, t.uepc, t.ucause, t.utval,
   t.uscratch, t.tepc, t.tcause, t.tval, t.tseq, t.tscratch, lateWord t, budgetWord t, bit t.evt]
  ++ (List.range 8).map t.getM ++ (List.range 4).map t.getIx
  ++ [bit t.mten, t.evword, t.dlepc, kidxOf s t, t.xepc, t.xferid, t.xarg, t.drsel, t.mfaddr, t.tlbiv, t.pgflt, t.bksel,
      t.rothctl, place t.irqs.length 0]
  ++ List.replicate 10 0

/-- The two words of a dispatch ring entry (R159). -/
def ringWords (t : Thread) (i : Nat) : List Word :=
  match Tab.find t.ring i with
  | some e => [e.pc, ringWord1 e]
  | none => [0, 0]

/-- The four words of a pending transfer interrupt. -/
def irqWords (t : Thread) (i : Nat) : List Word :=
  match t.irqs[i]? with
  | some q => [q.xferid, q.entry, q.user, 0]
  | none => [0, 0, 0, 0]

/-- The body of the area, from offset 64 to 8,191. -/
def bodyBytes (s : State) (t : Thread) : List Byte :=
  let g := (List.range 64).map fun n => if n < windowSize t.wsz then t.getG n else 0
  let v := ((List.range 32).map fun n => leBytes 64 (if n < vectorSize t.vsz then t.getV n else 0).toNat).flatten
  ((stateWords s t ++ g).map wordBytes).flatten ++ v ++ (((List.range 32).map (ringWords t)).flatten.map wordBytes).flatten
    ++ List.replicate 512 0 ++ (((List.range 64).map (irqWords t)).flatten.map wordBytes).flatten
    ++ List.replicate 2048 0

/-! ### The save (R164) -/

/-- An operation in progress abandoned: a save leaves its target Held, a load frees its slot (R165). -/
def abandon (s : State) : State :=
  let p := (coreAt s s.core).ctxprog
  let s := if p.act && p.load && !p.tn then freeSlot s s.core p.slot else s
  updProg s fun _ => {}

/-- CTXPROG is at work on the same operation. -/
def sameOp (p : CtxProg) (load : Bool) (slot area : Nat) : Bool :=
  p.act && p.load == load && p.slot == slot && p.area == area

/-- The check of an area: R97 with size 8,192, and ACCESS where a page of it is not a save area; a page that is missing
shows when its unit is written or read. -/
def checkArea (s : State) (a : Word) (need : Need) : Act Nat :=
  (effAddr s a 0 8192).bind fun ea s =>
    let bad (p : Nat) : Bool := match walk s (thr s).owner true p need with
      | .access => true
      | .found _ _ pinned => !pinned
      | _ => false
    if inWindow ea || bad ea || bad (ea + 4096) then .trap Cause.access (BitVec.ofNat 64 ea) s else .ok ea s

/-- A unit of the area written at its home: SAVEFAULT with the unit's address without a translation. -/
def putUnit (s : State) (addr : Nat) (bytes : List Byte) : Act Unit :=
  (saveArea s addr { w := true }).bind fun k s => .ok () (writeThrough s k bytes)

/-- The next `n` units of an image of the area from number `u` on, each counted in CTXPROG.done (R164). -/
def putUnits (area : Nat) (image : List Byte) : Nat → Nat → State → Act Unit
  | 0, _, s => .ok () s
  | n + 1, u, s => (putUnit s (area + 64 * u) ((image.drop (64 * u)).take 64)).bind fun _ s =>
      putUnits area image n (u + 1) (updProg s fun p => { p with done := u + 1 })

/-- No coprocessor instruction of a thread of the current core is pending, and no transfer of it with irq set is
outstanding (R164). -/
def saveReady (s : State) (t : Thread) : Bool :=
  idleUnits s s.core t && !(s.xfers.any fun x => x.req.uid == t.uid && x.req.irq && x.out)
    && !(s.xflights.any fun x => x.req.uid == t.uid && x.req.irq)

/-- What the core keeps of a saved context. -/
def savedOf (s : State) (area : Nat) (t : Thread) : SavedCtx :=
  { area := area, owner := t.owner, kid := t.kid, uid := t.uid, words := stateWords s t, seq := t.seq, late := t.late,
    lateUser := t.lateUser, userDepth := t.userDepth, lateSup := t.lateSup, lateDepth := t.lateDepth, budgetDue := t.budgetDue, mbx := t.mbx,
    resident := t.resident }

/-- The loop of R164 from CTXPROG.done on: the units, the header among them in progress; the header complete; the release; the
end. Where its target's kernel has ended meanwhile it goes on with the Free slot (DESIGN CHOICE, assumption 89). -/
def saveLoop (d : BitVec 6) (slot area : Nat) (s : State) : Act (Option Word) :=
  let t := thrAt s s.core slot
  if !saveReady s t then .wait .busy s
  else
    let p := (coreAt s s.core).ctxprog
    let head (st : Nat) : List Byte := headerBytes t st slot (rankOf s s.core t.owner) p.began
    (putUnits area (head 1 ++ bodyBytes s t) (128 - p.done) p.done s).bind fun _ s =>
    (if p.complete then .ok () s
      else (putUnit s area (head 2)).bind fun _ s => .ok () (updProg s fun p => { p with complete := true })).bind fun _ s =>
    (release s).bind fun _ s =>
      let s := freeSlot s s.core slot
      let s := updCore s s.core fun c => { c with
        ctxprog := {}, saved := savedOf s area t :: c.saved }
      .ok none (wg s d 0)

/-- The state with which an instruction's trap leaves it: the pseudocode before the trap changes nothing (R9). -/
def Act.undoing {α : Type} (s : State) : Act α → Act α
  | .trap c v _ => .trap c v s
  | x => x

/-- CTXSAVE (R164). -/
def execCtxsave (d a : BitVec 6) (s : State) : Out :=
  instr (.ctxsave d a) { priv := !(thr s).sup } [G d, G a] [] s fun s =>
    let slot := field (rg s d) 0 4
    let p := (coreAt s s.core).ctxprog
    if sameOp p false slot (ptrAddr (rg s a)) then
      if p.tn then .ok none (wg (updProg s fun _ => {}) d 1) else saveLoop d slot (ptrAddr (rg s a)) s
    else
      let s0 := s
      let s := if p.act then abandon s else s
      if slot = s.slot ∨ (thrAt s s.core slot).st ≠ .held then .ok none (wg s d 5)
      else ((checkArea s (rg s a) { w := true }).undoing s0).bind fun area s =>
        saveLoop d slot area (updProg s fun _ => { act := true, slot := slot, area := area, began := s.cycle })

/-! ### The load (R165) -/

/-- A unit read. -/
def getUnit (s : State) (addr : Nat) : Act (List Byte) :=
  (saveArea s addr { r := true, w := true }).bind fun k s => let (b, s) := readBytes s false (places k 64); .ok b s

/-- The units from number `u` on, into CTXPROG's buffer. -/
def getUnits (area : Nat) : Nat → Nat → State → Act Unit
  | 0, _, s => .ok () s
  | n + 1, u, s => (getUnit s (area + 64 * u)).bind fun b s =>
      getUnits area n (u + 1) (updProg s fun p => { p with done := u + 1, buf := p.buf ++ b })

/-- Word `i` of the bytes read, from the area's offset 0. -/
def bufWord (b : List Byte) (i : Nat) : Word := BitVec.ofNat 64 (ofLeBytes ((b.drop (8 * i)).take 8))

/-- The status of a header that fails a check of R165. -/
def headerStatus (s : State) (b : List Byte) : Option Nat :=
  let w := bufWord b 1
  let o := field w 8 8
  let kid := field (bufWord b 2) 0 32
  let ended := kid != 0 && match kernelAt s o kid with | some k => k.over | none => true
  if bufWord b 0 ≠ saveMagic ∨ field w 24 8 ≠ 1 ∨ field w 0 2 ≠ 2 then some 3
  else if (Tab.find (coreAt s s.core).ctxs o).isNone ∨ field w 32 10 ≠ rankOf s s.core o ∨ ended = true then some 4
  else none

/-- A dispatch ring entry from its two words. -/
def ringOf (b : List Byte) (i : Nat) : Option (Nat × RingEntry) :=
  let w := bufWord b (384 + 2 * i + 1)
  if w.getLsbD 63 then
    some (i, { seq := w.extractLsb' 0 16, pc := bufWord b (384 + 2 * i), cause := w.extractLsb' 24 8,
               unit := w.extractLsb' 18 2, st := w.extractLsb' 16 2 })
  else none

/-- The bits of XFERID that are not reserved (R305). -/
def xferidMask : Word := 0x8000FFFF03FFFFFF

/-- A pending transfer interrupt from its words. -/
def irqOf (b : List Byte) (i : Nat) : Irq := ⟨bufWord b (512 + 4 * i) &&& 0x0000FFFF03FFFFFF, bufWord b (513 + 4 * i), bufWord b (514 + 4 * i)⟩

/-- The bits of PGFLT that are not reserved (R339). -/
def pgfltMask : Word := 0xC0000000000007FF

/-- The bits of ROTHCTL that are not reserved (R353). -/
def rothctlMask : Word := 0xC000000000003FFF

/-- The bits of MFADDR that are not reserved (R243). -/
def mfaddrMask : Word := 0x000FFFFFFFFFFFFF

/-- The bits of BKSEL that are not reserved (R339). -/
def bkselMask : Word := 0x031FFFFF000F00FF

/-- The thread of the bytes of an area, every register and CSR restored, its reserved bits zero (R5); `old` is what the core
keeps of the context, if it still keeps it, and `x` the value of GSTAT, which the area does not hold. SRSEED takes the saved
word, though zero stands in it (DESIGN CHOICE, assumption 67). -/
def threadOf (b : List Byte) (old : Option SavedCtx) (x : Word) (t : Thread) : Thread :=
  let w (i : Nat) : Word := bufWord b (8 + i)
  let rest : BitVec 48 := (w 17).extractLsb' 16 48
  let lates := (if rest = 0 then [] else Config.lateFaults rest).map fun e => (⟨e.1, e.2.1, e.2.2⟩ : LateFault)
  let t : Thread := { t with
    pc := w 0 &&& ~~~1, sup := (w 1).getLsbD 0, tpm := (w 1).getLsbD 8, tin := (w 1).getLsbD 9, prio := (w 2).extractLsb' 8 8
    frm := (w 3).setWidth 3, fflags := (w 4).setWidth 5, fen := (w 5).setWidth 5, srseed := (w 6).setWidth 32
    utvec := w 7 &&& csrRw 0x040, uepc := w 8 &&& csrRw 0x041, ucause := w 9 &&& csrRw 0x042, utval := w 10
    uscratch := w 11, tepc := w 12 &&& csrRw 0x049, tcause := w 13 &&& csrRw 0x04A, tval := w 14
    tseq := w 15 &&& csrRw 0x04C, tscratch := w 16, budgetEn := (w 18).getLsbD 63, budget := field (w 18) 0 48
    evt := (w 19).getLsbD 0 }
  let t : Thread := { t with
    m := (List.range 8).map fun i => (i, w (20 + i))
    ix := (List.range 4).map fun i => (i, w (28 + i))
    mten := (w 32).getLsbD 0, evword := w 33, dlepc := w 34 &&& csrRw 0x103, diverted := (w 35).getLsbD 62
    kcount := field (w 35) 10 11, kindex := field (w 35) 0 10, xepc := w 36 &&& csrRw 0x0E1, xferid := w 37 &&& xferidMask, xarg := w 38
    drsel := w 39 &&& csrRw 0x050, mfaddr := w 40 &&& mfaddrMask, tlbiv := w 41 &&& csrRw 0x172, pgflt := w 42 &&& pgfltMask
    bksel := w 43 &&& bkselMask, rothctl := w 44 &&& rothctlMask
    irqs := (List.range (Nat.min (w 45).toNat 64)).map (irqOf b) }
  let t : Thread := { t with
    g := (List.range (windowSize t.wsz)).map fun n => (n, bufWord b (64 + n))
    v := (List.range (vectorSize t.vsz)).map fun n => (n, BitVec.ofNat 512 (ofLeBytes ((b.drop (1024 + 64 * n)).take 64)))
    ring := (List.range 32).filterMap (ringOf b)
    gstat := x }
  match old with
  | some v => { t with seq := v.seq, late := v.late, lateUser := v.lateUser, userDepth := v.userDepth,
                       lateSup := v.lateSup, lateDepth := v.lateDepth, budgetDue := v.budgetDue, mbx := v.mbx, resident := v.resident }
  | none => { t with seq := (w 17).setWidth 16, late := lates, lateUser := t.ucause.getLsbD 63 && t.ucause.getLsbD 8,
                     lateSup := t.sup && t.tcause.getLsbD 8 }

/-- A load that ends with a nonzero status: its slot is freed. -/
def endLoad (s : State) (d : BitVec 6) (slot status : Nat) : Act (Option Word) :=
  .ok none (wg (updProg (freeSlot s s.core slot) fun _ => {}) d (place status 0))

/-- What the core keeps of the context in an area: the latest one saved with the area's owner, kernel and words, there or in an
area that has been copied since; else the latest one saved there, while word 17 still shows it. -/
def keptOf (c : Core) (area : Nat) (b : List Byte) : Option SavedCtx :=
  let same (v : SavedCtx) : Bool := v.owner == field (bufWord b 1) 8 8 && v.kid == field (bufWord b 2) 0 32
  match c.saved.find? fun v => same v && v.words == (List.range 56).map fun i => bufWord b (8 + i) with
  | some v => some v
  | none => c.saved.find? fun v => v.area == area && same v && v.words[17]? == some (bufWord b 25)

/-- The header checked and the allocation granted, before the rest of the body is read. -/
def loadHead (slot area : Nat) (s : State) : Act (Option Nat) :=
  let p := (coreAt s s.core).ctxprog
  if 2 ≤ p.done then .ok none s
  else (getUnits area (2 - p.done) p.done s).bind fun _ s =>
    let b := (coreAt s s.core).ctxprog.buf
    match headerStatus s b with
    | some st => .ok (some st) s
    | none =>
      let alloc := bufWord b 10
      let wsz := alloc.extractLsb' 0 2
      let vsz := alloc.extractLsb' 2 2
      match (if wsz = 3 then none else findRuns (coreAt s s.core).threads wsz vsz) with
      | none => .ok (some 2) s
      | some (gb, vb) =>
        let (u, s) := fresh s
        .ok none (updThrAt s s.core slot fun t =>
          { t with uid := u, wsz := wsz, vsz := vsz, gbase := gb, vbase := vb, owner := field (bufWord b 1) 8 8,
                   kid := field (bufWord b 2) 0 32 })

/-- The number of a loaded thread: that of the context saved, whose transfers it takes with it (R164), unless a load of another
copy has taken them. -/
def keptUid (old : Option SavedCtx) (new : Nat) : Nat :=
  match old with
  | some v => if v.taken then new else v.uid
  | none => new

/-- The load from CTXPROG.done on. Where its slot was freed meanwhile it goes on with it (DESIGN CHOICE, assumption 89). -/
def loadLoop (d : BitVec 6) (slot area : Nat) (s : State) : Act (Option Word) :=
  (loadHead slot area s).bind fun r s =>
    match r with
    | some st => endLoad s d slot st
    | none =>
      let p := (coreAt s s.core).ctxprog
      (getUnits area (128 - p.done) p.done s).bind fun _ s =>
        let b := (coreAt s s.core).ctxprog.buf
        (putUnit s area (((List.range 8).map fun i =>
          wordBytes (if i = 1 then bufWord b 1 &&& ~~~3 else bufWord b i)).flatten)).bind fun _ s =>
        let old := keptOf (coreAt s s.core) area b
        let (x, s) := draw s
        let s := updThrAt s s.core slot fun t =>
          { threadOf b old x t with st := .ready, uid := keptUid old t.uid }
        let take (v : SavedCtx) : SavedCtx := if some v.uid == old.map SavedCtx.uid then { v with taken := true } else v
        let s := updCore s s.core fun c => { c with ctxprog := {}, saved := c.saved.map take }
        .ok none (wg s d 0)

/-- CTXLOAD (R165). -/
def execCtxload (d a : BitVec 6) (s : State) : Out :=
  instr (.ctxload d a) { priv := !(thr s).sup } [G d, G a] [] s fun s =>
    let slot := field (rg s d) 0 4
    let p := (coreAt s s.core).ctxprog
    if sameOp p true slot (ptrAddr (rg s a)) then
      if p.tn then .ok none (wg (updProg s fun _ => {}) d 1) else loadLoop d slot (ptrAddr (rg s a)) s
    else
      let s0 := s
      let s := if p.act then abandon s else s
      if (thrAt s s.core slot).st ≠ .free then .ok none (wg s d 5)
      else ((checkArea s (rg s a) { r := true }).undoing s0).bind fun area s =>
        let s := updThrAt s s.core slot fun _ => { st := .loading }
        loadLoop d slot area (updProg s fun _ => { act := true, load := true, slot := slot, area := area })

/-! ### The hang watchdog (R166) -/

/-- The operation of a core has reached HWLIM; 0 disables the watchdog. -/
def hangDue (c : Core) : Bool := c.ctxprog.act && !c.ctxprog.tn && c.hwlim != 0 && decide (c.hwlim.toNat ≤ c.ctxprog.clk)

/-- At HWLIM, tn is set and the operation ends; a torn save frees its target with its context, and the owner learns of it. -/
def hang (s : State) (core : Nat) : State :=
  let p := (coreAt s core).ctxprog
  let ended (s : State) : State := updCore s core fun c => { c with ctxprog := { c.ctxprog with tn := true } }
  let t := thrAt s core p.slot
  if p.load then ended (freeSlot s core p.slot)
  else
    let torn := (headerBytes t 3 p.slot (rankOf s core t.owner) p.began).take 16
    let s := match areaPlace s t.owner p.area { w := true } with
      | some k => setHomes (walked s t.owner true p.area) k torn
      | none => s
    let s := settleKernel (freeSlot s core p.slot) t.owner t.kid
    ended (ownerEvent s t.owner 1 (Config.eventDetail 1 p.slot t.kid) (rankOf s core t.owner))

/-- Every operation that has reached HWLIM ended. -/
def hangAll (s : State) : State := (s.cores.filter fun c => hangDue c.2).foldl (fun s c => hang s c.1) s

/-- HANG_WATCHDOG (R166). -/
def execHangWatchdog (core : Nat) (s : State) : Out := event s (if hangDue (coreAt s core) then some (hang s core) else none)

end Sys2Proof.Machine
end

