-- ==== Sys2Proof/Machine/Fetch.lean ====
section
/-! DEFINITION. Fetching an instruction (R51, R52, R54), its faults, and words that no encoding assigns (R58). -/

namespace Sys2Proof.Machine

/-- A byte as a fetch sees it: the stack's copy where it holds one, else the home (assumption 24). -/
def fetchByte (s : State) (k : Nat) : Byte :=
  if inStack s.core k || !copyable k || isControl s.core then homeByte s k
  else match Tab.find (stackAt s (stackOf s.core)).copies k with
    | some c => c.byte
    | none => homeByte s k

/-- The halfword at a place. -/
def fetchPair (s : State) (k : Nat) : BitVec 16 := fetchByte s (k + 1) ++ fetchByte s k

/-- The halfword at a code address: LSBOUND beyond the local store, PAGE or ACCESS as a load raises them, with X needed
(R54, R106). A code address that has not the form of R52 raises ACCESS (assumption 25). -/
def fetchHalf (s : State) (a : Word) : Act (BitVec 16) :=
  if !codeForm a then .trap Cause.access a s
  else if a.getLsbD 63 then
    if lsLimit s s.core (thr s).owner ≤ codeAddr a then .trap Cause.lsbound a s
    else match lsPlace s s.core (thr s).owner (codeAddr a) with
      | some k => .ok (fetchPair s k) s
      | none => .trap Cause.lsbound a s
  else (locGlb s (codeAddr a) { x := true }).bind fun l s =>
    if s.hostError && isHost l.key then .trap Cause.access a s else .ok (fetchPair s l.key) s

/-- The code at the current thread's PC: bit 0 of the first halfword tells its length (R51). The second halfword of a word
whose first is the last of the address part is fetched where the part wraps to (DESIGN CHOICE, assumption 7). -/
def fetchCode (s : State) : Act Code :=
  let pc := (thr s).pc
  (fetchHalf s pc).bind fun h s =>
    if h.getLsbD 0 then (fetchHalf s (pcPlus pc 2)).bind fun g s => .ok (.c32 (g ++ h)) s
    else .ok (.c16 h) s

/-- FETCH_FAULT: the fetch at the current thread's PC faults, before any word is decoded (R54). -/
def execFetchFault (s : State) : Out :=
  if !canIssue (thr s) then .next s
  else if (thr s).st == .blocked then .next s
  else match fetchCode s with
    | .trap c v s => .next (takeTrap s c none v)
    | .stop f => .fault f
    | _ => .next s

/-- A word that no encoding assigns: ILLEGAL with the word as its value, before any effect (R58). -/
def execUnassignedEncoding (w : BitVec 32) (s : State) : Out :=
  if !canIssue (thr s) then .next s
  else if (thr s).st == .blocked then .next s
  else .next (takeTrap s Cause.illegal none (zx w))

end Sys2Proof.Machine
end

