-- ==== Sys2Proof/Machine/Float.lean ====
section
/-! DEFINITION. Scalar floating point (R82 to R87, R90). -/

namespace Sys2Proof.Machine

/-- An instruction that rounds under FRM: two operands, a result and its exceptions. -/
def fp2 (i : Instr) (w : BitVec 1) (d a b : BitVec 6) (rounds : Bool)
    (f : Fp.Fmt → Nat → Nat → Nat → Nat × BitVec 5) (s : State) : Out :=
  instr i { ill := rounds && frmBad (thr s) } [G d, G a, G b] [] s fun s =>
    let m := scalarFmt w
    let r := f m (thr s).frm.toNat (fpArg m (rg s a)) (fpArg m (rg s b))
    fpEnd s d (BitVec.ofNat 64 r.1) r.2 id

/-- FADD: a + b, rounded once under FRM (R83). -/
def execFadd (d a b : BitVec 6) (w : BitVec 1) (s : State) : Out := fp2 (.fadd d a b w) w d a b true Fp.add s

/-- FSUB: a − b, rounded once under FRM (R83). -/
def execFsub (d a b : BitVec 6) (w : BitVec 1) (s : State) : Out := fp2 (.fsub d a b w) w d a b true Fp.sub s

/-- FMUL: a × b, rounded once under FRM (R83). -/
def execFmul (d a b : BitVec 6) (w : BitVec 1) (s : State) : Out := fp2 (.fmul d a b w) w d a b true Fp.mul s

/-- FDIV: a / b, rounded once under FRM (R83). -/
def execFdiv (d a b : BitVec 6) (w : BitVec 1) (s : State) : Out := fp2 (.fdiv d a b w) w d a b true Fp.div s

/-- FSQRT: √a, rounded once under FRM (R83). -/
def execFsqrt (d a : BitVec 6) (w : BitVec 1) (s : State) : Out :=
  instr (.fsqrt d a w) { ill := frmBad (thr s) } [G d, G a] [] s fun s =>
    let m := scalarFmt w
    let r := Fp.sqrt m (thr s).frm.toNat (fpArg m (rg s a))
    fpEnd s d (BitVec.ofNat 64 r.1) r.2 id

/-- FMIN (R84). It rounds nothing, so FRM does not matter to it (R36). -/
def execFmin (d a b : BitVec 6) (w : BitVec 1) (s : State) : Out :=
  fp2 (.fmin d a b w) w d a b false (fun f _ a b => Fp.minMax f false a b) s

/-- FMAX (R84). -/
def execFmax (d a b : BitVec 6) (w : BitVec 1) (s : State) : Out :=
  fp2 (.fmax d a b w) w d a b false (fun f _ a b => Fp.minMax f true a b) s

/-- FSCPY: the sign of b over the magnitude bits of a; no flag (R86). -/
def execFscpy (d a b : BitVec 6) (w : BitVec 1) (s : State) : Out :=
  fp2 (.fscpy d a b w) w d a b false (fun f _ a b => (Fp.signOp f 0 a b, 0)) s

/-- FSINV: the opposite of the sign of b over the magnitude bits of a; no flag (R86). -/
def execFsinv (d a b : BitVec 6) (w : BitVec 1) (s : State) : Out :=
  fp2 (.fsinv d a b w) w d a b false (fun f _ a b => (Fp.signOp f 1 a b, 0)) s

/-- FSXOR: the signs XORed over the magnitude bits of a; no flag (R86). -/
def execFsxor (d a b : BitVec 6) (w : BitVec 1) (s : State) : Out :=
  fp2 (.fsxor d a b w) w d a b false (fun f _ a b => (Fp.signOp f 2 a b, 0)) s

/-- FEQ: 1 when a = b, else 0 (R85). -/
def execFeq (d a b : BitVec 6) (w : BitVec 1) (s : State) : Out :=
  fp2 (.feq d a b w) w d a b false (fun f _ a b => let r := Fp.compare f 0 a b; (if r.1 then 1 else 0, r.2)) s

/-- FLT: 1 when a < b, else 0 (R85). -/
def execFlt (d a b : BitVec 6) (w : BitVec 1) (s : State) : Out :=
  fp2 (.flt d a b w) w d a b false (fun f _ a b => let r := Fp.compare f 1 a b; (if r.1 then 1 else 0, r.2)) s

/-- FLE: 1 when a ≤ b, else 0 (R85). -/
def execFle (d a b : BitVec 6) (w : BitVec 1) (s : State) : Out :=
  fp2 (.fle d a b w) w d a b false (fun f _ a b => let r := Fp.compare f 2 a b; (if r.1 then 1 else 0, r.2)) s

/-- FKIND: kind, sign and exponent in one word; no flag (R87). -/
def execFkind (d a : BitVec 6) (w : BitVec 1) (s : State) : Out :=
  aluImm (.fkind d a w) d a (fun x => BitVec.ofNat 64 (Fp.kind (scalarFmt w) (fpArg (scalarFmt w) x))) s

/-- FFMA: a × b + c, exact and rounded once under FRM; rc is checked after rd, ra and rb (R60, R90). -/
def execFfma (d a b : BitVec 6) (w : BitVec 1) (c : BitVec 6) (s : State) : Out :=
  instr (.ffma d a b w c) { ill := frmBad (thr s) } [G d, G a, G b, G c] [] s fun s =>
    let m := scalarFmt w
    let r := Fp.fma m (thr s).frm.toNat (fpArg m (rg s a)) (fpArg m (rg s b)) (fpArg m (rg s c))
    fpEnd s d (BitVec.ofNat 64 r.1) r.2 id

/-- The floating format of FCVT's number 2 to 7 (R88). -/
def cvtFmt (n : Nat) : Fp.Fmt :=
  match n with | 2 => Fp.fp16 | 3 => Fp.bf16 | 4 => Fp.fp32 | 5 => Fp.fp64 | 6 => Fp.e4m3 | _ => Fp.e5m2

/-- The exact source value of FCVT (R89). -/
def cvtSource (n : Nat) (a : Word) : Fp.Val :=
  match n with
  | 0 => Fp.ofInt (low32 a).toInt
  | 1 => Fp.ofInt a.toInt
  | n => Fp.decode (cvtFmt n) (fpArg (cvtFmt n) a)

/-- FCVT: the exact source value delivered in the destination format, an integer saturating; SRSEED advances once
under SR (R37, R40, R88, R89). It does not wait for a VCVT or VQNT of the thread that is still to draw from SRSEED
(DESIGN CHOICE, assumption 88). The fields: r the rounding code, u the saturate bit, e the destination, f the source. -/
def execFcvt (d a : BitVec 6) (r : BitVec 3) (u : BitVec 1) (e f : BitVec 3) (s : State) : Out :=
  instr (.fcvt d a r u e f) { ill := convBad (thr s) r (srDest e) } [G d, G a] [] s fun s =>
    let v := cvtSource f.toNat (rg s a)
    let mode := roundMode (thr s) r
    if e.toNat ≤ 1 then
      let x := Fp.toInt (if e = 0 then 32 else 64) mode v
      fpEnd s d (BitVec.ofInt 64 x.1) x.2 id
    else if mode = 5 then
      let seed := Fp.xorshift (thr s).srseed
      let x := Fp.toFloatSR (cvtFmt e.toNat) (u == 1) seed v
      fpEnd s d (BitVec.ofNat 64 x.1) x.2 fun t => { t with srseed := seed }
    else
      let x := Fp.toFloat (cvtFmt e.toNat) mode (u == 1) v
      fpEnd s d (BitVec.ofNat 64 x.1) x.2 id

end Sys2Proof.Machine
end

