-- ==== Sys2Proof/Machine/System.lean ====
section
/-! DEFINITION. System and supervisor instructions: NOP, TRAP, BREAK, UTRET, TRET, HALT, SEQSYNC (R153 to R155, R159, R376),
TLBINV, BKCLR and OWNSET (R331, R337, R338). -/

namespace Sys2Proof.Machine

/-! ### The system instructions -/

/-- NOP (R65). -/
def execNop (s : State) : Out := instr .nop {} [] [] s fun s => .ok none s

/-- A trap that the instruction raises as its effect: the PC is the address after it (R153). -/
def raise (cause : BitVec 8) (value size : Word) (s : State) : Act (Option Word) :=
  .leave (takeTrap (updThr s fun t => { t with pc := pcPlus t.pc size }) cause none value)

/-- TRAP (R153). -/
def execTrap (c : BitVec 10) (s : State) : Out := instr (.trap c) {} [] [] s (raise Cause.trap (zx c) 4)

/-- The owner's threads may be halted by a debugger: invasive halt, for an owner that the state allows (R375). -/
def halts (s : State) (o : Nat) : Bool :=
  s.sys.dbg == 2 && (s.sys.sec == 2 || ((ownerAt s o).consent && match s.sys.token with
    | some k => k.halt && k.owners.contains o
    | none => false))

/-- The owner's threads are traced: non-invasive trace, for an owner that the state allows (R375, R376). -/
def traces (s : State) (o : Nat) : Bool :=
  s.sys.dbg == 1 && (s.sys.sec == 2 || match s.sys.token with
    | some k => k.trace && k.owners.contains o
    | none => false)

/-- BREAK: the trap, or under invasive halt the slot Held with the PC after the instruction (R153, R376). -/
def breakAct (value size : Word) (s : State) : Act (Option Word) :=
  if halts s (thr s).owner then
    .leave (updThr s fun t => { t with pc := pcPlus t.pc size, st := .held, wait := none, dbgHeld := true })
  else raise Cause.brk value size s

/-- BREAK (R153). -/
def execBrk (c : BitVec 10) (s : State) : Out := instr (.brk c) {} [] [] s (breakAct (zx c) 4)

/-- Compact BREAK: code 0 (R57, R153). -/
def execBrkCompact (s : State) : Out := instr .brkCompact {} [] [] s (breakAct 0 2)

/-- SEQSYNC (R159). -/
def execSeqsync (s : State) : Out :=
  instr .seqsync {} [] [] s fun s => (waitUnits s).bind fun _ s => .ok none s

/-- A UTRET inside a late-fault handler in user mode: it returns from the innermost of the user traps taken there, or from the
handler itself (R158). -/
def Thread.leftUserLate (t : Thread) : Thread :=
  if t.userDepth = 0 then { t with lateUser := false } else { t with userDepth := t.userDepth - 1 }

/-- UTRET: ILLEGAL outside a user handler; the target is checked as JALR checks it (R154, R158). -/
def execUtret (s : State) : Out :=
  instr .utret { ill := !(thr s).ucause.getLsbD 63 } [] [] s fun s =>
    let pc := (thr s).uepc
    (checkTarget s pc).bind fun _ s =>
      .ok (some pc) (updThr s fun t => { t.leftUserLate with ucause := t.ucause &&& ~~~(place 1 63) })

/-- A TRET inside a late-fault handler in supervisor mode: it returns from the innermost of the traps taken there, or from the
handler itself (R158). -/
def Thread.leftLate (t : Thread) : Thread :=
  if t.lateDepth = 0 then { t with lateSup := false } else { t with lateDepth := t.lateDepth - 1 }

/-- TRET (R154, R158). -/
def execTret (s : State) : Out :=
  instr .tret { priv := !(thr s).sup } [] [] s fun s =>
    let pc := (thr s).tepc
    (checkTarget s pc).bind fun _ s =>
      .ok (some pc) (updThr s fun t => { t.leftLate with sup := t.tpm, tin := false })

/-- HALT: the slot becomes Held with the PC after the instruction (R155). -/
def execHalt (s : State) : Out :=
  instr .halt { priv := !(thr s).sup } [] [] s fun s =>
    .leave (updThr s fun t => { t with pc := pcPlus t.pc 4, st := .held, wait := none, dbgHeld := false })

/-! ### TLBINV (R331) -/

/-- The translations that TLBIV names. -/
structure Inval where
  owner : Nat
  sup : Bool
  all : Bool
  va : Nat
deriving DecidableEq, Repr

/-- TLBIV's operands; the owner it holds counts on a control core only. -/
def invalOf (s : State) (x : Word) : Inval :=
  { owner := if isControl s.core then field x 52 8 else (thr s).owner, sup := x.getLsbD 60, all := x.getLsbD 61,
    va := field x 12 40 * 4096 }

/-- A translation made before the removal numbered `gen`, by an entry that is removed. -/
def Inval.covers (v : Inval) (gen : Nat) (x : Xlat) : Bool :=
  x.gen < gen && x.owner == v.owner && x.sup == v.sup && (v.all || (v.va / x.size == x.va / x.size))

/-- A fault-table entry is covered. -/
def Inval.covers4K (v : Inval) (e : FaultEntry) : Bool :=
  e.owner == v.owner && e.sup == v.sup && (v.all || e.page == v.va / 4096)

/-- An access translated by a removed entry is not performed yet, its thread in a slot or swapped out. -/
def stillOut (s : State) (v : Inval) (gen : Nat) : Bool :=
  let hit (x : Option Xlat) : Bool := match x with | some x => v.covers gen x | none => false
  s.cores.any fun c =>
    c.2.sb.any (fun e => hit e.tr) || c.2.posted.any (fun e => hit e.tr) || c.2.rel.any (fun e => e.trs.any (v.covers gen))
      || holdsThread c.2 fun t => t.vq.any (fun e => (e.todo.getD []).any fun l => hit l.2.tr)
        || t.st == .blocked && match t.wait with
          | some (_, .reply r) => hit r.tr
          | some (_, .arrived _ tr) => hit tr
          | _ => false

/-- TLBINV: the release, the removal, then the wait for the accesses that a removed entry translated. -/
def execTlbinv (s : State) : Out :=
  instr .tlbinv { priv := !(thr s).sup } [] [] s fun s =>
    let x := (thr s).tlbiv
    let v := invalOf s x
    let rest (gen : Nat) (s : State) : Act (Option Word) :=
      if stillOut s v gen then .wait (.invalidated gen) s else .ok none s
    match (thr s).st, (thr s).wait with
    | .blocked, some (_, .invalidated gen) => rest gen s
    | _, _ =>
      if !zeroBits x 63 62 ∨ !zeroBits x 11 0 then .trap Cause.access x s
      else (release s).bind fun _ s =>
        let s := closeFaults { s with tlbGen := s.tlbGen + 1 } v.covers4K
        rest s.tlbGen s

/-! ### Sub-banks (R333 to R338) -/

/-- The cores of an owner's position. -/
def positionCores (s : State) (o pos : Nat) : List Nat := (List.range 64).map fun i => rankCore (ownerAt s o) (64 * pos + i)

/-- BKSEL.st written. -/
def setSt (s : State) (st : Nat) : State :=
  updThr s fun t => { t with bksel := place st 56 ||| zx (t.bksel.extractLsb' 0 56) }

/-- The grant of an owner on a position. -/
def grantOf (s : State) (o pos : Nat) : Nat := (ctxAt s (rankCore (ownerAt s o) (64 * pos)) o).lscap

/-- A sub-bank's lines made invalid (R334). -/
def clearSub (s : State) (core sub : Nat) : State := updSub s core sub fun b => { b with valid := {} }

/-- The logical sub-banks of a mask cleared on a core. -/
def clearMask (o : Nat) (mask : Nat) (s : State) (core : Nat) : State :=
  (ctxAt s core o).banks.foldl (fun s b => if mask / 2 ^ b.1 % 2 = 1 then clearSub s core b.2 else s) s

/-- BKCLR (R338). -/
def execBkclr (s : State) : Out :=
  instr .bkclr { priv := !(thr s).sup } [] [] s fun s =>
    let x := (thr s).bksel
    let pos := field x 16 4
    let mask := field x 32 16
    let o := if isControl s.core then field x 0 8 else (thr s).owner
    let held := decide (pos < (ownerAt s o).grants.length) && (isControl s.core || pos == (ctx s).rank / 64)
    if !zeroBits x 63 58 || !zeroBits x 55 53 || !zeroBits x 31 20 || !zeroBits x 15 8 || !held
        || mask / 2 ^ grantOf s o pos != 0 then
      .trap Cause.access x s
    else (release s).bind fun _ s => .ok none (setSt ((positionCores s o pos).foldl (clearMask o mask) s) 0)

/-- The sum of the grants of the owners on a core. -/
def grantSum (c : Core) : Nat := c.ctxs.foldl (fun n x => n + x.2.lscap) 0

/-- The owner context of a position holds a placed kernel, a thread other than the resident loop, or a queued message. -/
def posBusy (s : State) (o pos : Nat) : Bool :=
  let cores := positionCores s o pos
  let mine (t : Thread) : Bool := t.owner == o && !t.resident
  (ownerAt s o).kernels.any (fun k => (k.2.live || k.2.st == .closing) && k.2.groups.any fun g => g / 4 == pos)
    || cores.any fun c =>
      let k := coreAt s c
      let x := ctxAt s c o
      k.threads.any (fun t => t.2.st != .free && mine t.2) || (Tab.get [] k.shadow o).any (fun t => mine t.2)
        || k.saved.any (fun v => !v.taken && v.owner == o) || x.mbxs.any (fun m => m.2.count != 0) || x.pond != []

/-- The next sub-bank of a growth on a core: the lowest-numbered good free one, tagged, cleared and mapped on top. -/
def growOne (o core : Nat) (s : State) (logical : Nat) : State :=
  match freeSubs (coreAt s core), freeSlots s core with
  | b :: _, slot :: _ =>
    let s := updSub s core b fun _ => { tag := o, slot := slot, valid := {} }
    updCtxAt s core o fun x => { x with banks := Tab.set b x.banks logical }
  | _, _ => s

/-- What was issued to the places that satisfy a condition and is not yet performed there, all performed: elements of vector
stores, buffered and posted stores, release-buffer entries, requests. Before a sub-bank is handed over, so that none of its old
owner's stores comes after (R146, R334; DESIGN CHOICE, assumption 77). -/
def settlePlaces (p : Nat → Bool) (s : State) (core : Nat) : State :=
  let s := onEveryOwner s core fun s => (coreAt s core).threads.foldl (fun s t => flushElems p core t.1 s) s
  let k := coreAt s core
  let s := if k.sb.any fun e => p e.key then drainBuffer core k.sb.length s else s
  let late (e : StoreEntry) : Bool := p e.key && !e.lost
  let posted := (coreAt s core).posted.filter late
  let s := updCore s core fun k => { k with posted := k.posted.filter fun e => !late e }
  let s := posted.foldl (fun s e => setHomes s e.key e.bytes) s
  let due (e : RelEntry) : Bool := !e.lost && e.bytes.any fun b => p b.key
  let rel := (coreAt s core).rel.filter due
  let s := updCore s core fun k => { k with rel := k.rel.filter fun e => !due e }
  let s := rel.foldl (fun s e => writeBackEntry s core e) s
  drainReplies p s core

/-- Every core's accesses to an owner's sub-banks of a core settled. -/
def settleSubs (s : State) (o core : Nat) : State :=
  let p (k : Nat) : Bool := isLs k && lsCore k == core && (subAt s core (lsSub k)).tag == o
  (s.cores.map Prod.fst).foldl (settlePlaces p) s

/-- The highest sub-bank of a shrink on a core cleared, untagged and unmapped. -/
def shrinkOne (o core : Nat) (s : State) (logical : Nat) : State :=
  match Tab.find (ctxAt s core o).banks logical with
  | none => s
  | some b =>
    let s := updSub s core b fun _ => {}
    updCtxAt s core o fun x => { x with banks := Tab.del x.banks logical }

/-- The base offset of mailbox 0 at the top of a grant (R368). -/
def topBase (lscap : Nat) : Nat := lscap * Config.subBank - 2 ^ 14

/-- Mailbox 0 defined at the top of a grant, with 128 entries (R368). -/
def inbox (lscap : Nat) : Mailbox := { defined := true, base := topBase lscap, k := 7 }

/-- The grant of a context changed on a core; mailbox 0 at the top of a shrunk grant is defined again (R337, R368). -/
def regrant (o cnt : Nat) (s : State) (core : Nat) : State :=
  let old := (ctxAt s core o).lscap
  let top := (mbxAt s core o 0).defined && (mbxAt s core o 0).base == topBase old && (mbxAt s core o 0).k == 7
  let s := ((List.range cnt).filter fun l => old ≤ l).foldl (growOne o core) s
  let s := if cnt < old then settleSubs s o core else s
  let s := ((List.range old).filter fun l => cnt ≤ l).foldl (shrinkOne o core) s
  let s := updCtxAt s core o fun x => { x with lscap := cnt }
  if cnt < old && top then
    updMbx s core o 0 fun _ => if cnt = 0 then {} else inbox cnt
  else s

/-- OWNSET: PRIV on a compute core in every mode; it waits while the position's stack is in a pause (R337). -/
def execOwnset (s : State) : Out :=
  instr .ownset { priv := !(thr s).sup || !isControl s.core } [] [] s fun s =>
    let x := (thr s).bksel
    let pos := field x 16 4
    let cnt := field x 48 5
    let o := field x 0 8
    if !zeroBits x 63 58 || !zeroBits x 55 53 || !zeroBits x 31 20 || !zeroBits x 15 8 || decide (16 < cnt)
        || decide ((ownerAt s o).grants.length ≤ pos) then
      .trap Cause.access x s
    else
      let c0 := rankCore (ownerAt s o) (64 * pos)
      let old := grantOf s o pos
      if pausing s (stackOf c0) then .wait .retry s
      else if cnt < old ∧ posBusy s o pos then .ok none (setSt s 1)
      else if goodSubs s (stackOf c0) < grantSum (coreAt s c0) + cnt - old then .ok none (setSt s 2)
      else .ok none (setSt ((positionCores s o pos).foldl (regrant o cnt) s) 0)

end Sys2Proof.Machine
end

