-- ==== Sys2Proof/Machine/Network.lean ====
section
/-! DEFINITION. What owners see of the network: dropped packets (R318), the arbitration of a router output (R316, R317), and
the ceiling on a thread's wait (R315). -/

namespace Sys2Proof.Machine

/-! ### Host memory (R106, R142) -/

/-- HOST_COMPLETION: a write to host memory is acknowledged; one that failed is logged as a device error record against its
owner (R106, R142, R378). -/
def execHostCompletion (n : Nat) (s : State) : Out :=
  event s <| (s.hostWrites[n]?).map fun w =>
    let s' := { s with hostWrites := s.hostWrites.eraseIdx n }
    if s.hostError then ownerError s' w.owner w.core (rankOf s w.core w.owner) else s'

/-! ### Dropped packets (R318) -/

/-- The traffic class of what is dropped (R130). -/
def dropClass : DropKind → Nat
  | .message => 5 | .reply => 4 | .request | .bufferWrite => 3 | .streamWord => 2 | .posted | .transferWord => 1
  | .background => 0

/-- A trap of a waiting instruction of another thread. -/
def trapThread (s : State) (core slot : Nat) (cause : BitVec 8) (value : Word) : State :=
  onThread s core slot fun s => takeTrap s cause none value

/-- The thread waits on for an answer that never comes. -/
def lostWait (s : State) (core slot : Nat) : State :=
  updThrAt s core slot fun t => { t with wait := t.wait.map fun w => (w.1, .lost) }

/-- What an access did at its home when its reply was lost: performed or not, a free choice; no register is written. -/
def performedOrNot (s : State) (core slot : Nat) (r : MemReq) : State :=
  let (v, s) := draw s
  if !v.getLsbD 0 then s
  else onThread s core slot fun s =>
    let t := thr s
    match memAct r s with
    | .ok _ s' => updThr s' fun x => { x with g := t.g, fflags := t.fflags }
    | _ => s

/-- The owner whose out-port, numbered 4 × owner + port, a dropped stream packet came from; owner 0 stands for the owner
that runs on the core. -/
def streamOwner (s : State) (core n : Nat) : Nat := if n / 4 = 0 then (coreAt s core).active else n / 4

/-- The owner of the n-th packet of a core's store buffer (0, its head) and release buffer (from 1 on). -/
def bufferOwner (s : State) (core n : Nat) : Nat :=
  if n = 0 then ((coreAt s core).sb.head?.map StoreEntry.owner).getD 0
  else ((coreAt s core).rel[n - 1]?.map RelEntry.owner).getD 0

/-- Something done to a core's threads while an owner's are in its slots: those of an owner swapped out are brought there for it
(R350). -/
def onSender (s : State) (core o : Nat) (f : State → State) : State :=
  if o = (coreAt s core).active then f s else onSaved s core o f

/-- The owner whose slot, numbered 16 × owner + slot, a dropped request or reply belongs to; owner 0 stands for the owner that
runs on the core. -/
def slotOwner (s : State) (core n : Nat) : Nat := if n / 16 = 0 then (coreAt s core).active else n / 16

/-- The effect of a dropped request or reply of a thread, in its slot or swapped out. -/
def dropOf (s : State) (core n : Nat) (f : State → Nat → Option State) : Option State :=
  let o := slotOwner s core n
  let sl := n % 16
  if o = (coreAt s core).active then f s sl
  else (f (swapCore o s core) sl).map fun s' => swapCore (coreAt s core).active s' core

/-- The effect at the source of a dropped packet, with its source field intact or not; none where the source has no such
packet on its way. -/
def dropAt (s : State) (k : DropKind) (core n : Nat) (known : Bool) : Option State :=
  match k with
  | .request => dropOf s core n fun s n => match (thrAt s core n).wait with
    | some (_, .reply r) => some (if known then trapThread s core n Cause.access r.ea else lostWait s core n)
    | _ => none
  | .reply => dropOf s core n fun s n => match (thrAt s core n).wait with
    | some (_, .reply r) =>
      let s := performedOrNot s core n r
      some (if known then trapThread s core n Cause.access (r.ea ||| place 1 63) else lostWait s core n)
    | _ => none
  | .bufferWrite =>
    if n = 0 then match (coreAt s core).sb with
      | e :: es => if inStack core e.key && !e.lost then
          let rest := if known then es else { e with lost := true } :: es
          some (updCore s core fun c => { c with sb := rest })
        else none
      | [] => none
    else match (coreAt s core).rel[n - 1]? with
      | some e =>
        if e.lost then none
        else if known then
          let s := updCore s core fun c => { c with rel := c.rel.eraseIdx (n - 1) }
          some (e.bytes.foldl (fun s b => cleanCopy s (stackOf core) b) s)
        else
          let rest := (coreAt s core).rel.set (n - 1) { e with lost := true }
          some (updCore s core fun c => { c with rel := rest })
      | none => none
  | .message => match s.flights[n]? with
    | some f =>
      if f.core = core then
        let s := { s with flights := s.flights.eraseIdx n }
        some (onSender s core f.srcOwner fun s => match (thrAt s core f.slot).wait with
          | some (_, .status id none) =>
            if id ≠ f.id then s
            else if known then trapThread s core f.slot Cause.access (f.desc ||| place 1 63) else lostWait s core f.slot
          | _ => s)
      else none
    | none => none
  | .streamWord =>
    let o := streamOwner s core n
    let n := n % 4
    let out := portAt (ctxAt s core o) true n
    let dc := rankCore (ownerAt s o) out.rank
    let words := match portQueue (ctxAt s core o) true n with
      | some q => (queueAt s core o q).elems
      | none => []
    let marker := out.st == .closing && !out.lost && words == []
    if !marker && (words == [] || (out.st != .opened && out.st != .closing)) then none
    else
      let cut (s : State) : State := match portQueue (ctxAt s core o) true n with
        | some q => updQueue s core o q fun k => { k with elems := k.elems.drop 1 }
        | none => s
      let s := cut s
      if !known then some (if marker then updOut s core o n fun p => { p with lost := true } else s)
      else
        let s := updIn (updOut s core o n fun p => { p with st := .closed }) dc o out.port fun p => { p with st := .closed }
        some (match portQueue (ctxAt s dc o) false out.port with
          | some r => updQueue s dc o r fun k => { k with closed := true }
          | none => s)
  | .posted => match (coreAt s core).posted[n]? with
    | some e =>
      if e.lost then none
      else
        let p := (coreAt s core).posted
        let rest := if known then p.eraseIdx n else p.set n { e with lost := true }
        some (updCore s core fun c => { c with posted := rest })
    | none => none
  | .transferWord => match s.xfers[n]? with
    | some x => if x.req.core = core then dropWord s n known else none
    | none => none
  | .background => some s

/-- The owner context that a packet of a kind names as its source. -/
def dropOwner (s : State) (k : DropKind) (core n : Nat) : Nat :=
  match k with
  | .request | .reply => slotOwner s core n
  | .message => ((s.flights[n]?).map Flight.srcOwner).getD 0
  | .transferWord => ((s.xfers[n]?).map fun x => x.req.owner).getD 0
  | .bufferWrite => bufferOwner s core n
  | .streamWord => streamOwner s core n
  | .posted => ((coreAt s core).posted[n]?.map StoreEntry.owner).getD 0
  | .background => (coreAt s core).active

/-- PACKET_DROP: a device error record against the link; with the source field intact the end of the transaction and a
message-lost event of the context's owner (R318, R378). -/
def execPacketDrop (k : DropKind) (core n : Nat) (srcOk : Bool) (s : State) : Out :=
  event s <| match dropAt s k core n srcOk with
    | none => none
    | some s' =>
      let o := dropOwner s k core n
      let rank := rankOf s core o
      let s' := errRecord s' 0x318 0 (dropClass k) core
      some (if srcOk then ownerEvent s' o 2 (Config.eventDetail 2 (dropClass k) rank) rank else s')

/-! ### A router output (R316, R317) -/

/-- The weight of a class; a written weight of 0 is stored as 1. -/
def RouterOut.weight (r : RouterOut) (c : Nat) : Nat := field r.arbw (6 * c) 6

/-- The class group of a class, and a group's lowest and highest class. -/
def groupOf (c : Nat) : Nat := if 6 ≤ c then 2 else c / 3
def groupLow (g : Nat) : Nat := 3 * g
def groupHigh (g : Nat) : Nat := if g = 2 then 7 else 3 * g + 2

/-- The class visited after a class of its group, in descending order. -/
def nextVisit (g c : Nat) : Nat := if c ≤ groupLow g then groupHigh g else c - 1

/-- The visits of a group up to the class that sends: its deficit, or a new visit's weight on top of it. -/
def visits (g : Nat) (ready : Nat → Bool) : Nat → RouterOut → Option Nat × RouterOut
  | 0, r => (none, r)
  | n + 1, r =>
    let c := Tab.get (groupLow g) r.visit g
    let d := Tab.get 0 r.deficit c
    if ready c && d != 0 then (some c, { r with deficit := Tab.set (d - 1) r.deficit c })
    else
      let r := if ready c then r else { r with deficit := Tab.set 0 r.deficit c }
      let c' := nextVisit g c
      let d' := Tab.get 0 r.deficit c'
      let r := { r with visit := Tab.set c' r.visit g, deficit := Tab.set (if ready c' then d' + r.weight c' else 0) r.deficit c' }
      visits g ready n r

/-- The class that sends a flit in a clk, of those with a flit ready: one whose count has reached 4,088, lowest first, or
the arbitration's; the counts of the others that are ready rise (R317). -/
def outputClk (r : RouterOut) (ready : Nat → Bool) : Option Nat × RouterOut :=
  let waits (c : Nat) : Nat := Tab.get 0 r.waits c
  let (sent, r) := match (List.range 8).find? fun c => ready c && decide (4088 ≤ waits c) with
    | some c => (some c, r)
    | none => match [2, 1, 0].find? fun g => (List.range 8).any fun c => groupOf c == g && ready c with
      | some g => visits g ready 4 r
      | none => (none, r)
  (sent, { r with waits := (List.range 8).map fun c =>
    (c, if sent = some c then 0 else if ready c then waits c + 1 else waits c) })

/-- A class that has waited at an output still has its flit ready (R317). -/
def RouterOut.waiting (r : RouterOut) (c : Nat) : Bool := Tab.get 0 r.waits c != 0

/-- A clk of a router output in which the given classes have a flit ready, and those that have waited, at most one clk for each CYCLE
(R316, R317). -/
def stepOutput (s : State) (out : Nat) (ready : Nat → Bool) : Option State :=
  let r := Tab.get {} s.outs out
  if r.last == some s.cycle then none
  else some { s with outs := Tab.set { (outputClk r fun c => ready c || r.waiting c).2 with last := some s.cycle } s.outs out }

/-- Clk of an output in which no class has a new flit ready: the flits that wait leave (R316, R317). -/
def serve : Nat → RouterOut → RouterOut
  | 0, r => r
  | n + 1, r => if (List.range 8).any r.waiting then serve n (outputClk r r.waiting).2 else r

/-- An output as `n` clk pass from a CYCLE on, of which that one may have had its clk already: what waits there, at most one flit of
each class, leaves. -/
def passOutput (n cycle : Nat) (r : RouterOut) : RouterOut := serve (min 8 (if r.last == some cycle then n - 1 else n)) r

/-- A class of an output whose count has reached 4,088, no lower class's having. -/
def starves (r : RouterOut) (cls : Nat) : Bool :=
  cls < 8 && decide (4088 ≤ Tab.get 0 r.waits cls) && (List.range cls).all fun c => decide (Tab.get 0 r.waits c < 4088)

/-- CLASS_STARVATION: a clk of an output in which the count of a class has reached 4,088: it sends ahead of R316. The classes with a
count have a flit ready (R317). -/
def execClassStarvation (out cls : Nat) (s : State) : Out :=
  event s <|
    let r := Tab.get {} s.outs out
    if starves r cls then stepOutput s out fun _ => false else none

/-! ### The issue ceiling (R315) -/

/-- ISSUE_STARVATION: the thread with the largest wait, of 48 or more, issues next; the lower slot on a tie. -/
def execIssueStarvation (core slot : Nat) (s : State) : Out :=
  event s <|
    let w (i : Nat) : Nat := (thrAt s core i).idle
    if 48 ≤ w slot ∧ atBoundary (thrAt s core slot) ∧ (List.range 16).all fun i => w i < w slot || (w i == w slot && slot ≤ i)
    then some { s with sched := .issue core slot :: s.sched }
    else none

end Sys2Proof.Machine
end

