-- ==== Sys2Proof/Machine/Host.lean ====
section
/-! DEFINITION. The host's accesses to BAR2 (R365, R366). -/

namespace Sys2Proof.Machine

/-- Slots of BAR2: 2 TiB in slots of 1 GiB (R365). -/
def bar2Slots : Nat := 2048

/-- The place of a host access of `n` bytes in a slot, translated through the mapped owner's tables as a thread's access in
mode GLB is; every byte must be reachable (R104, R365). -/
def hostPlace (s : State) (slot off : Nat) (need : Need) : Option Nat :=
  match Tab.find s.sys.bar2 slot with
  | none => none
  | some b =>
    let ea := b.base + off
    if 2 ^ 30 ≤ off then none
    else if inWindow ea then
      let rank := ea % 2 ^ 32 / 2 ^ 22
      if nrank (ownerAt s b.owner) ≤ rank then none
      else
        let c := rankCore (ownerAt s b.owner) rank
        if lsLimit s c b.owner ≤ ea % 2 ^ 22 then none else lsPlace s c b.owner (ea % 2 ^ 22)
    else userPlace s b.owner ea need

/-- A host access walks its pages: the fault-table entries of those whose walk succeeds close (R330, R365). -/
def hostWalked (s : State) (slot off n : Nat) (need : Need) : State :=
  match Tab.find s.sys.bar2 slot with
  | some b => walkedUser s b.owner (b.base + off) n need
  | none => s

/-- The places of a host access. -/
def hostPlaces (s : State) (slot off : Nat) (need : Need) : Nat → Option (List Nat)
  | 0 => some []
  | n + 1 => match hostPlace s slot off need, hostPlaces s slot (off + 1) need n with
    | some k, some ks => some (k :: ks)
    | _, _ => none

/-- The endpoint's completion. -/
def replyHost (s : State) (r : Option (List Byte)) : State := { s with sys := { s.sys with hostReply := r } }

/-- A host access made once it is not parked: the local stores of a stack in its rotation pause answer after it (R347). -/
def unparked (s : State) (ks : Option (List Nat)) (s' : State) : Option State :=
  if (ks.getD []).any (parkedAt s) then none else some s'

/-- HOST_READ: the bytes at their homes, or Unsupported Request (R365, R366). -/
def execHostRead (slot off len : Nat) (s : State) : Out :=
  event s <|
    let ks := hostPlaces s slot off { r := true } len
    unparked s ks (replyHost (hostWalked s slot off len { r := true }) (ks.map fun l => l.map (homeByte s)))

/-- Bytes written at listed places. -/
def setPlaces (s : State) : List (Nat × Byte) → State
  | [] => s
  | p :: ps => setPlaces (setHome s p.1 p.2) ps

/-- HOST_WRITE: performed at the homes, or dropped with a device error record against the owner (R365, R366). -/
def execHostWrite (slot off : Nat) (bytes : List Byte) (s : State) : Out :=
  event s <|
    let places := hostPlaces s slot off { w := true } bytes.length
    unparked s places <| match places with
      | some ks => setPlaces (hostWalked s slot off bytes.length { w := true }) (ks.zip bytes)
      | none => match Tab.find s.sys.bar2 slot with
        | some b => ownerError (hostWalked s slot off bytes.length { w := true }) b.owner slot 0
        | none => errRecord s 3 0 0 slot

/-- The new value of a host AtomicOp: FetchAdd as AMOADD, Swap as AMOSWP, CAS as CAS or CAS2 (R366). -/
def hostNew (op : HostOp) (size old x y : Nat) : Nat :=
  let m := 2 ^ (8 * size)
  match op with
  | .fetchAdd => (old + x) % m
  | .swap => x % m
  | .cas => if old = x % m then y % m else old

/-- The sizes of each AtomicOp: 32 and 64 bits, and 128 for CAS (R366). -/
def hostSize (op : HostOp) (size : Nat) : Bool := size == 4 || size == 8 || (size == 16 && op == .cas)

/-- HOST_ATOMIC: indivisible at the home; the completion holds the old value. One that is not aligned to its size, or of
a size without an AtomicOp, completes with Unsupported Request (assumption 28). -/
def execHostAtomic (op : HostOp) (slot off size : Nat) (x y : BitVec 128) (s : State) : Out :=
  event s <|
    if !hostSize op size || off % size != 0 then some (replyHost s none)
    else
      let places := hostPlaces s slot off { r := true, w := true } size
      unparked s places <| match places with
        | none => replyHost (hostWalked s slot off size { r := true, w := true }) none
        | some ks =>
          let old := ofLeBytes (ks.map (homeByte s))
          let s := setPlaces (hostWalked s slot off size { r := true, w := true })
            (ks.zip (leBytes size (hostNew op size old x.toNat y.toNat)))
          replyHost s (some (leBytes size old))

end Sys2Proof.Machine
end

