-- ==== Sys2Proof/Machine/Shape.lean ====
section
/-! DEFINITION. Shape records: their fields, their contradictions, their slices, and the instructions that read them
(R196 to R200). -/

namespace Sys2Proof.Machine

/-- Words of a shape record (R196). -/
abbrev ShapeWords := List Word

def shFmt (r : ShapeWords) : Nat := field (r.getD 0 0) 0 6
def shBlen (r : ShapeWords) : Nat := field (r.getD 0 0) 6 4
def shNdim (r : ShapeWords) : Nat := field (r.getD 0 0) 10 2 + 1
def shOverlap (r : ShapeWords) : Bool := (r.getD 0 0).getLsbD 12
def shReplicate (r : ShapeWords) : Bool := (r.getD 0 0).getLsbD 13
def shBase (r : ShapeWords) : Nat := field (r.getD 1 0) 0 52
def shExtent (r : ShapeWords) (d : Nat) : Nat := field (r.getD (2 + d) 0) 0 32
def shStride (r : ShapeWords) (d : Nat) : Nat := if d = 0 then 0 else field (r.getD (5 + d) 0) 0 52
def shSplit (r : ShapeWords) (d : Nat) : Nat := field (r.getD (10 + d) 0) 0 11

/-- The element width in bytes; a block format has 1 (R196). -/
def shWidth (r : ShapeWords) : Nat := if fmtBlock (shFmt r) then 1 else fmtBits (shFmt r) / 8

/-- Reason 1: reserved bits, fields of unused dimensions, the format and its block length, a block format's split 0
(R197). -/
def shReason1 (r : ShapeWords) : Bool :=
  let n := shNdim r
  let unused := (List.range 4).filter fun d => n ≤ d
  !zeroBits (r.getD 0 0) 63 14 || !zeroBits (r.getD 1 0) 63 52 || r.getD 9 0 != 0 || r.getD 14 0 != 0 || r.getD 15 0 != 0
    || ([2, 3, 4, 5].any fun i => !zeroBits (r.getD i 0) 63 32)
    || ([6, 7, 8].any fun i => !zeroBits (r.getD i 0) 63 52)
    || ([10, 11, 12, 13].any fun i => !zeroBits (r.getD i 0) 63 11)
    || (unused.any fun d => shExtent r d != 0 || shStride r d != 0 || shSplit r d != 0)
    || !fmtKnown (shFmt r) || shFmt r == 0x14 || !blenFits (shFmt r) (shBlen r)
    || (fmtBlock (shFmt r) && shSplit r 0 != 1)

/-- The used dimensions. -/
def shDims (r : ShapeWords) : List Nat := List.range (shNdim r)

/-- Reason 4: a stride below the span under it (R197). -/
def shReason4 (r : ShapeWords) : Bool :=
  !shOverlap r && (shDims r).any fun d =>
    (d == 1 && shStride r 1 < shExtent r 0 * shWidth r) || (2 ≤ d && shStride r d < shExtent r (d - 1) * shStride r (d - 1))

/-- The product of the splits. -/
def shProduct (r : ShapeWords) : Nat := (shDims r).foldl (fun n d => n * shSplit r d) 1

/-- The first contradiction of a record for a core count (R197). -/
def shContradiction (r : ShapeWords) (cores : Nat) : Option Nat :=
  if shReason1 r then some 1
  else if (shDims r).any (fun d => shExtent r d == 0) then some 2
  else if shBase r % shWidth r ≠ 0 then some 3
  else if shReason4 r then some 4
  else if (shDims r).any (fun d => shSplit r d == 0)
      || (if shReplicate r then (shDims r).any (fun d => shSplit r d != 1) else shProduct r != cores) then some 5
  else none

/-- The slice of a kernel index in a dimension: start and length (R198). -/
def shSlice (r : ShapeWords) (index d : Nat) : Nat × Nat :=
  if shNdim r ≤ d then (0, 0)
  else if shReplicate r then (0, shExtent r d)
  else
    let below := (List.range d).foldl (fun n k => n * shSplit r k) 1
    sliceOf (shExtent r d) (shSplit r d) (index / below % shSplit r d)

/-- The fat pointer of a slice (R199). -/
def shPointer (r : ShapeWords) (index : Nat) : Word :=
  let off := (List.range 3).foldl (fun n d => n + (shSlice r index (d + 1)).1 * shStride r (d + 1)) 0
  let addr := shBase r + off + (shSlice r index 0).1 * shWidth r
  place (shFmt r) 58 ||| place (shBlen r) 54 ||| place (addr % 2 ^ 52) 0

/-! ### Where a thread's records are (R194, R199, R200) -/

/-- The shape set of a kernel in a context. -/
def Ctx.shapesOf (x : Ctx) (kid : Nat) : Option ShapeSet := (x.shapes.find? fun y => y.2.kid == kid).map Prod.snd

/-- The records of the current thread's kernel (R199): its core's set, or for a thread that RFORK started on a core without
one, a set of the kernel on another core of the owner; they all hold the same records (R194). -/
def shapeSet (s : State) : Option ShapeSet :=
  match (ctx s).shapesOf (thr s).kid with
  | some x => some x
  | none => s.cores.findSome? fun c => (Tab.get {} c.2.ctxs (thr s).owner).shapesOf (thr s).kid

/-- A SHAPE value (R199). -/
def shapeTrap (reason : Nat) (n : BitVec 3) : Word := place reason 0 ||| place n.toNat 8

/-- A record entered into the core's record cache, the least recently used entry leaving a full one (R200). -/
def cacheRecord (s : State) (e : RecEntry) : State :=
  updCore s s.core fun k =>
    { k with recs := (e :: k.recs.filter fun x => !(x.owner == e.owner && x.addr == e.addr)).take 16 }

/-- Words of a global record, each read as an ordinary load of the thread (R124, R200). -/
def globalWords (s : State) (addr : Nat) : Nat → Act (List Word)
  | 0 => .ok [] s
  | n + 1 =>
    (locGlobal s addr { r := true }).bind fun l s => (loadBytes s false l.key 8).bind fun b s =>
      (globalWords s (addr + 8) n).bind fun ws s => .ok (BitVec.ofNat 64 (ofLeBytes b) :: ws) s

/-- Record n of a shape set: from the set, or in pointer mode through the record cache (R200). -/
def record (s : State) (x : ShapeSet) (n : BitVec 3) : Act ShapeWords :=
  if x.pointer then
    let addr := (x.addr + 192 * n.toNat) % 2 ^ 52
    let o := (thr s).owner
    match (coreAt s s.core).recs.find? fun e => e.owner == o && e.addr == addr with
    | some e => .ok e.words (cacheRecord s e)
    | none => (globalWords s addr 24).bind fun ws s => .ok ws (cacheRecord s ⟨o, addr, ws⟩)
  else .ok (x.records.getD n.toNat []) s

/-- SHGET (R199). -/
def execShget (d a : BitVec 6) (n : BitVec 3) (s : State) : Out :=
  instr (.shget d a n) {} [G d, G a] [] s fun s =>
    let w := rg s a
    match shapeSet s with
    | none => .trap Cause.shape (shapeTrap 6 n) s
    | some x =>
      if x.nshape ≤ n.toNat ∨ 24 ≤ w.toNat then .trap Cause.shape (shapeTrap 6 n) s
      else (record s x n).bind fun r s => .ok none (wg s d (r.getD w.toNat 0))

/-- The words that SHSLICE writes: the pointer, then start and length of each dimension (R199). -/
def sliceWords (r : ShapeWords) (index : Nat) : List Word :=
  shPointer r index :: (List.range 4).map fun d => place (shSlice r index d).1 32 ||| place (shSlice r index d).2 0

/-- SHSLICE (R198, R199). -/
def execShslice (d : BitVec 6) (n : BitVec 3) (s : State) : Out :=
  instr (.shslice d n) {} [G d, .g (d.toNat + 4)] ((List.range 5).map fun k => .g (d.toNat + k)) s fun s =>
    match shapeSet s with
    | none => .trap Cause.shape (shapeTrap 6 n) s
    | some x =>
      if x.nshape ≤ n.toNat then .trap Cause.shape (shapeTrap 6 n) s
      else (record s x n).bind fun r s =>
        let t := thr s
        match (if x.pointer then shContradiction r t.kcount else none) with
        | some e => .trap Cause.shape (shapeTrap e n) s
        | none => .ok none (putWords s d.toNat (sliceWords r t.kindex))

/-- SHREC: never traps after the register checks (R199). -/
def execShrec (d : BitVec 6) (n : BitVec 3) (s : State) : Out :=
  instr (.shrec d n) {} [G d] [] s fun s =>
    .ok none (wg s d (match shapeSet s with
      | none => 0
      | some x => if x.nshape ≤ n.toNat then 0
        else place 1 63 ||| place (if x.pointer then 1 else 0) 62 ||| place ((x.addr + 192 * n.toNat) % 2 ^ 52) 0))

/-- SHFENCE: as FENCE.OWNER, then the owner's entries of the core's record cache are invalid (R200). -/
def execShfence (s : State) : Out :=
  instr .shfence {} [] [] s fun s => (fence s 0 4).bind fun _ s =>
    .ok none (updCore s s.core fun k => { k with recs := k.recs.filter fun e => e.owner != (thr s).owner })

end Sys2Proof.Machine
end

