-- ==== Sys2Proof/Machine/Launch.lean ====
section
/-! DEFINITION. The front end: command rings, validation, launch, placement, successor lists (R187 to R194, R201, R202,
R309 to R314). -/

namespace Sys2Proof.Machine

/-! ### The owner's memory as the front end reads it -/

/-- A word of the owner's user space, at its home; none where no page readable by the owner is mapped. -/
def userWord (s : State) (o addr : Nat) : Option Word :=
  (userPlace s o addr { r := true }).map fun k => BitVec.ofNat 64 (homeNat s k 8)

/-- Consecutive words of the owner's user space. -/
def userWords (s : State) (o addr : Nat) : Nat → Option (List Word)
  | 0 => some []
  | n + 1 => match userWord s o addr, userWords s o (addr + 8) n with
    | some w, some ws => some (w :: ws)
    | _, _ => none

/-- A word written at its home in the owner's user space, where a writable page is mapped. -/
def putUser (s : State) (o addr : Nat) (w : Word) : State :=
  match userPlace s o addr { w := true } with
  | some k => setHomes (walked s o false addr) k (leBytes 8 w.toNat)
  | none => s

/-- A global address whose word the owner may write: aligned, mapped, writable (R192). -/
def flagFits (s : State) (o : Nat) (a : Word) : Bool :=
  a.toNat % 8 == 0 && a.toNat < 2 ^ 52 && (userPlace s o a.toNat { w := true }).isSome

/-! ### Validation (R192) -/

/-- The shape records of a launch record: none where their address is misaligned or unreadable. With `nshape` 0 there is none, and
an address that is then not 0 is ignored (DESIGN CHOICE, assumption 85). -/
def launchShapes (s : State) (o : Nat) (k : Kernel) : Option (List ShapeWords) :=
  if k.nshape = 0 then some []
  else if 8 < k.nshape ∨ k.shapeAddr.toNat % 64 ≠ 0 ∨ 2 ^ 52 ≤ k.shapeAddr.toNat ∨ inWindow k.shapeAddr.toNat then none
  else (List.range k.nshape).foldr (fun n acc =>
    match userWords s o (k.shapeAddr.toNat + 192 * n) 24, acc with
    | some r, some rs => some (r :: rs)
    | _, _ => none) (some [])

/-- The first record that contradicts itself: its reason and number. -/
def shapeFault (cores : Nat) : List ShapeWords → Nat → Option (Nat × Nat)
  | [], _ => none
  | r :: rs, n => match shContradiction r cores with
    | some e => some (e, n)
    | none => shapeFault cores rs (n + 1)

/-- The cause and detail with which a record is rejected, in the order of R192; cause 0x04 writes no flag. -/
def rejection (s : State) (o : Nat) (k : Kernel) (ceil : Nat) : Option (Nat × Nat) :=
  let w0 := k.word 0
  if !flagFits s o k.flagAddr then some (0x04, 0)
  else if field w0 0 8 ≠ 1 ∨ field w0 25 7 ≠ 0 ∨ field w0 39 9 ≠ 0 ∨ field w0 56 8 ≠ 0 ∨ k.word 14 ≠ 0 then some (0x01, 0)
  else if k.wsz = 3 then some (0x06, 0)
  else if k.ngroups = 0 ∨ 4 * (ownerAt s o).grants.length < k.ngroups then some (0x02, 0)
  else if ceil < k.prioBase then some (0x07, 0)
  else if !codeAddress k.entry ∨ !codeAddress k.wrapent ∨ (k.hasDeadline ∧ k.wrapent = 0) then some (0x03, 0)
  else match launchShapes s o k with
    | none => some (0x05, 0)
    | some rs => match shapeFault (16 * k.ngroups) rs 0 with
      | some (e, n) => some (0x10 + e, n)
      | none => if 5 ≤ k.depth then some (0x08, 0) else none

/-- The next KID of an owner, skipping 0 (R190). -/
def takeKid (s : State) (o : Nat) : Nat × State :=
  let n := (ownerAt s o).nextKid
  (n, updOwnerAt s o fun w => { w with nextKid := if n + 1 = 2 ^ 32 then 1 else n + 1 })

/-- A kernel rejected: its flag, or an error record for a flag address that cannot be written (R192). -/
def rejectKernel (s : State) (o kid : Nat) (k : Kernel) (cause detail index : Nat) : State :=
  let s := if cause = 4 then errRecord s 1 o 4 index
    else writeFlagAt s o k.flagAddr (flagWord 0 detail cause 4)
  endKernel (updKernel s o kid fun k => { k with flag := if cause = 4 then 0 else 4, cause := cause, detail := detail })
    o kid .rejected

/-- The walks of a launch record's validation that succeed close their pages' fault-table entries: of the flag word, and of the
shape records where the checks before them pass (R192, R330). -/
def walkedRecord (s : State) (o : Nat) (k : Kernel) (verdict : Option (Nat × Nat)) : State :=
  let s := walkedUser s o k.flagAddr.toNat 8 { w := true }
  let shapes := match verdict with
    | some (c, _) => c == 5 || c == 8 || decide (0x10 ≤ c)
    | none => true
  if shapes && k.nshape != 0 && decide (k.nshape ≤ 8) && k.shapeAddr.toNat % 64 == 0 && decide (k.shapeAddr.toNat < 2 ^ 52) then
    walkedUser s o k.shapeAddr.toNat (192 * k.nshape) { r := true }
  else s

/-- A launch record consumed: Queued, then Rejected or Placing (R189, R192). `forced` rejects it with a cause whatever
it holds, its flag address apart (R201). -/
def launch (s : State) (o ring depth ceil index : Nat) (record : List Word) (forced : Option Nat) : State :=
  let (kid, s) := takeKid s o
  let (n, s) := fresh s
  let k : Kernel := { st := .placing, record := record, ring := ring, depth := depth, order := n, entered := timeNow s }
  let s := updOwnerAt s o fun w => { w with kernels := Tab.set k w.kernels kid }
  let verdict := match forced with
    | some c => if flagFits s o k.flagAddr then some (c, 0) else some (4, 0)
    | none => rejection s o k ceil
  let s := walkedRecord s o k verdict
  match verdict with
  | some (c, d) => rejectKernel s o kid k c d index
  | none => s

/-! ### Command rings (R187, R188) -/

/-- The status word of a queue control block. -/
def ringStatus (state cause index : Nat) : Word := place state 0 ||| place cause 8 ||| place (index % 2 ^ 48) 16

/-- The base of a ring, and its bytes (R186). -/
def ringBase (w32 : Word) : Nat := field w32 12 40 * 4096
def ringBytes (w32 : Word) : Nat := 128 * 2 ^ field w32 0 4

/-- The fields of a queue control block's privileged words are valid, for the owner that attaches it (R187). -/
def ringFieldsFit (o : Nat) (w32 w40 w48 w56 : Word) : Bool :=
  let n := field w32 0 4
  zeroBits w32 63 52 && zeroBits w32 11 4 && zeroBits w40 63 17 && w48 == 0 && w56 == 0 && 4 ≤ n && n ≤ 16
    && field w40 0 8 != 0 && field w40 0 8 == o

/-- The privileged words are valid in themselves: their fields, and the ring is mapped writable in the owner's user space
(R187). -/
def ringWordsFit (s : State) (o : Nat) (w32 w40 w48 w56 : Word) : Bool :=
  ringFieldsFit o w32 w40 w48 w56
    && (pageStarts (ringBase w32) (ringBytes w32)).all fun a => (userPlace s o a { w := true }).isSome

/-- A ring changed. -/
def updRing (s : State) (o r : Nat) (f : CmdRing → CmdRing) : State :=
  updOwnerAt s o fun w => match Tab.find w.cmdRings r with
    | some x => { w with cmdRings := Tab.set (f x) w.cmdRings r }
    | none => w

/-- A fresh ring number, or that of a ring attached before at the same address. -/
def ringNumber (w : Owner) (qcb : Nat) : Nat :=
  match w.cmdRings.find? fun r => r.2.qcb == qcb with
  | some r => r.1
  | none => w.cmdRings.foldl (fun n r => Nat.max n (r.1 + 1)) 0

/-- ATTACH: the privileged words are compared with the shadow copy and checked; the read index begins as offset 8 holds
it (R187, R188). A control block that cannot be read attaches nothing, and with cause 1, where there is no index, the status has
bits [63:16] zero (DESIGN CHOICE, assumption 82). -/
def execAttach (o qcb shadow32 shadow40 : Nat) (s : State) : Out :=
  event s <|
    if (Tab.find s.owners o).isNone then none
    else match userWords s o qcb 8 with
      | none => none
      | some ws =>
        let w32 := ws.getD 4 0
        let w40 := ws.getD 5 0
        let s := walkedUser s o qcb 64 { r := true }
        let same := w32.toNat == shadow32 && w40.toNat == shadow40
        let good := same && ringWordsFit s o w32 w40 (ws.getD 6 0) (ws.getD 7 0)
        let s := if same && ringFieldsFit o w32 w40 (ws.getD 6 0) (ws.getD 7 0)
          then walkedUser s o (ringBase w32) (ringBytes w32) { w := true } else s
        let ring : CmdRing := { qcb := qcb, base := ringBase w32, n := field w32 0 4, ceil := field w40 8 8,
                                host := w40.getLsbD 16, running := good, r := (ws.getD 1 0).toNat }
        let s := updOwnerAt s o fun w => { w with cmdRings := Tab.set ring w.cmdRings (ringNumber w qcb) }
        some (putUser s o (qcb + 16) (if good then ringStatus 1 0 0 else ringStatus 2 1 0))

/-- The front end looks at the slot of a ring's read index: a ready record is consumed, a malformed one faults the ring
(R188). A slot that can no longer be read is waited for, and a record is consumed although R cannot be written (DESIGN CHOICE,
assumption 83). -/
def pollRing (s : State) (o r : Nat) : Option State :=
  match Tab.find (ownerAt s o).cmdRings r with
  | none => none
  | some q =>
    if !q.running || (ownerAt s o).stopped then none
    else match userWords s o (q.base + 128 * (q.r % 2 ^ q.n)) 16 with
      | none => none
      | some ws =>
        let s := walkedUser s o (q.base + 128 * (q.r % 2 ^ q.n)) 128 { r := true }
        let w0 := (ws.getD 0 0).toNat
        if w0 = (q.r + 1) % 2 ^ 64 then
          let s := launch s o r 0 q.ceil q.r (ws.drop 1) none
          let next := (q.r + 1) % 2 ^ 64
          some (putUser (updRing s o r fun q => { q with r := next }) o (q.qcb + 8) (BitVec.ofNat 64 next))
        else if w0 = (q.r + 1 + 2 ^ 64 - 2 ^ q.n) % 2 ^ 64 then none
        else some (putUser (updRing s o r fun q => { q with running := false }) o (q.qcb + 16) (ringStatus 2 2 q.r))

/-- DOORBELL (R188). -/
def execDoorbell (o ring : Nat) (s : State) : Out := event s (pollRing s o ring)

/-- RING_POLL (R188). -/
def execRingPoll (o ring : Nat) (s : State) : Out := event s (pollRing s o ring)

/-! ### Placement (R309 to R313) -/

/-- A group of an owner is Occupied (R309). -/
def occupied (w : Owner) (g : Nat) : Bool := w.kernels.any fun k => k.2.live && k.2.groups.contains g

/-- Every core of a group has a free shape set (R194, R309). -/
def setsFree (s : State) (o g : Nat) : Bool :=
  (List.range 16).all fun i => (ctxAt s (rankCore (ownerAt s o) (16 * g + i)) o).shapes.length < 4

/-- The Free groups of an owner (R309). -/
def freeGroups (s : State) (o : Nat) : List Nat :=
  (List.range (4 * (ownerAt s o).grants.length)).filter fun g => !occupied (ownerAt s o) g

/-- The usable groups of an owner (R309). -/
def usable (s : State) (o : Nat) : List Nat := (freeGroups s o).filter (setsFree s o)

/-- Groups of a position in a set. -/
def groupsIn (u : List Nat) (p : Nat) : List Nat := u.filter fun g => g / 4 == p

/-- The rule of R312 for at most four groups, over some positions. -/
def fitFew (n : Nat) (u : List Nat) (ps : List Nat) : Option (List Nat) :=
  (ps.find? fun p => n ≤ (groupsIn u p).length).map fun p => (groupsIn u p).take n

/-- fit(k, U) of R312, for a set in rising order. -/
def fit (n : Nat) (positions : Nat) (u : List Nat) : Option (List Nat) :=
  let ps := List.range positions
  if n ≤ 4 then fitFew n u ps
  else
    let whole := (ps.filter fun p => (groupsIn u p).length == 4).take (n / 4)
    if whole.length < n / 4 then none
    else
      let first := (whole.map fun p => groupsIn u p).flatten
      if n % 4 = 0 then some first
      else (fitFew (n % 4) u (ps.filter fun p => !whole.contains p)).map fun g =>
        (List.range (4 * positions)).filter fun x => first.contains x || g.contains x

/-- The boost of a slack (R310). -/
def slackBoost (s : State) (o : Nat) (k : Kernel) : Nat :=
  if !k.hasDeadline then 0
  else
    let x := slack s o k
    if x < 0 then 64 else if x < 2000000 then 32 else if x < 8000000 then 8 else 0

/-- Raised by the starvation ceiling: 250 ms in Placing (R310). -/
def ceiled (s : State) (k : Kernel) : Bool := 250000000 ≤ timeNow s - k.entered

/-- The effective priority at a pass (R310). -/
def effPrio (s : State) (o : Nat) (k : Kernel) : Nat :=
  if ceiled s k then 255
  else Nat.min 255 (k.prioBase + Nat.min ((timeNow s - k.entered) / 2000000) 32 + slackBoost s o k)

/-- An entry of the placement order: KID, effective priority, kernel. -/
abbrev Placing := Nat × Nat × Kernel

/-- An entry comes before another: higher effective priority, then earlier entry (R310). -/
def before (a b : Placing) : Bool := b.2.1 < a.2.1 || (a.2.1 == b.2.1 && a.2.2.order < b.2.2.order)

/-- An entry put in its place. -/
def insertOrder (a : Placing) : List Placing → List Placing
  | [] => [a]
  | b :: bs => if before a b then a :: b :: bs else b :: insertOrder a bs

/-- The placement order of an owner at a pass (R310). -/
def placingOrder (s : State) (o : Nat) : List Placing :=
  ((ownerAt s o).kernels.filter fun k => k.2.st == .placing).foldl
    (fun l k => insertOrder (k.1, effPrio s o k.2, k.2) l) []

/-- A number sorted into a rising list, once. -/
def insertNat (n : Nat) : List Nat → List Nat
  | [] => [n]
  | m :: ms => if n < m then n :: m :: ms else if n = m then m :: ms else m :: insertNat n ms

/-- The lowest free shape set of a context: R194 says one of 0 to 3, and each core takes its own (DESIGN CHOICE,
assumption 73). -/
def freeSet (x : Ctx) : Nat := ((List.range 4).find? fun i => (Tab.find x.shapes i).isNone).getD 0

/-- The task record of a rank (R194). -/
def taskRecord (k : Kernel) (kid rank set : Nat) (pointer : Bool) : List Word :=
  [k.entry,
   place kid 0 ||| place (k.indexOf rank) 32 ||| place k.coreCount 42,
   place k.wsz.toNat 0 ||| place k.vsz.toNat 2 ||| place k.prio.toNat 4 ||| place set 12 ||| place k.nshape 14
     ||| place (if pointer then 1 else 0) 18,
   k.word 2, k.word 10, k.word 11, k.word 12, k.word 13]

/-- A kernel placed on its groups, all in one step: the shapes written into each core's set, then a task record sent to
each core (R194). In recovery, records run in pointer mode (R200). The records are read now, none where they cannot be
(DESIGN CHOICE, assumption 74), and a task record that is refused is lost (DESIGN CHOICE, assumption 75). -/
def placeKernel (s : State) (o kid : Nat) (k : Kernel) (gs : List Nat) : State :=
  let pointer := k.pmode || s.sys.recovery
  let shapes := if pointer then [] else (launchShapes s o k).getD []
  let s := if pointer || k.nshape == 0 then s else walkedUser s o k.shapeAddr.toNat (192 * k.nshape) { r := true }
  let ranks := (gs.map fun g => (List.range 16).map fun i => 16 * g + i).flatten
  let s := updKernel s o kid fun k => { k with st := .running, placed := timeNow s, groups := gs, tasks := ranks }
  let (s, sets) := ranks.foldl (fun (acc : State × Tab Nat) r =>
    let c := rankCore (ownerAt acc.1 o) r
    let n := freeSet (ctxAt acc.1 c o)
    let x : ShapeSet := { kid := kid, nshape := k.nshape, pointer := pointer, addr := k.shapeAddr.toNat % 2 ^ 52, records := shapes }
    (updCtxAt acc.1 c o fun y => { y with shapes := Tab.set x y.shapes n }, Tab.set n acc.2 r)) (s, [])
  let s := updKernel s o kid fun k => { k with sets := sets }
  let k := { k with groups := gs }
  ranks.foldl (fun s r => frontMessage s o r 0 (taskRecord k kid r (Tab.get 0 sets r) pointer)) s

/-- The first loop of R313: heads placed while they fit. -/
def placeHeads (o positions : Nat) : Nat → State → List Placing → List Nat → State × List Placing × List Nat
  | 0, s, l, u => (s, l, u)
  | _, s, [], u => (s, [], u)
  | n + 1, s, h :: l, u =>
    match fit h.2.2.ngroups positions u with
    | some gs => placeHeads o positions n (placeKernel s o h.1 h.2.2 gs) l (u.filter fun g => !gs.contains g)
    | none => (s, h :: l, u)

/-- Known ends of the Running kernels: the time and the groups (R313). -/
def knownEnds (s : State) (o : Nat) : List (Nat × List Nat) :=
  ((ownerAt s o).kernels.filter fun k => k.2.st == .running && k.2.expected != 0 && timeNow s < k.2.placed + k.2.expected).map
    fun k => (k.2.placed + k.2.expected, k.2.groups)

/-- The earliest known end at which the head fits, and the groups it then takes (R313). -/
def reservation (ends : List (Nat × List Nat)) (n positions : Nat) (u : List Nat) : Option (Nat × List Nat) :=
  let times := ends.foldl (fun l e => insertNat e.1 l) []
  times.findSome? fun t =>
    let all := (ends.filter fun e => e.1 ≤ t).foldl (fun l e => e.2.foldl (fun l g => insertNat g l) l) u
    (fit n positions all).map fun gs => (t, gs)

/-- The back-fill of R313. -/
def backfill (o positions now : Nat) (res : Option (Nat × List Nat)) : State → List Placing → List Nat → State
  | s, [], _ => s
  | s, b :: bs, u =>
    let v := match res with
      | none => u
      | some (t, gs) =>
        if b.2.2.expected ≠ 0 ∧ now + b.2.2.expected ≤ t then u else u.filter fun g => !gs.contains g
    match fit b.2.2.ngroups positions v with
    | some gs => backfill o positions now res (placeKernel s o b.1 b.2.2 gs) bs (u.filter fun g => !gs.contains g)
    | none => backfill o positions now res s bs u

/-- A placement pass of an owner (R313). -/
def placementPass (s : State) (o : Nat) : State :=
  let positions := (ownerAt s o).grants.length
  let order := placingOrder s o
  let (s, l, u) := placeHeads o positions order.length s order (usable s o)
  match l with
  | [] => s
  | h :: rest =>
    if ceiled s h.2.2 then s
    else backfill o positions (timeNow s) (reservation (knownEnds s o) h.2.2.ngroups positions u) s rest u

/-- The kernels of an owner in Placing. -/
def placingKids (s : State) (o : Nat) : List Nat := ((ownerAt s o).kernels.filter fun k => k.2.st == .placing).map Prod.fst

/-- 1 ms and 20 µs in clk (R314). -/
def passPeriod : Nat := 3300000
def passTime : Nat := 66000

/-- Something has happened since the last placement pass of a context that asks for another: a kernel has entered Placing, a group
has become Free or usable, or the groups have changed (R314). -/
def passCause (s : State) (o : Nat) : Bool :=
  let p := (ownerAt s o).pass
  (placingKids s o).any (fun k => !p.kids.contains k) || 4 * (ownerAt s o).grants.length != p.groups
    || (freeGroups s o).any (fun g => !p.free.contains g) || (usable s o).any fun g => !p.usable.contains g

/-- The front end is to run a placement pass for a context: one of those has happened, or 1 ms has passed since the last one
(R314). -/
def passAsked (s : State) (o : Nat) : Bool :=
  passCause s o || decide ((ownerAt s o).pass.done + passPeriod ≤ s.cycle)

/-- A placement pass, and what it leaves. -/
def runPass (s : State) (o : Nat) : State :=
  let s := placementPass s o
  updOwnerAt s o fun w =>
    { w with pass := { kids := placingKids s o, free := freeGroups s o, usable := usable s o, groups := 4 * w.grants.length, done := s.cycle } }

/-- PLACEMENT_PASS (R313, R314). -/
def execPlacementPass (o : Nat) (s : State) : Out :=
  event s (if (Tab.find s.owners o).isSome && !(ownerAt s o).stopped && passAsked s o then some (runPass s o) else none)

/-- A context with a kernel to place: a pass without one changes nothing, and is not counted. -/
def placesNow (s : State) (o : Nat) : Bool := !(ownerAt s o).stopped && placingKids s o != []

/-- The CYCLE since which a pass of a context is asked for, as this moment finds it: the one noted, else now where a cause stands, else
when 1 ms has passed since the last one (R314). -/
def askedSince (s : State) (o : Nat) : Nat :=
  let p := (ownerAt s o).pass
  p.asked.getD (if passCause s o then s.cycle else p.done + passPeriod)

/-- The CYCLE at which a pass of a context ends at the latest: 20 µs after it is asked for (R314). -/
def passEnd (s : State) (o : Nat) : Option Nat := if placesNow s o then some (askedSince s o + passTime) else none

/-- The CYCLE since which a pass is asked for, noted. -/
def noteAsked (s : State) (o : Nat) : State :=
  if placesNow s o && passAsked s o then
    updOwnerAt s o fun w => { w with pass := { w.pass with asked := some (askedSince s o) } }
  else s

/-- A pass that has been asked for 20 µs runs; one that has been asked for since is noted (R314). -/
def passDue (s : State) (o : Nat) : State :=
  let s := noteAsked s o
  if placesNow s o && (ownerAt s o).pass.asked.any (fun n => n + passTime ≤ s.cycle) then runPass s o else s

/-! ### Successor lists (R201, R202) -/

/-- A malformed header of a successor list. -/
def badHeader (ws : List Word) : Bool :=
  let w0 := ws.getD 0 0
  let c := field w0 0 5
  c == 0 || 16 < c || !zeroBits w0 7 5 || !zeroBits w0 63 10 || (ws.drop 1).any fun w => w != 0

/-- The records of a list consumed in order; one that cannot be read makes an error record. Word 0 of a record, which the layout
has zero, is not looked at (DESIGN CHOICE, assumption 84). -/
def consumeList (o kid ring depth ceil addr : Nat) (forced : Option Nat) : Nat → Nat → State → State
  | 0, _, s => s
  | n + 1, i, s =>
    let s := match userWords s o (addr + 128 * (i + 1)) 16 with
      | none => errRecord s 1 o 0x201 kid
      | some ws => launch (walkedUser s o (addr + 128 * (i + 1)) 128 { r := true }) o ring depth ceil kid (ws.drop 1) forced
    consumeList o kid ring depth ceil addr forced n (i + 1) s

/-- A Closed kernel's successor list (R201). -/
def successors (s : State) (o kid : Nat) : Option State :=
  match kernelAt s o kid with
  | none => none
  | some k =>
    if k.st != .closed || k.listDone then none
    else
      let s := updKernel s o kid fun k => { k with listDone := true }
      let addr := k.listAddr.toNat
      if addr = 0 then some s
      else
        let ceil := ((Tab.find (ownerAt s o).cmdRings k.ring).map CmdRing.ceil).getD 0
        if addr % 128 ≠ 0 ∨ 2 ^ 52 ≤ addr then some (errRecord s 1 o 0x201 kid)
        else match userWords s o addr 16 with
          | none => some (errRecord s 1 o 0x201 kid)
          | some ws =>
            let s := walkedUser s o addr 128 { r := true }
            let w0 := ws.getD 0 0
            if k.flag == 1 || (k.flag == 2 && w0.getLsbD 8) || (k.flag == 3 && w0.getLsbD 9) then
              some (consumeList o kid k.ring (k.depth + 1) ceil addr (if badHeader ws then some 1 else none)
                (Nat.min (field w0 0 5) 16) 0 s)
            else some s

/-- SUCCESSOR_LIST (R201). -/
def execSuccessorList (o kid : Nat) (s : State) : Out := event s (successors s o kid)

end Sys2Proof.Machine
end

