-- ==== Sys2Proof/Machine/Contain.lean ====
section
/-! DEFINITION. Rows due for repair, and error containment (R336, R378, R379). -/

namespace Sys2Proof.Machine

/-! ### Rows of local store (R336) -/

/-- A row of local store on its site: the site, the physical sub-bank and the row that hold a place. -/
def rowOf (s : State) (place : Nat) : Option (Nat × Nat × Nat) :=
  let c := lsCore place
  (physOf s c (lsSub place)).map fun p =>
    (siteOf s c, p, Config.storeRow (lsKey (siteOf s c) p ((place - lsBase) % 2 ^ 18)))

/-- A row put into a site's order of repair: behind the rows due before it, an uncorrectable one ahead of the others. A row
that stands there already stays, unless it has become uncorrectable. -/
def addRepair (l : List (Nat × Nat × Bool)) (sub row : Nat) (unc : Bool) : List (Nat × Nat × Bool) :=
  let same (x : Nat × Nat × Bool) : Bool := x.2.1 == row
  if l.any fun x => same x && (x.2.2 || !unc) then l
  else
    let l := l.filter fun x => !same x
    if unc then (l.takeWhile fun x => x.2.2) ++ (sub, row, true) :: l.dropWhile fun x => x.2.2 else l ++ [(sub, row, false)]

/-- The row of a place due for repair. -/
def repairDue (s : State) (place : Nat) (unc : Bool) : State :=
  match rowOf s place with
  | some (site, sub, row) => { s with repairs := Tab.set (addRepair (Tab.get [] s.repairs site) sub row unc) s.repairs site }
  | none => s

/-- A corrected error of the row of a place counted; the sixteenth makes the row due for repair. -/
def countError (s : State) (place : Nat) : State :=
  match rowOf s place with
  | none => s
  | some (_, _, row) =>
    let n := Tab.get 0 s.rowErrs row + 1
    let s := { s with rowErrs := Tab.set n s.rowErrs row }
    if 16 ≤ n then repairDue s place false else s

/-! ### Error containment (R379) -/

/-- Every kernel of an owner that has not ended and satisfies a condition is Killed with a cause. -/
def killAll (s : State) (o cause : Nat) (p : Kernel → Bool) : State :=
  ((ownerAt s o).kernels.filter fun k => !k.2.over && p k.2).foldl (fun s k => killKernel s o k.1 cause) s

/-- The threads of an owner on the cores that satisfy a condition freed, in their slots and swapped out, with what CTXSAVE keeps
of others. -/
def freeOwner (s : State) (o : Nat) (p : Nat → Bool) : State :=
  let s := ((threadsWhere s fun t => t.owner == o).filter fun x => p x.1).foldl (fun s x => freeSlot s x.1 x.2) s
  let s := (s.cores.filter fun c => p c.1).foldl (fun s c =>
    (Tab.get [] c.2.shadow o).foldl (fun s t => freeShadow s c.1 o t.1 t.2) s) s
  { s with cores := Tab.mapAll (fun c k => if p c then
      { k with shadow := Tab.del k.shadow o, saved := k.saved.filter fun v => v.owner != o } else k) s.cores }

/-- Every registration of an owner deregistered, as CDEREG does (R356). -/
def deregisterAll (s : State) (o : Nat) : State := (ownerAt s o).regs.foldl (fun s r => deregister s o r.1) s

/-- An owner stopped: its kernels Killed with cause 0x22, its threads freed, its registrations deregistered, and the owner event
of the record numbered `n`. -/
def stopOwner (s : State) (o n rank : Nat) : State :=
  let s := updOwnerAt s o fun w => { w with stopped := true }
  ownerEvent (deregisterAll (freeOwner (killAll s o 0x22 fun _ => true) o fun _ => true) o) o 3 (place n 0) rank

/-- An uncorrectable error in state of an owner, 0 for state of none: the record, the repair of a row of local store, and the
stop of the owner; `none` where there is no such owner. -/
def contain (s : State) (o kind loc : Nat) : Option State :=
  let n := s.sys.errs.length
  let s := errRecord s kind o 0 loc
  let s := if isLs loc && !isControl (lsCore loc) then repairDue s loc true else s
  if o = 0 then some s
  else if (Tab.find s.owners o).isNone then none
  else some (stopOwner s o n (if isLs loc then rankOf s (lsCore loc) o else 0))

/-- ERROR_CONTAINMENT. -/
def execErrorContainment (o kind loc : Nat) (s : State) : Out := event s (contain s o kind loc)

end Sys2Proof.Machine
end

