-- ==== Sys2Proof/Machine/Rotate.lean ====
section
/-! DEFINITION. Rotation: due points, deferral, the pause, holds, and the swaps of time-shared positions (R141, R336, R340
to R353). -/

namespace Sys2Proof.Machine

/-! ### Due points and deferral (R341, R342) -/

/-- Clk of an interval in ms, at 3.3 clk per ns. -/
def msClk (n : Nat) : Nat := 3300000 * n

/-- A hold that still defers. -/
def Hold.lives (s : State) (h : Hold) : Bool := timeNow s < h.ends

/-- A join cell with a continuation: its forker is parked, or waits for a slot (R211). -/
def JoinCell.parks (j : JoinCell) : Bool := !j.discarded || j.waits

/-- A kernel in WrappingUp has a thread, or a parked forker, in a stack. -/
def wrapsIn (s : State) (n : Nat) : Bool :=
  s.cores.any (fun c => stackOf c.1 == n && holdsThread c.2 fun t => wrapping s t.owner t.kid)
    || s.owners.any fun o => o.2.joins.any fun j => j.2.parks && stackOf j.2.core == n && wrapping s o.1 j.2.kid

/-- A deferral cause of a stack (R342). -/
def deferralCause (s : State) (n : Nat) : Bool := wrapsIn s n || (stackAt s n).holds.any (Hold.lives s)

/-- 2 ms have passed since a due point. -/
def overdue (s : State) (due : Nat) : Bool := due + msClk 2 ≤ s.cycle

/-- A due point reached: the next one follows by the interval in force, and the step enters Lead or Deferred. In Retention
it is skipped (R377). A step still under way keeps its state. -/
def duePoint (s : State) (n : Nat) : Option State :=
  let k := stackAt s n
  if 4 ≤ n ∨ !k.rotEn ∨ s.cycle < k.due then none
  else
    let rot := if k.rot ≠ .idle ∨ s.sys.power ≠ .on then k.rot
      else if deferralCause s n then .deferred k.due else .lead k.due s.cycle
    some (updStackAt s n fun x => { x with due := k.due + msClk k.ivl, rot := rot })

/-- DUE_POINT (R341). -/
def execDuePoint (stack : Nat) (s : State) : Out := event s (duePoint s stack)

/-- DEFERRAL_END: every cause has ended, or 2 ms have passed (R342). -/
def execDeferralEnd (stack : Nat) (s : State) : Out :=
  event s <| match (stackAt s stack).rot with
    | .deferred due =>
      if s.sys.power = .on ∧ (!deferralCause s stack || overdue s due) then
        some (updStackAt s stack fun k => { k with rot := .lead due s.cycle })
      else none
    | _ => none

/-- HOLD_EXPIRY (R352). -/
def execHoldExpiry (stack n : Nat) (s : State) : Out :=
  event s <| match (stackAt s stack).holds[n]? with
    | some h => if h.lives s then none else
        some (updStackAt s stack fun k => { k with holds := k.holds.eraseIdx n })
    | none => none

/-- ROTHOLD, with its operands in ROTHCTL (R352). -/
def execRothold (s : State) : Out :=
  instr .rothold { priv := !(thr s).sup } [] [] s fun s =>
    let x := (thr s).rothctl
    let dur := field x 1 11
    let rel := x.getLsbD 0
    if !zeroBits x 61 14 ∨ (!rel ∧ (dur = 0 ∨ 2000 < dur)) then .trap Cause.access x s
    else
      let k := if isControl s.core then field x 12 2 else stackOf s.core
      let u := (thr s).uid
      let st (s : State) (c : Nat) : State := updThr s fun t => { t with rothctl := place c 62 ||| zx (x.extractLsb' 0 62) }
      let busy := match (stackAt s k).rot with | .lead .. | .pausing .. => true | _ => false
      if rel then .ok none (st (updStackAt s k fun y => { y with holds := y.holds.filter fun h => h.uid != u }) 3)
      else if busy then .ok none (st s 1)
      else if 16 ≤ ((stackAt s k).holds.filter (Hold.lives s)).length then .ok none (st s 2)
      else
        let h : Hold := { uid := u, ends := timeNow s + 1000 * dur }
        .ok none (st (updStackAt s k fun y => { y with holds := y.holds ++ [h] }) 0)

/-! ### The beginning of a pause (R344, phases 1 to 7) -/

/-- The cores of a stack that hold anything. -/
def stackCores (s : State) (n : Nat) : List Nat := (s.cores.filter fun c => stackOf c.1 == n).map Prod.fst

/-- The posted stores of a core with homes in its stack performed and acknowledged. -/
def drainPosted (s : State) (core : Nat) : State :=
  let here (e : StoreEntry) : Bool := inStack core e.key && !e.lost
  let out := (coreAt s core).posted.filter here
  let s := updCore s core fun c => { c with posted := c.posted.filter fun e => !here e }
  out.foldl (fun s e => setHomes s e.key e.bytes) s

/-- The messages inside a stack accepted, in order, and their statuses delivered: to a sender in its slot, which completes, or to one
swapped out, which keeps it (R347, R350). -/
def drainMessages (s : State) (n : Nat) : State :=
  (s.flights.filter fun f => stackOf f.core == n && stackOf (flightCore s f) == n).foldl (fun s f =>
    let s := landFlight s f
    if (thrAt s f.core f.slot).uid = f.uid then (takeStatus s f.core f.slot).getD s else s) s

/-- An MSPILL or MFILL past its waits completes (R259, R344): the stores and write-backs before it are performed, and the host's
completions for them have come. -/
def finishSpill (s : State) (core slot : Nat) : State :=
  let t := thrAt s core slot
  let run (f : State → Out) (s : State) : State := onThread s core slot fun s => match f s with | .next s => s | _ => s
  if t.st != .blocked then s
  else match t.wait with
    | some (.mspill, .spilling _ (some _)) => run execMspill { s with hostWrites := s.hostWrites.filter fun w => w.uid != t.uid }
    | some (.mfill, _) => run execMfill s
    | _ => s

/-- Those of a core's threads, swapped out or not. -/
def drainSpills (s : State) (core : Nat) : State :=
  onEveryOwner s core fun s => (coreAt s core).threads.foldl (fun s t => finishSpill s core t.1) s

/-- The running commands of a core completed (R259, R344, phase 3). -/
def drainCommands (s : State) (core : Nat) : State :=
  ((allCmds (coreAt s core)).filter fun m => m.st == .running).foldl retireCmd s

/-- The oldest vector instruction in flight of a thread completed, again and again, until one cannot complete. -/
def drainVq (core slot : Nat) : Nat → State → State
  | 0, s => s
  | n + 1, s =>
    if (thrAt s core slot).vq == [] then s
    else match execVectorCompletion core slot s with
      | .next s => drainVq core slot n s
      | _ => s

/-- The vector instructions in flight of a core completed (R344, phase 2). -/
def drainVectors (s : State) (core : Nat) : State :=
  ((coreAt s core).threads.map Prod.fst).foldl (fun s sl => drainVq core sl (thrAt s core sl).vq.length s) s

/-- The stores in a core's store buffer performed. -/
def drainStores (s : State) (core : Nat) : State := drainBuffer core (coreAt s core).sb.length s

/-- A pause begins: instructions in flight complete, traffic inside the stack is delivered, its buffers drain, and its transfers stop
at a granule boundary (R141, R297, R344, R347). Running commands go on to their end (R349). -/
def beginPause (s : State) (n due resends : Nat) (failed : Option (Nat × Nat)) : State :=
  let cores := stackCores s n
  let s := cores.foldl drainStores s
  let s := cores.foldl drainVectors s
  let s := cores.foldl drainStores s
  let s := cores.foldl drainSpills s
  let s := drainRequests (drainMessages s n) n
  let s := cores.foldl drainStores s
  let s := cores.foldl drainPosted s
  let s := cores.foldl (fun s c => drainReplies (inStack c) s c) s
  let s := (xfersToStop s n).foldl finishGranules s
  updStackAt s n fun k => { k with rot := .pausing due s.cycle resends failed }

/-! ### Repairs (R336) -/

/-- A sub-bank retired: its content, if it has one, is copied into the lowest good free sub-bank, which takes its place in the
maps. The slots of the good sub-banks above the retired one become one lower (R336, R345). A content without a good free
sub-bank stays in use, and the control cores receive a shrink request. -/
def retireSub (s : State) (site sub : Nat) : State :=
  match coreOfSite s site with
  | none => s
  | some c =>
    let at' := (siteAt s site).good.idxOf sub
    let holds (b : Nat × SubBank) : Bool := b.2.tag != 0 && b.2.slot == at'
    let gone (s : State) : State :=
      let x := siteAt s site
      { s with sites := Tab.set { x with retired := sub :: x.retired } s.sites site }
    let below (i : Nat) : Nat := if at' < i then i - 1 else i
    let move (new : Nat) (i : Nat) : Nat := below (if i = at' then new else i)
    let place (new : Nat) (s : State) : State :=
      updCore s c fun k => { k with subs := Tab.mapAll (fun _ b => { b with slot := move new b.slot }) k.subs }
    match (coreAt s c).subs.find? holds, freeSlots s c with
    | none, _ => gone (place at' s)
    | some _, new :: _ => gone (place new s)
    | some b, [] =>
      let r : ShrinkReq := { site := site, sub := sub, owner := b.2.tag, cycle := s.cycle }
      { s with sys := { s.sys with shrinks := s.sys.shrinks ++ [r] } }

/-- The first repair of a site's order carried out: the row takes one of the sub-bank's eight spare rows, or the sub-bank
retires (R336). -/
def repairOne (s : State) (site : Nat) : State :=
  match Tab.find s.repairs site with
  | some ((sub, row, _) :: rest) =>
    let s := { s with repairs := Tab.set rest s.repairs site, rowErrs := Tab.del s.rowErrs row }
    let x := siteAt s site
    if x.used sub < 8 then { s with sites := Tab.set { x with spares := Tab.set (x.used sub + 1) x.spares sub } s.sites site }
    else retireSub s site sub
  | _ => s

/-! ### The end of a pause (R344, phases 8 to 10) -/

/-- The owners whose state a granule of a core's exchange carries: a granule of a slot below G that of the owner tagged there, a
granule of core state that of every owner context of the core (R345). -/
def granuleOwners (s : State) (g core u : Nat) : List Nat :=
  let k := coreAt s core
  if u < 1024 * g then (k.subs.filter fun b => b.2.tag != 0 && b.2.slot == u / 1024).map fun b => b.2.tag
  else if u < 1024 * g + 128 then k.ctxs.map Prod.fst else []

/-- A pause ends: the commands that still run complete, at most one repair on each site, every content moved to the next site, ROTN
incremented, parked messages delivered, the owners of a granule that failed stopped (R141, R336, R344 to R347). -/
def endPause (s : State) (n resends : Nat) (failed : Option (Nat × Nat)) : State :=
  let s := (stackCores s n).foldl drainCommands s
  let s := ((s.repairs.filter fun x => stackOf x.1 == n).map Prod.fst).foldl repairOne s
  let lost := match failed with
    | some (core, u) => if stackOf core = n then granuleOwners s (goodSubs s n) core u else []
    | none => []
  let s := updStackAt s n fun k => { k with rotn := (k.rotn + 1) % 2 ^ 64, rot := .idle }
  let s := unpark (if 64 < resends then errRecord s 0x346 0 resends n else s) n
  lost.foldl (fun s o => (contain s o 0x346 n).getD s) s

/-- The clk within which a pause ends: those of R344 for a vertical roll, when the step's number is odd, and for a horizontal
step; with more than 64 resends, 64 clk more for each (R346). -/
def pauseLimit (rotn resends : Nat) : Nat :=
  (if rotn % 2 = 0 then 14346 else 22602) + if 64 < resends then 64 * resends else 0

/-- A stack's pause ends, if it stands in one. -/
def resumeStack (s : State) (n : Nat) : State :=
  match (stackAt s n).rot with
  | .pausing _ _ resends failed => endPause s n resends failed
  | _ => s

/-- Pauses that have reached their limit end. -/
def resumeDue (s : State) : State :=
  (List.range 4).foldl (fun s n => match (stackAt s n).rot with
    | .pausing _ since resends _ => if since + pauseLimit (stackAt s n).rotn resends ≤ s.cycle then resumeStack s n else s
    | _ => s) s

/-- What a pause meets on its links, as one number: how many granules are resent, and with it, or no, a granule that fails eight
times: its core and its index, the core above them (R346). -/
def pauseInput (n : Nat) : Nat × Option (Nat × Nat) :=
  (n % 2 ^ 32, if n / 2 ^ 32 = 0 then none else some ((n / 2 ^ 32 - 1) / 2 ^ 16, (n / 2 ^ 32 - 1) % 2 ^ 16))

/-- ROTATION_PAUSE. When the Lead's 33,000 clk have passed the pause begins; but with a deferral cause, less than 2 ms after the due
point, the step is Deferred again (R341, R342, R344). Once begun, it ends. -/
def execRotationPause (stack resends : Nat) (s : State) : Out :=
  event s <| if s.sys.power ≠ .on then none else match (stackAt s stack).rot with
    | .lead due started =>
      if s.cycle < started + 33000 then none
      else if deferralCause s stack && !overdue s due then
        some (updStackAt s stack fun k => { k with rot := .deferred due })
      else some (beginPause s stack due (pauseInput resends).1 (pauseInput resends).2)
    | .pausing .. => some (resumeStack s stack)
    | _ => none

/-! ### Owner swaps (R350) -/

/-- An owner time-shares a position. -/
def sharesPos (s : State) (o stack pos : Nat) : Bool :=
  (ownerAt s o).timeShare && (ownerAt s o).grants.any fun g => g.stack == stack && g.pos == pos

/-- The cores of a position. -/
def posCores (stack pos : Nat) : List Nat := (List.range 64).map fun i => 512 * stack + 64 * pos + i

/-- SWAP_REQUEST: the position starts Draining. -/
def execSwapRequest (stack pos o : Nat) (s : State) : Out :=
  event s <|
    if stack < 4 ∧ pos < 8 ∧ sharesPos s o stack pos ∧ (Tab.find s.swaps (8 * stack + pos)).isNone
        ∧ (coreAt s (512 * stack + 64 * pos)).active ≠ o then
      some { s with swaps := Tab.set { next := o } s.swaps (8 * stack + pos) }
    else none

/-- Drained: no user-mode thread and no Running command of the running owner, and its supervisor threads Blocked or
Held. -/
def drained (k : Core) : Bool :=
  (k.threads.all fun t => t.2.st == .free || (t.2.sup && (t.2.st == .blocked || t.2.st == .held)))
    && (allCmds k).all fun m => m.st != .running

/-- OWNER_SWAP: a drained position exchanges the contexts of its 64 cores, outside a pause of its stack (R351). -/
def execOwnerSwap (stack pos : Nat) (s : State) : Out :=
  event s <| match Tab.find s.swaps (8 * stack + pos) with
    | none => none
    | some w =>
      if !pausing s stack && (posCores stack pos).all fun c => drained (coreAt s c) then
        some ((posCores stack pos).foldl (swapCore w.next) { s with swaps := Tab.del s.swaps (8 * stack + pos) })
      else none

end Sys2Proof.Machine
end

