-- ==== Sys2Proof/Machine/Sha.lean ====
section
/-! DEFINITION. The hash and the tag that R371, R374 and R382 name by their standards: SHA-384 (FIPS 180-4) and HMAC with it
(RFC 2104). The content is the standards' (PRESUMED, assumption 27). A number stands for a byte string, its first byte highest:
the state of the hash is one natural number of 512 bits, and a block one of 1,024. -/

namespace Sys2Proof.Machine.Sha

/-! ### The constants, computed as FIPS 180-4 defines them -/

/-- The largest number of `n` more binary digits, above `r`, whose k-th power does not exceed `x`. -/
def rootFrom (k x : Nat) : Nat → Nat → Nat
  | 0, r => r
  | n + 1, r => if (r + 2 ^ n) ^ k ≤ x then rootFrom k x n (r + 2 ^ n) else rootFrom k x n r

/-- The first 64 bits of the fractional part of the k-th root of `p`. -/
def rootBits (k p : Nat) : Nat := rootFrom k (p * 2 ^ (64 * k)) 72 0 % 2 ^ 64

/-- A number with no divisor from 2 to itself. -/
def isPrime (n : Nat) : Bool := 2 ≤ n && (List.range n).all fun d => d < 2 || n % d != 0

/-- The 80 primes below 410. -/
def primes : List Nat := (List.range 410).filter isPrime

/-- Round constants: the fractional parts of the cube roots of the 80 primes. -/
def rounds : List Nat := primes.map (rootBits 3)

/-- The words of a list, the first highest. -/
def joined (ws : List Nat) : Nat := ws.foldl (fun n w => n * 2 ^ 64 + w) 0

/-- The initial state: the fractional parts of the square roots of the ninth to the sixteenth prime. -/
def initial : Nat := joined (((primes.drop 8).take 8).map (rootBits 2))

/-! ### One block -/

/-- Word `i` of a number of `n` words, word 0 the highest. -/
def word (n x i : Nat) : BitVec 64 := BitVec.ofNat 64 (x >>> (64 * (n - 1 - i)))

/-- A word rotated right by each of three amounts, the results combined bit by bit. -/
def spin (a b c : Nat) (x : BitVec 64) : BitVec 64 := [a, b, c].foldl (fun y n => y ^^^ x.rotateRight n) 0

/-- The same with a shift for the third rotation. -/
def spinShift (a b c : Nat) (x : BitVec 64) : BitVec 64 := x.rotateRight a ^^^ (x.rotateRight b ^^^ x >>> c)

/-- The next word of the message schedule, from a window of its last 16 words. -/
def extend (win : Nat) : BitVec 64 :=
  word 16 win 0 + spinShift 1 8 7 (word 16 win 1) + word 16 win 9 + spinShift 19 61 6 (word 16 win 14)

/-- A round: `st` moves down by one word, with new words in the first and the fifth place. -/
def step (st : Nat) (k : Nat) (m : BitVec 64) : Nat :=
  let at' := word 8 st
  let choice := (at' 4 &&& (at' 5 ^^^ at' 6)) ^^^ at' 6
  let majority := (at' 0 &&& (at' 1 ||| at' 2)) ||| (at' 1 &&& at' 2)
  let mixed := at' 7 + spin 14 18 41 (at' 4) + choice + BitVec.ofNat 64 k + m
  let first := mixed + spin 28 34 39 (at' 0) + majority
  joined [first.toNat, (at' 0).toNat, (at' 1).toNat, (at' 2).toNat, (at' 3 + mixed).toNat, (at' 4).toNat, (at' 5).toNat,
    (at' 6).toNat]

/-- The rounds of a block: each takes the first word of the window, which then moves on by one word. -/
def runRounds : List Nat → Nat → Nat → Nat
  | [], _, st => st
  | k :: ks, win, st => runRounds ks (win % 2 ^ 960 * 2 ^ 64 + (extend win).toNat) (step st k (word 16 win 0))

/-- A block absorbed: the state and the state after the rounds added word by word. -/
def absorb (st blk : Nat) : Nat :=
  let r := runRounds rounds blk st
  joined ((List.range 8).map fun i => (word 8 st i + word 8 r i).toNat)

/-! ### A message -/

/-- The number of a byte string. -/
def ofBe (bs : List Byte) : Nat := bs.foldl (fun n b => 256 * n + b.toNat) 0

/-- The byte string of a number, in `n` bytes. -/
def beBytes (n v : Nat) : List Byte := (List.range n).map fun i => BitVec.ofNat 8 (v >>> (8 * (n - 1 - i)))

/-- Blocks of 128 bytes absorbed. -/
def absorbAll : Nat → Nat → List Byte → Nat
  | 0, st, _ => st
  | n + 1, st, bs => absorbAll n (absorb st (ofBe (bs.take 128))) (bs.drop 128)

/-- SHA-384, 48 bytes: the message is followed by a 1 bit, zeros, and its length in bits, in whole blocks. -/
def sha384 (m : List Byte) : List Byte :=
  let blocks := (m.length + 17 + 127) / 128
  let zeros := 128 * blocks - (m.length + 17)
  beBytes 48 (absorbAll blocks initial (m ++ 0x80#8 :: List.replicate zeros 0 ++ beBytes 16 (8 * m.length)) >>> 128)

/-- HMAC-SHA-384: a key longer than a block is hashed, a shorter one filled with zeros. -/
def hmac (key m : List Byte) : List Byte :=
  let k := if key.length ≤ 128 then key else sha384 key
  let padded (x : Byte) : List Byte := (k ++ List.replicate (128 - k.length) 0).map fun b => b ^^^ x
  sha384 (padded 0x5C ++ sha384 (padded 0x36 ++ m))

end Sys2Proof.Machine.Sha
end

