-- ==== Sys2Proof/Machine/Sign.lean ====
section
/-! DEFINITION. The verification of the two signatures of R371: RSA-3072 under RSASSA-PSS (RFC 8017) and SLH-DSA with the SHA2-128s
parameter set in its pure form (FIPS 205), with SHA-256 (FIPS 180-4), on which the latter rests. The content is the standards'
(PRESUMED, assumption 27). -/

namespace Sys2Proof.Machine.Sign

open Sys2Proof.Machine

/-! ### SHA-256: words of 32 bits, a state of 256 bits and a block of 512 as one number each -/

/-- Words of 32 bits of a list, the first highest. -/
def joined (ws : List Nat) : Nat := ws.foldl (fun n w => n * 2 ^ 32 + w) 0

/-- Word `i` of a number of `n` words, word 0 the highest. -/
def word (n x i : Nat) : BitVec 32 := BitVec.ofNat 32 (x >>> (32 * (n - 1 - i)))

/-- Round constants: the first 32 bits of the fractional parts of the cube roots of the 64 primes from 2. -/
def rounds : List Nat := (Sha.primes.take 64).map fun p => Sha.rootBits 3 p / 2 ^ 32

/-- The initial state: those of the square roots of the first eight primes. -/
def initial : Nat := joined ((Sha.primes.take 8).map fun p => Sha.rootBits 2 p / 2 ^ 32)

/-- The next word of the message schedule, from a window of its last 16 words. -/
def extend (win : Nat) : BitVec 32 :=
  let old := word 16 win 1
  let late := word 16 win 14
  word 16 win 0 + (old.rotateRight 7 ^^^ (old.rotateRight 18 ^^^ old >>> 3)) + word 16 win 9
    + (late.rotateRight 17 ^^^ (late.rotateRight 19 ^^^ late >>> 10))

/-- A round: the state moves down by one word, with new words in the first and the fifth place. -/
def step (st : Nat) (k : Nat) (m : BitVec 32) : Nat :=
  let w := word 8 st
  let choice := (w 4 &&& w 5) ^^^ (~~~(w 4) &&& w 6)
  let majority := (w 0 &&& w 1) ^^^ (w 0 &&& w 2) ^^^ (w 1 &&& w 2)
  let e := w 4
  let a := w 0
  let mixed := w 7 + (e.rotateRight 6 ^^^ e.rotateRight 11 ^^^ e.rotateRight 25) + choice + BitVec.ofNat 32 k + m
  let first := mixed + (a.rotateRight 2 ^^^ a.rotateRight 13 ^^^ a.rotateRight 22) + majority
  joined [first.toNat, a.toNat, (w 1).toNat, (w 2).toNat, (w 3 + mixed).toNat, e.toNat, (w 5).toNat, (w 6).toNat]

/-- The rounds of a block: each takes the first word of the window, which then moves on by one word. -/
def runRounds : List Nat → Nat → Nat → Nat
  | [], _, st => st
  | k :: ks, win, st => runRounds ks (win % 2 ^ 480 * 2 ^ 32 + (extend win).toNat) (step st k (word 16 win 0))

/-- A block absorbed: the state and the state after the rounds added word by word. -/
def absorb (st blk : Nat) : Nat :=
  let r := runRounds rounds blk st
  joined ((List.range 8).map fun i => (word 8 st i + word 8 r i).toNat)

/-- Blocks of 64 bytes absorbed. -/
def absorbAll : Nat → Nat → List Byte → Nat
  | 0, st, _ => st
  | n + 1, st, bs => absorbAll n (absorb st (Sha.ofBe (bs.take 64))) (bs.drop 64)

/-- SHA-256, 32 bytes. -/
def sha256 (m : List Byte) : List Byte :=
  let blocks := (m.length + 9 + 63) / 64
  let zeros := 64 * blocks - (m.length + 9)
  Sha.beBytes 32 (absorbAll blocks initial (m ++ 0x80#8 :: List.replicate zeros 0 ++ Sha.beBytes 8 (8 * m.length)))

/-- MGF1 of RFC 8017 with a hash: `n` bytes, in as many blocks as given. -/
def mgf1 (hash : List Byte → List Byte) (seed : List Byte) (blocks n : Nat) : List Byte :=
  ((List.range blocks).map fun c => hash (seed ++ Sha.beBytes 4 c)).flatten.take n

/-! ### RSASSA-PSS: SHA-384, MGF1 with SHA-384, a salt of 48 bytes, trailer 0xBC -/

/-- A power modulo `n`, from the exponent's highest bit down. -/
def powMod (n x e : Nat) : Nat → Nat
  | 0 => 1 % n
  | k + 1 =>
    let y := powMod n x (e / 2) k
    let y := y * y % n
    if e % 2 = 1 then y * x % n else y

/-- EMSA-PSS-VERIFY of an encoded message of 384 bytes, of 3,071 bits. -/
def pssFits (m em : List Byte) : Bool :=
  let masked := em.take 335
  let h := (em.drop 335).take 48
  let db := (masked.zip (mgf1 Sha.sha384 h 7 335)).map fun p => p.1 ^^^ p.2
  let db := db.set 0 ((db.getD 0 0) &&& 0x7F#8)
  let salt := db.drop 287
  em.drop 383 == [0xBC#8] && !(masked.getD 0 0).getLsbD 7 && db.take 287 == List.replicate 286 0 ++ [1#8]
    && Sha.sha384 (List.replicate 8 0 ++ Sha.sha384 m ++ salt) == h

/-- RSASSA-PSS-VERIFY with a modulus of 3,072 bits. -/
def rsaVerify (k : SignKeys) (m sig : List Byte) : Bool :=
  let s := Sha.ofBe sig
  sig.length == 384 && decide (2 ^ 3071 ≤ k.modulus) && decide (k.modulus < 2 ^ 3072) && decide (s < k.modulus)
    && pssFits m (Sha.beBytes 384 (powMod k.modulus s k.exponent 3072))

/-! ### SLH-DSA-SHA2-128s: n = 16, h = 63, d = 7, a = 12, k = 14, w = 16, m = 30 -/

/-- The compressed address of a hash: layer, tree, type and three words. -/
def adrs (layer tree kind a b c : Nat) : List Byte :=
  Sha.beBytes 1 layer ++ Sha.beBytes 8 tree ++ Sha.beBytes 1 kind ++ Sha.beBytes 4 a ++ Sha.beBytes 4 b ++ Sha.beBytes 4 c

/-- F, H and T: the hash of a message under the public seed and an address, 16 bytes. -/
def tweak (seed ad m : List Byte) : List Byte := (sha256 (seed ++ List.replicate 48 0 ++ ad ++ m)).take 16

/-- The n-th string of 16 bytes of a signature. -/
def part (sig : List Byte) (n : Nat) : List Byte := (sig.drop (16 * n)).take 16

/-- The 35 digits that a WOTS+ signature of 16 bytes covers: those of the message, and of their checksum. -/
def digits (m : List Byte) : List Nat :=
  let ds := (m.map fun b => [b.toNat / 16, b.toNat % 16]).flatten
  let sum := ds.foldl (fun n d => n + (15 - d)) 0
  ds ++ [sum / 256, sum / 16 % 16, sum % 16]

/-- `n` steps of a WOTS+ chain from step `i` on; `ad` gives the address of a step. -/
def chain (seed : List Byte) (ad : Nat → List Byte) : Nat → Nat → List Byte → List Byte
  | 0, _, x => x
  | n + 1, i, x => chain seed ad n (i + 1) (tweak seed (ad i) x)

/-- The WOTS+ public key that a signature of a message gives. -/
def wotsKey (seed : List Byte) (layer tree leaf : Nat) (sig m : List Byte) : List Byte :=
  let ends := (digits m).mapIdx fun i d => chain seed (fun j => adrs layer tree 0 leaf i j) (15 - d) d (part sig i)
  tweak seed (adrs layer tree 1 leaf 0 0) ends.flatten

/-- The root that a leaf and its path of `n` nodes give, the first node a brother of the leaf: `ad` gives the address of a node
from its height and index. -/
def climb (seed : List Byte) (ad : Nat → Nat → List Byte) (path : List Byte) : Nat → Nat → Nat → List Byte → List Byte
  | 0, _, _, x => x
  | n + 1, j, i, x =>
    let y := part path j
    climb seed ad path n (j + 1) (i / 2) (tweak seed (ad (j + 1) (i / 2)) (if i % 2 = 0 then x ++ y else y ++ x))

/-- The root of an XMSS tree that a signature of a message gives: 35 chains and a path of 9. -/
def xmssRoot (seed : List Byte) (layer tree leaf : Nat) (sig m : List Byte) : List Byte :=
  climb seed (fun j i => adrs layer tree 2 0 j i) (sig.drop 560) 9 0 leaf (wotsKey seed layer tree leaf (sig.take 560) m)

/-- The root of the hypertree that its `n` layers from one on give. -/
def hyperRoot (seed : List Byte) : Nat → Nat → Nat → Nat → List Byte → List Byte → List Byte
  | 0, _, _, _, _, m => m
  | n + 1, layer, tree, leaf, sig, m =>
    hyperRoot seed n (layer + 1) (tree / 2 ^ 9) (tree % 2 ^ 9) (sig.drop 704) (xmssRoot seed layer tree leaf (sig.take 704) m)

/-- The FORS public key that a signature of a digest of 21 bytes gives: 14 trees of height 12. -/
def forsKey (seed : List Byte) (tree leaf : Nat) (sig md : List Byte) : List Byte :=
  let roots := (List.range 14).map fun i =>
    let s := (sig.drop (208 * i)).take 208
    let index := 2 ^ 12 * i + Sha.ofBe md >>> (12 * (13 - i)) % 2 ^ 12
    let ad (j n : Nat) : List Byte := adrs 0 tree 3 leaf j n
    climb seed ad (s.drop 16) 12 0 index (tweak seed (ad 0 index) (s.take 16))
  tweak seed (adrs 0 tree 4 leaf 0 0) roots.flatten

/-- The verification of a pure signature with an empty context string. -/
def slhVerify (k : SignKeys) (m sig : List Byte) : Bool :=
  let seed := k.slh.take 16
  let r := sig.take 16
  let m' := 0#8 :: 0#8 :: m
  let d := mgf1 sha256 (r ++ seed ++ sha256 (r ++ k.slh ++ m')) 1 30
  let tree := Sha.ofBe ((d.drop 21).take 7) % 2 ^ 54
  let leaf := Sha.ofBe (d.drop 28) % 2 ^ 9
  let fors := forsKey seed tree leaf ((sig.drop 16).take 2912) (d.take 21)
  k.slh.length == 32 && sig.length == 7856 && hyperRoot seed 7 0 tree leaf (sig.drop 2928) fors == k.slh.drop 16

/-- Both signatures over a digest of 48 bytes verify with a signer's keys (R371). -/
def verifies (k : SignKeys) (x : Signed) : Bool := x.digest.length == 48 && rsaVerify k x.digest x.rsa && slhVerify k x.digest x.slh

end Sys2Proof.Machine.Sign
end

