-- ==== Sys2Proof/Machine/Startup.lean ====
section
/-! DEFINITION. Starting, identity and attestation, security and debug, power states, and the life of an owner (R6, R356,
R368 to R379). -/

namespace Sys2Proof.Machine

/-! ### Starting (R369, R370) -/

/-- The I/O die changed. -/
def updSys (s : State) (f : Sys → Sys) : State := { s with sys := f s.sys }

/-- The Rilain keys held in Boot ROM (R371). -/
def romKeys : SignKeys := ⟨Config.romRsaModulus, Config.romRsaExponent, Config.romSlhKey⟩

/-- Both signatures verify with one of the Rilain keys: those of Boot ROM, or others (R371, R372). -/
def signedBy (keys : List SignKeys) (x : Signed) : Bool := (romKeys :: keys).any fun k => Sign.verifies k x

/-- A stored record that verifies; one that does not is ignored (R372). -/
def verifies (keys : List SignKeys) (x : Option Signed) : Bool := x.any (signedBy keys)

/-- A stage runs: both signatures verify, its image is not below the minimum of its kind, and its digest can be extended (R371,
R372). `before` holds the keys of the stage before it. -/
def stageRuns (y : Sys) (before : List SignKeys) (st : Stage) : Bool :=
  signedBy before st.signed && st.kind < 8 && decide ((Tab.get 0 y.minVer st.kind).toNat ≤ st.version.toNat) && st.register < 8

/-- Stages that run one after another, each verified with the keys of Boot ROM or of the stage before it (R371). -/
def stagesRun (y : Sys) : List SignKeys → List Stage → Bool
  | _, [] => true
  | before, x :: rest => stageRuns y before x && stagesRun y x.keys.toList rest

/-- Every stage of a start runs (R370). -/
def startPasses (s : State) (st : StartRecord) : Bool := stagesRun s.sys [] st.stages

/-- The Rilain keys held in the stages of a start. -/
def startSigners (st : StartRecord) : List SignKeys := st.stages.filterMap Stage.keys

/-- The measurement registers after the stages: MR[k] ← SHA-384(MR[k] ‖ digest) (R371). -/
def measure (mr : Tab (List Byte)) : List Stage → Tab (List Byte)
  | [] => mr
  | x :: rest => measure (Tab.set (Sha.sha384 (Tab.get (List.replicate 48 0) mr x.register ++ x.signed.digest)) mr x.register) rest

/-- A site with what its self-test found added: more sub-banks retired, more spare rows in use (R333, R336). -/
def Site.tested (x : Site) (t : SelfTest) : Site :=
  { retired := (List.range 16).filter fun b => x.retired.contains b || t.bad.contains b
    spares := (t.spares.filter fun p => p.1 < 16).foldl (fun m p => Tab.set (Nat.min 8 (Tab.get 0 m p.1 + p.2)) m p.1) x.spares }

/-- The repair map after step 4: the stored one where it verifies, and, but in a warm start that it lets skip the self-test,
what the self-test finds (R372). -/
def sitesAfter (s : State) (st : StartRecord) (warm : Bool) : Tab Site :=
  let kept := if verifies (startSigners st) st.repairMap then s.sites else []
  if warm && verifies (startSigners st) st.repairMap then kept
  else st.tests.foldl (fun m t => Tab.set ((Tab.get {} m t.site).tested t) m t.site) kept

/-- What outlives every start: the host's memory, and the repair map. -/
def afterStart (s : State) (sites : Tab Site) (y : Sys) : State :=
  { State.reset with mem := s.mem.filter fun c => isHost c.1, sites := sites, sys := y }

/-- The I/O die with what the flash keeps: the configuration record and the failed-start counter (R370, R372). -/
def flashOf (y : Sys) (failed : Nat) : Sys :=
  { minVer := y.minVer, capKey := y.capKey, ptpDomain := y.ptpDomain, failed := failed, ready := false }

/-- A start that failed, or Off: nothing runs until the next start; the flash keeps its contents (R370, R377). -/
def stoppedModule (s : State) (failed : Nat) : State := afterStart s s.sites { flashOf s.sys failed with power := .off }

/-- A start: the counter rises; found at 3 or above, the recovery image starts cold (R370). The security state is Manufacturing
where a cold start finds a manufacturing record (R375). -/
def startModule (s : State) (st : StartRecord) (asked : Bool) : State :=
  let recovery := decide (3 ≤ s.sys.failed)
  let warm := asked && verifies (startSigners st) st.training && !recovery
  if !startPasses s st then stoppedModule s (s.sys.failed + 1)
  else afterStart s (sitesAfter s st warm)
    { flashOf s.sys (s.sys.failed + 1) with
      recovery := recovery, warm := warm, sec := if !warm && verifies (startSigners st) st.manufacturing then 2 else 0
      mr := measure [] st.stages, nonce := st.nonce, signers := startSigners st }

/-- COLD_START (R369). -/
def execColdStart (st : StartRecord) (s : State) : Out := event s (some (startModule s st false))

/-- WARM_START: at the control cores' request; cold all the same where the training records do not verify (R369). -/
def execWarmStart (st : StartRecord) (s : State) : Out := event s (some (startModule s st true))

/-- A start is under way: its ready record is not written, and its 300 s, at 3.3 clk per ns, have not passed (R370). -/
def starting (y : Sys) : Bool := !y.ready && y.power == .on && decide (y.startClk < 990000000000)

/-- START_TIMEOUT: 300 s without the ready record (R370). -/
def execStartTimeout (s : State) : Out :=
  event s (if !s.sys.ready && s.sys.power == .on && !starting s.sys then some (stoppedModule s s.sys.failed) else none)

/-- The minimum versions with those of a configuration record: one is only raised (R372). -/
def raiseMinimums (m : Tab (BitVec 32)) (l : List (Nat × BitVec 32)) : Tab (BitVec 32) :=
  (l.filter fun p => p.1 < 8).foldl (fun m p => if (Tab.get 0 m p.1).toNat < p.2.toNat then Tab.set p.2 m p.1 else m) m

/-- CONFIGURATION_RECORD: a record that verifies is stored, once the ready record is written (R372, R381, R382). -/
def execConfigurationRecord (record : Signed) (minimums : List (Nat × BitVec 32)) (settings : RecordSettings) (s : State) : Out :=
  event s <|
    if signedBy s.sys.signers record && s.sys.ready then
      some (updSys s fun y => { y with
        minVer := raiseMinimums y.minVer minimums, ptpDomain := some settings.domain, capKey := some settings.capKey })
    else none

/-! ### Attestation (R373, R374) -/

/-- A byte string cut or filled to a length. -/
def fitBytes (n : Nat) (bs : List Byte) : List Byte := (bs ++ List.replicate n 0).take n

/-- Bytes 0 to 559 of an attestation report. -/
def reportBody (y : Sys) (nonce : List Byte) : List Byte :=
  leBytes 4 1 ++ leBytes 4 8800 ++ nonce ++ ((List.range 8).map fun k => fitBytes 48 (Tab.get [] y.mr k)).flatten
    ++ [y.sec.setWidth 8, y.dbg.setWidth 8, if y.recovery then 1 else 0, 0]
    ++ ((List.range 8).map fun k => leBytes 4 (Tab.get 0 y.minVer k).toNat).flatten
    ++ fitBytes 48 Config.slhKeyHash ++ fitBytes 48 Config.rsaKeyHash ++ leBytes 4 0

/-- ATTESTATION_REQUEST (R373, R374). -/
def execAttestationRequest (nonce : List Byte) (s : State) : Out :=
  event s <|
    if nonce.length = 32 then
      let b := reportBody s.sys nonce
      some (updSys s fun y => { y with report := b ++ fitBytes 384 (Config.rsaSign b) ++ fitBytes 7856 (Config.slhSign b) })
    else none

/-! ### Security and debug (R375, R376) -/

/-- A token is bound to this module and to this start, and verifies (R375). -/
def tokenGood (y : Sys) (k : DebugToken) : Bool :=
  signedBy y.signers k.signed && k.identity == Config.slhKeyHash && k.nonce == y.nonce

/-- DEBUG_TOKEN: a good token enters Debug-Authorised. The security state is fixed at start: the token comes while the start is
under way, and Manufacturing stays as it is (assumption 55). -/
def execDebugToken (token : DebugToken) (s : State) : Out :=
  event s <|
    if tokenGood s.sys token && starting s.sys && s.sys.sec == 0 then
      some (updSys s fun y => { y with sec := 1, token := some token })
    else none

/-- A debug level that the security state allows. -/
def levelAllowed (y : Sys) (level : BitVec 2) : Bool :=
  level == 0 || (level != 3 && (y.sec == 2 || (y.sec == 1 && match y.token with
    | some k => if level = 1 then k.trace else k.halt
    | none => false)))

/-- DEBUG_LEVEL_SET: a refused level changes nothing. -/
def execDebugLevelSet (level : BitVec 2) (s : State) : Out :=
  event s (if levelAllowed s.sys level then some (updSys s fun y => { y with dbg := level }) else none)

/-- The CSRs that belong to a thread's context (R70, R161, R183, R203, R305, R339, R353). -/
def threadCsrs : List Nat :=
  [0x000, 0x001, 0x002, 0x003, 0x008, 0x009, 0x00A, 0x00B, 0x040, 0x041, 0x042, 0x043, 0x045, 0x049, 0x04A, 0x04B, 0x04C, 0x04D,
    0x04E, 0x050, 0x051] ++
  [0x082, 0x084, 0x0C4, 0x0E0, 0x0E1, 0x0E2, 0x100, 0x103, 0x105, 0x106, 0x164, 0x172, 0x173, 0x174]

/-- What a debugger reads of a Held context: zero where it names nothing of it. -/
def debugValue (s : State) (core slot : Nat) (r : DebugReg) : Word :=
  let t := thrAt s core slot
  match r with
  | .pc => t.pc
  | .g n => if n < windowSize t.wsz then t.getG n else 0
  | .m n => if n < 8 then t.getM n else 0
  | .ix n => if n < 4 then t.getIx n else 0
  | .v n lane => if n < vectorSize t.vsz then (t.getV n).extractLsb' (64 * (lane % 8)) 64 else 0
  | .csr n => if threadCsrs.contains n then csrRead { s with core := core, slot := slot } n else 0

/-- A 64-bit lane of a vector replaced. -/
def putLane (v : Vec) (lane : Nat) (x : Word) : Vec :=
  (v &&& ~~~(BitVec.setWidth 512 (BitVec.allOnes 64) <<< (64 * (lane % 8)))) ||| (x.setWidth 512 <<< (64 * (lane % 8)))

/-- What a debugger writes into a Held context; a CSR's fields that no instruction writes stay. -/
def debugPut (s : State) (core slot : Nat) (x : Word) (r : DebugReg) : State :=
  let put (f : Thread → Thread) : State := updThrAt s core slot f
  let t := thrAt s core slot
  match r with
  | .pc => put fun t => { t with pc := x &&& ~~~1 }
  | .g n => if n < windowSize t.wsz then put fun t => t.setG n x else s
  | .m n => if n < 8 then put fun t => t.setM n x else s
  | .ix n => if n < 4 then put fun t => t.setIx n x else s
  | .v n lane => if n < vectorSize t.vsz then put fun t => t.setV n (putLane (t.getV n) lane x) else s
  | .csr n =>
    if threadCsrs.contains n then { csrPut { s with core := core, slot := slot } n x with core := s.core, slot := s.slot } else s

/-- A thread that a debugger's halt has put in Held. -/
def debugHeld (s : State) (t : Thread) : Bool := t.st == .held && t.dbgHeld && halts s t.owner

/-- DEBUGGER_ACCESS (R376). -/
def execDebuggerAccess (core slot : Nat) (reg : DebugReg) (write : Option Word) (s : State) : Out :=
  event s <|
    if debugHeld s (thrAt s core slot) then
      some (match write with
        | none => updSys s fun y => { y with dbgRead := debugValue s core slot reg }
        | some x => debugPut s core slot x reg)
    else none

/-- DEBUGGER_RESUME: the Held slot is Ready again (R143, R376). -/
def execDebuggerResume (core slot : Nat) (s : State) : Out :=
  event s <|
    if debugHeld s (thrAt s core slot) then
      some (updThrAt s core slot fun t => { t with st := .ready, dbgHeld := false })
    else none

/-! ### Power states (R377) -/

/-- A thread Ready, Running or Blocked. -/
def works (t : Thread) : Bool := canIssue t

/-- A stack has a thread at work, or an engine busy. -/
def stackBusy (s : State) (n : Nat) : Bool :=
  (s.cores.any fun c => stackOf c.1 == n &&
    (c.2.threads.any (fun t => works t.2) || (allCmds c.2).any MCmd.live))
  || s.xfers.any fun x => x.st == .running && stackOf x.req.core == n

/-- IDLE_ENTRY: 100 µs without work. -/
def execIdleEntry (stack : Nat) (s : State) : Out :=
  event s <|
    let k := stackAt s stack
    if stack < 4 ∧ !k.idle ∧ !stackBusy s stack ∧ k.quiet + 330000 ≤ s.cycle then
      some (updStackAt s stack fun k => { k with idle := true })
    else none

/-- IDLE_EXIT: an arrival, a task record, a transfer, a feed or a due point. -/
def execIdleExit (stack : Nat) (s : State) : Out :=
  event s <|
    if stack < 4 ∧ (stackAt s stack).idle then some (updStackAt s stack fun k => { k with idle := false, quiet := s.cycle })
    else none

/-- A thread that a debugger's halt holds, in its slot or swapped out. -/
def anyDebugHeld (s : State) : Bool :=
  let held (l : Tab Thread) : Bool := l.any fun t => t.2.st == .held && t.2.dbgHeld
  s.cores.any fun c => held c.2.threads || c.2.shadow.any fun w => held w.2

/-- RETENTION_ENTRY: every kernel is Closed, Rejected or Killed, no invasive-debug Held slot exists and the trace buffer is
flushed. A rotation step that is due but not in its pause is skipped (assumption 78). -/
def execRetentionEntry (s : State) : Out :=
  event s <|
    if s.sys.power == .on && (s.owners.all fun o => o.2.kernels.all fun k => k.2.over) && !anyDebugHeld s
        && s.sys.trace == [] && !(List.range 4).any (pausing s) then
      let s := updSys s fun y => { y with power := .retention }
      some { s with compStacks := Tab.mapAll (fun _ k => { k with rot := .idle }) s.compStacks }
    else none

/-- The first due point after a CYCLE. -/
def nextDue (due ivl now : Nat) : Nat := if now < due ∨ ivl = 0 then due else due + ((now - due) / ivl + 1) * ivl

/-- RETENTION_EXIT: the due points of Retention were skipped. -/
def execRetentionExit (s : State) : Out :=
  event s <|
    if s.sys.power == .retention then
      let s := updSys s fun y => { y with power := .on }
      some { s with compStacks := Tab.mapAll (fun _ k => { k with due := nextDue k.due (msClk k.ivl) s.cycle }) s.compStacks }
    else none

/-- POWER_OFF: the flash alone keeps its contents. -/
def execPowerOff (s : State) : Out := event s (some (stoppedModule s s.sys.failed))

/-! ### The life of an owner (R14, R325, R337, R356, R368) -/

/-- The class binding of mailbox 0's pull classes 0 and 1, made by no kernel. -/
def pullClass : ClassBind := { entry := 0, word1 := 2, budget := 0, kid := 0 }

/-- The context of an owner at its attach to a core. -/
def newCtx (rank lscap : Nat) : Ctx :=
  { rank := rank, lscap := 0
    mbxs := if lscap = 0 then [] else [(0, inbox lscap)], classes := [(0, pullClass), (1, pullClass)] }

/-- The resident loop of an owner: a supervisor thread of no kernel, with TSTAT.in set (R144, R161, R368). -/
def residentLoop (w : OwnerSpec) : Thread :=
  { owner := w.id, sup := true, tin := true, wsz := w.loopWsz, vsz := w.loopVsz, prio := w.loopPrio, pc := w.loopEntry,
    resident := true }

/-- An owner attached to a core: its context, its sub-banks, TVEC, and its resident loop, which waits swapped out where
another owner runs. -/
def attachCore (w : OwnerSpec) (s : State) (p : Nat × Nat) : State :=
  let c := p.2
  let s := updCore s c fun k => { k with ctxs := Tab.set (newCtx p.1 w.lscap) k.ctxs w.id, tvec := w.tvec &&& csrRw 0x048 }
  let s := (List.range w.lscap).foldl (growOne w.id c) s
  let s := updCtxAt s c w.id fun x => { x with lscap := w.lscap }
  if (coreAt s c).active = 0 then claimSlot (updCore s c fun k => { k with active := w.id }) c 0 (residentLoop w)
  else
    let (u, s) := fresh s
    updCore s c fun k => { k with shadow := Tab.set [(0, { residentLoop w with st := .ready, uid := u })] k.shadow w.id }

/-- The owners that hold a position, whole or shared. -/
def holdersOf (s : State) (g : PosGrant) : List (Nat × Owner) :=
  s.owners.filter fun o => o.2.grants.any fun x => x.stack == g.stack && x.pos == g.pos

/-- A grant that R14, R262 and R333 allow: owners that share a position hold the same rank on each core, so their grants agree on
its layer. -/
def grantFits (s : State) (w : OwnerSpec) (g : PosGrant) : Bool :=
  let held := holdersOf s g
  g.stack < 4 && g.pos < 8 && g.layer0 < 4
    && (held == [] || (w.timeShare && held.length < 4 && held.all fun o => o.2.timeShare && o.2.grants.all fun x => x == g))
    && grantSum (coreAt s (512 * g.stack + 64 * g.pos)) + w.lscap ≤ goodSubs s g.stack

/-- No position is granted twice. -/
def distinctGrants : List PosGrant → Bool
  | [] => true
  | g :: gs => !(gs.any fun x => x.stack == g.stack && x.pos == g.pos) && distinctGrants gs

/-- What the control cores may create as an owner: a free ID, 1 to 16 positions, or a share of one (R14). -/
def ownerFits (s : State) (w : OwnerSpec) : Bool :=
  1 ≤ w.id && w.id ≤ 255 && (Tab.find s.owners w.id).isNone && 1 ≤ w.grants.length && w.grants.length ≤ 16
    && (!w.timeShare || w.grants.length == 1) && w.lscap ≤ 16 && distinctGrants w.grants && w.grants.all (grantFits s w)
    && codeAddress w.loopEntry && w.loopWsz != 3 && s.sys.power == .on

/-- The fields of PGROOT and SVROOT (R339). -/
def rootMask : Word := 0x3FFFFFFFFF000

/-- OWNER_CREATION (R368). The values of TVEC and UDELEG come from the control cores that create the owner: R161 gives both the
reset value 0 and no rule says who sets them before a supervisor thread runs (DESIGN CHOICE, assumption 76). -/
def execOwnerCreation (w : OwnerSpec) (s : State) : Out :=
  event s <|
    if ownerFits s w then
      let o : Owner := { grants := w.grants, timeShare := w.timeShare, pgroot := w.pgroot &&& rootMask,
                         svroot := w.svroot &&& rootMask, udeleg := w.udeleg &&& csrRw 0x044 }
      let s := { s with owners := Tab.set o s.owners w.id }
      some (((List.range (64 * w.grants.length)).map fun r => (r, rankCore o r)).foldl (attachCore w) s)
    else none

/-- An owner detached from a core: its threads freed, its sub-banks cleared and untagged, its context gone; ACCOWN stays (R244); the
core's next owner, if another shares it, comes by a swap. -/
def detachCore (o : Nat) (s : State) (c : Nat) : State :=
  let s := settleSubs s o c
  let subs := (coreAt s c).subs.filter fun b => b.2.tag != o
  updCore s c fun k => { k with
    subs := subs, ctxs := Tab.del k.ctxs o, recs := k.recs.filter fun e => e.owner != o
    xhold := k.xhold.filter fun h => h.owner != o
    mqueues := Tab.mapAll (fun _ q => q.filter fun m => m.owner != o) k.mqueues
    active := if k.active = o then 0 else k.active }

/-- A position withdrawn: the kernels placed on its groups Killed with cause 0x22, its threads freed, its cores detached. -/
def detachPos (s : State) (o pos : Nat) : State :=
  let cores := positionCores s o pos
  let s := killAll s o 0x22 fun k => k.groups.any fun g => g / 4 == pos
  cores.foldl (detachCore o) (freeOwner s o fun c => cores.contains c)

/-- OWNER_WITHDRAWAL: an owner, or its last position, so that the ranks left are 0 to 64P − 1 (R15, R356; the withdrawal
of a position: R309's life cycle of a group). -/
def execOwnerWithdrawal (o : Nat) (pos : Option Nat) (s : State) : Out :=
  event s <|
    let n := (ownerAt s o).grants.length
    if (Tab.find s.owners o).isNone then none
    else match pos with
      | some p =>
        if p + 1 = n ∧ 2 ≤ n then
          some (updOwnerAt (detachPos s o p) o fun w => { w with grants := w.grants.take p })
        else none
      | none =>
        let s := killAll (deregisterAll s o) o 0x22 fun _ => true
        let s := (List.range n).foldl (fun s p => detachPos s o p) s
        let bar2 := s.sys.bar2.filter fun b => b.2.owner != o
        some { s with owners := Tab.del s.owners o, sys := { s.sys with bar2 := bar2 }
                      xfers := s.xfers.filter fun x => x.req.owner != o }

end Sys2Proof.Machine
end

