-- ==== Sys2Proof/Machine/Manage.lean ====
section
/-! DEFINITION. Background work and the management block: the rake, power and caps, device time, and registers written by
the control cores (R316, R320 to R322, R334, R341, R353, R364, R365, R375, R380 to R383). -/

namespace Sys2Proof.Machine

/-! ### The rake (R334, R336, R380) -/

/-- SCRUB: memory here holds what every access sees, so the correction written back is the byte that stands there, and
only the error is counted (R380). -/
def execScrub (addr : Nat) (read corrected : Byte) (s : State) : Out :=
  event s <|
    if read ≠ corrected ∧ isLs addr = true ∧ homeByte s addr = corrected then some (countError s addr) else none

/-- ZERO_FILL: every invalid line of a sub-bank holds zeros and is valid (R334). -/
def execZeroFill (core sub : Nat) (s : State) : Out :=
  event s <|
    if sub < 16 then
      let lo := lsKey core sub 0
      let mem := s.mem.filter fun c => !(lo ≤ c.1 && c.1 < lo + Config.subBank && lineClear s c.1)
      some (updSub { s with mem := mem } core sub fun b => { b with valid := { dflt := true } })
    else none

/-! ### Power (R320, R321, R383) -/

/-- A duty one step lower, at the floor of 1/16. -/
def lowerDuty (s : State) (o : Nat) : State := updOwnerAt s o fun w => { w with duty := Nat.max 1 (w.duty - 1) }

/-- An owner lowered by a limit that binds it, with the limits recorded: 1 hall, 2 mod, 4 own, 8 th. -/
def limitOwner (s : State) (o : Nat) (bits : BitVec 5) : State :=
  lowerDuty (updOwnerAt (recordLimit s o bits) o fun w => { w with heldBy := w.heldBy ||| bits }) o

/-- The draw of an owner. -/
def drawOf (draw : List (Nat × Nat)) (o : Nat) : Nat := ((draw.find? fun d => d.1 == o).map Prod.snd).getD 0

/-- The module's budget: the lower of 4,200 W and the hall budget (R22, R383). -/
def budgetW (s : State) : Nat := if s.sys.hall = 0 then 4200 else Nat.min 4200 s.sys.hall

/-- The owner caps that the draw of an owner exceeds. -/
def capBits (s : State) (draw : List (Nat × Nat)) (p : Nat × Owner) : BitVec 5 :=
  let w := drawOf draw p.1
  let c := classCap s p.2
  (if c ≠ 0 ∧ c < w then 1 else 0) ||| (if p.2.capOwn ≠ 0 ∧ p.2.capOwn < w then 4 else 0)

/-- The highest-numbered class with an owner above the floor. -/
def victimClass (s : State) : Option Nat :=
  s.owners.foldl (fun m o => if o.2.duty ≤ 1 then m else some (match m with
    | some c => Nat.max c o.2.capCls
    | none => o.2.capCls)) none

/-- The owners held below no limit, and 2 % under their limits, one step higher. The limits that held a duty now back at 16 held the
owner in the interval in progress (R321). -/
def raiseDuty (draw : List (Nat × Nat)) (total : Nat) (held : List Nat) (s : State) (o : Nat) : State :=
  let w := ownerAt s o
  let l := smallestCap (classCap s w) w.capOwn
  let under (x lim : Nat) : Bool := 100 * x ≤ 98 * lim
  if !held.contains o && w.duty < 16 && (l = 0 || under (drawOf draw o) l) && under total (budgetW s) then
    updOwnerAt s o fun w =>
      if w.duty = 15 then { w with duty := 16, heldBy := 0, thrNow := w.thrNow ||| w.heldBy } else { w with duty := w.duty + 1 }
  else s

/-- What a measurement does: the draws of the owners (0 for the rest of the module) and the stacks at 105 °C (R383). -/
def measurePower (draw : List (Nat × Nat)) (hot : List Nat) (s : State) : State :=
    let s := { s with owners := Tab.mapAll (fun _ o => { o with cap := capInForce s o }) s.owners }
    let total := draw.foldl (fun n d => n + d.2) 0
    let capped := s.owners.filter fun (p : Nat × Owner) => capBits s draw p != 0
    let s := capped.foldl (fun s p => limitOwner s p.1 (capBits s draw p)) s
    let excess := decide (budgetW s < total)
    let bits : BitVec 5 := (if s.sys.hall ≠ 0 ∧ s.sys.hall ≤ 4200 then 1 else 0) |||
      (if s.sys.hall = 0 ∨ 4200 ≤ s.sys.hall then 2 else 0)
    let victims := match (if excess then victimClass s else none) with
      | some c => (s.owners.filter fun (p : Nat × Owner) => p.2.capCls == c).map Prod.fst
      | none => []
    let s := victims.foldl (fun s o => limitOwner s o bits) s
    let warm := (s.owners.filter fun (p : Nat × Owner) => p.2.grants.any fun g => hot.contains g.stack).map Prod.fst
    let s := warm.foldl (fun s o => limitOwner s o 8) s
    (s.owners.map Prod.fst).foldl (raiseDuty draw total (capped.map Prod.fst ++ victims ++ warm)) s

/-- POWER_MEASUREMENT: once in each 10-µs interval (R383). -/
def execPowerMeasurement (draw : List (Nat × Nat)) (hot : List Nat) (s : State) : Out :=
  event s <|
    if s.sys.power == .on && s.sys.measured != some (s.cycle / intervalClk) then
      some (measurePower draw hot (updSys s fun y => { y with measured := some (s.cycle / intervalClk) }))
    else none

/-- A big-endian field of a frame. -/
def frameField (f : List Byte) (off n : Nat) : Nat := Sha.ofBe ((f.drop off).take n)

/-- A cap frame is accepted: its selector, its sequence, its tag (R382). -/
def frameGood (y : Sys) (f : List Byte) : Bool :=
  f.length == 64 && (frameField f 0 4 == y.modNo.toNat || frameField f 0 4 == 0xFFFFFFFF) && y.capSeq < frameField f 4 8
    && y.capKey.any fun key => (Sha.hmac key (f.take 48)).take 16 == f.drop 48

/-- CAP_FRAME: a frame of another EtherType is no cap frame (R382). -/
def execCapFrame (etherType : BitVec 16) (frame : List Byte) (s : State) : Out :=
  event s <| if etherType ≠ 0x88B5 then none else some <| updSys s fun y =>
    if frameGood y frame then
      { y with
        capSeq := frameField frame 4 8, hall := frameField frame 12 4
        classCaps := (List.range 16).map fun i => (i, frameField frame (16 + 2 * i) 2) }
    else { y with dropped := y.dropped + 1 }

/-! ### Device time (R381) -/

/-- TIME moved towards the master's by a correction: above 1 ms forward it steps, any other is slewed (R381). A step makes the
time stamps of the last Sync those of another scale. -/
def correctTime (d : Int) (s : State) : State :=
  if 165000 * 1000000 < d then
    updSys { s with timeU := s.timeU + d.toNat, slew := 0 } fun y => { y with ptpClock := { y.ptpClock with gap := none } }
  else { s with slew := d }

/-- A Sync whose arrival and origin are known: the slave is locked, and its offset is arrival minus origin minus path delay. -/
def synced (arrival origin : Nat) (s : State) : State :=
  let gap : Int := arrival - 165000 * (origin : Int)
  correctTime (s.sys.ptpClock.delay - gap)
    (updSys s fun y => { y with ptp := 0, ptpClock := { y.ptpClock with arrived := none, gap := some gap } })

/-- A message of IEEE 1588 with the end-to-end delay mechanism: a one-step Sync, a two-step Sync and its follow-up, the slave's
delay request, and the answer, which gives the mean path delay (R381; the standard's formulas, PRESUMED, assumption 79). -/
def ptpTakes (b : PtpBody) (s : State) : State :=
  let k := s.sys.ptpClock
  let put (f : PtpClock → PtpClock) : State := updSys s fun y => { y with ptpClock := f y.ptpClock }
  match b with
  | .sync (some origin) => synced s.timeU origin s
  | .sync none => put fun k => { k with arrived := some s.timeU }
  | .followUp origin => match k.arrived with
    | some a => synced a origin s
    | none => s
  | .delayReq => put fun k => { k with asked := some s.timeU }
  | .delayResp received => match k.gap, k.asked with
    | some gap, some sent => put fun k => { k with asked := none, delay := (gap + (165000 * (received : Int) - sent)) / 2 }
    | _, _ => s

/-- PTP_MESSAGE: a message of another domain than the configuration record's is not heard (R381). -/
def execPtpMessage (m : PtpMessage) (s : State) : Out :=
  event s (if s.sys.ptpDomain = some m.domain && s.sys.power != .off then some (ptpTakes m.body s) else none)

/-- HOLDOVER: no master is heard any more. -/
def execHoldover (s : State) : Out :=
  event s (if s.sys.ptp = 0 then some (updSys s fun y => { y with ptp := 1 }) else none)

/-! ### Registers written by the control cores -/

/-- ARBW's stored value: a weight of 0 is stored as 1 (R316). -/
def storedArbw (w : Word) : Word :=
  (List.range 8).foldl (fun x c => x ||| place (if field w (6 * c) 6 = 0 then 1 else field w (6 * c) 6) (6 * c)) 0

/-- A stack's ROTCFG written: from en 0 to 1 the grid starts afresh at this CYCLE; while en is 0 an interval takes effect
at once; else from the due point after the next (R341). -/
def setRotcfg (s : State) (n : Nat) (en : Bool) (ivl : Nat) : State :=
  updStackAt s n fun k =>
    if en && !k.rotEn then { k with rotEn := true, ivl := ivl, due := s.cycle + msClk ivl + n * (msClk ivl / 4) }
    else { k with rotEn := en, ivl := ivl }

/-- MANAGEMENT_WRITE, and the control cores' reading of the trace buffer, which no other thread can read (R376): ROTCFG.en may be 0
in the Manufacturing state only, and its interval lies from 8 to 512 ms (R353, R375); a BAR2 slot is mapped on a 1 GiB-aligned
range of an owner's user space (R365); the ready record ends a start that is under way (R370). -/
def execManagementWrite (reg : MgmtReg) (s : State) : Out :=
  event s <| match reg with
    | .arbw out v => some { s with outs := Tab.set { Tab.get {} s.outs out with arbw := storedArbw v } s.outs out }
    | .rotcfg n en ivl =>
      if n < 4 ∧ (en ∨ s.sys.sec = 2) ∧ 8 ≤ ivl.toNat ∧ ivl.toNat ≤ 512 then some (setRotcfg s n en ivl.toNat) else none
    | .arcdom o d => if (Tab.find s.owners o).isSome then some (updOwnerAt s o fun w => { w with dom := d }) else none
    | .module m => some (updSys s fun y => { y with modNo := m })
    | .bar2 slot o base =>
      if slot < bar2Slots ∧ (Tab.find s.owners o).isSome ∧ base % 2 ^ 30 = 0 ∧ base < 2 ^ 52 then
        some (updSys s fun y => { y with bar2 := Tab.set ⟨o, base⟩ y.bar2 slot })
      else none
    | .bar2Unmap slot => some (updSys s fun y => { y with bar2 := Tab.del y.bar2 slot })
    | .consent o b => if (Tab.find s.owners o).isSome then some (updOwnerAt s o fun w => { w with consent := b }) else none
    | .readyRecord => if starting s.sys then some (updSys s fun y => { y with ready := true, failed := 0 }) else none
    | .traceFlush => some (updSys s fun y => { y with trace := [] })
    | .traceRead n => (s.sys.trace[n]?).map fun r => updSys s fun y => { y with traceRead := some r }

end Sys2Proof.Machine
end

