-- ==== Sys2Proof/Machine/MulDiv.lean ====
section
/-! DEFINITION. Multiplication, division and bit operations (R77 to R79). -/

namespace Sys2Proof.Machine

/-- Bits [127:64] of a product. -/
def highWord (x : Int) : Word := BitVec.ofInt 64 (x / 2 ^ 64)

/-- The quotient of DIV: −1 for a zero divisor, −2^63 for the one overflow, else rounded toward zero (R77). -/
def divSigned (w : Nat) (x y : Int) : Int :=
  if y = 0 then -1 else if x = -(2 ^ (w - 1)) ∧ y = -1 then -(2 ^ (w - 1)) else Int.tdiv x y

/-- The remainder of REM: the dividend for a zero divisor, 0 for the one overflow (R77). -/
def remSigned (w : Nat) (x y : Int) : Int :=
  if y = 0 then x else if x = -(2 ^ (w - 1)) ∧ y = -1 then 0 else x - y * Int.tdiv x y

/-- MUL: (a × b)[63:0] (R77). -/
def execMul (d a b : BitVec 6) (s : State) : Out := alu (.mul d a b) d a b (fun a b => a * b) s

/-- MULH: (s(a) × s(b))[127:64] (R77). -/
def execMulh (d a b : BitVec 6) (s : State) : Out := alu (.mulh d a b) d a b (fun a b => highWord (a.toInt * b.toInt)) s

/-- MULHU: (a × b)[127:64], both unsigned (R77). -/
def execMulhu (d a b : BitVec 6) (s : State) : Out := alu (.mulhu d a b) d a b (fun a b => highWord (a.toNat * b.toNat)) s

/-- MULHM: (s(a) × b)[127:64], a signed, b unsigned (R77). -/
def execMulhm (d a b : BitVec 6) (s : State) : Out := alu (.mulhm d a b) d a b (fun a b => highWord (a.toInt * b.toNat)) s

/-- DIV: the signed quotient (R77). -/
def execDiv (d a b : BitVec 6) (s : State) : Out := alu (.div d a b) d a b (fun a b => BitVec.ofInt 64 (divSigned 64 a.toInt b.toInt)) s

/-- DIVU: the unsigned quotient, all ones for a zero divisor (R77). -/
def execDivu (d a b : BitVec 6) (s : State) : Out := alu (.divu d a b) d a b (fun a b => if b = 0 then BitVec.allOnes 64 else BitVec.ofNat 64 (a.toNat / b.toNat)) s

/-- REM: the signed remainder (R77). -/
def execRem (d a b : BitVec 6) (s : State) : Out := alu (.rem d a b) d a b (fun a b => BitVec.ofInt 64 (remSigned 64 a.toInt b.toInt)) s

/-- REMU: the unsigned remainder, the dividend for a zero divisor (R77). -/
def execRemu (d a b : BitVec 6) (s : State) : Out := alu (.remu d a b) d a b (fun a b => if b = 0 then a else BitVec.ofNat 64 (a.toNat % b.toNat)) s

/-- MULW: sx32(a[31:0] × b[31:0]) (R77). -/
def execMulw (d a b : BitVec 6) (s : State) : Out := alu (.mulw d a b) d a b (fun a b => sx (low32 a * low32 b)) s

/-- DIVW: the signed quotient of the low words (R77). -/
def execDivw (d a b : BitVec 6) (s : State) : Out := alu (.divw d a b) d a b (fun a b => sx (BitVec.ofInt 32 (divSigned 32 (low32 a).toInt (low32 b).toInt))) s

/-- REMW: the signed remainder of the low words (R77). -/
def execRemw (d a b : BitVec 6) (s : State) : Out := alu (.remw d a b) d a b (fun a b => sx (BitVec.ofInt 32 (remSigned 32 (low32 a).toInt (low32 b).toInt))) s

/-- Zero bits above the highest 1; 64 for zero (R78). -/
def countLead (x : Word) : Word := if x = 0 then 64 else BitVec.ofNat 64 (63 - Nat.log2 x.toNat)

/-- Zero bits below the lowest 1 of the low `n` bits, `n` when there is none. -/
def trailFrom (x : Nat) : Nat → Nat
  | 0 => 0
  | n + 1 => if x % 2 = 1 then 0 else 1 + trailFrom (x / 2) n

/-- Zero bits below the lowest 1; 64 for zero (R78). -/
def countTrail (x : Word) : Word := BitVec.ofNat 64 (trailFrom x.toNat 64)

/-- The 1 bits among the low `n`. -/
def onesFrom (x : Nat) : Nat → Nat
  | 0 => 0
  | n + 1 => x % 2 + onesFrom (x / 2) n

/-- The number of 1 bits (R78). -/
def popCount (x : Word) : Word := BitVec.ofNat 64 (onesFrom x.toNat 64)

/-- The eight bytes in reverse order (R78). -/
def swapBytes (x : Word) : Word := BitVec.ofNat 64 (ofLeBytes (leBytes 8 x.toNat).reverse)

/-- p and w of the field that b describes (R79). -/
def fieldPos (b : Word) : Nat := field b 0 6
def fieldWidth (b : Word) : Nat := min (field b 8 6 + 1) (64 - fieldPos b)

/-- CLZ (R78). -/
def execClz (d a : BitVec 6) (s : State) : Out := aluImm (.clz d a) d a (fun x => countLead x) s

/-- CTZ (R78). -/
def execCtz (d a : BitVec 6) (s : State) : Out := aluImm (.ctz d a) d a (fun x => countTrail x) s

/-- POPC (R78). -/
def execPopc (d a : BitVec 6) (s : State) : Out := aluImm (.popc d a) d a (fun x => popCount x) s

/-- BSWAP (R78). -/
def execBswap (d a : BitVec 6) (s : State) : Out := aluImm (.bswap d a) d a (fun x => swapBytes x) s

/-- SEL: a when the old g[rd] is nonzero, else b (R78). -/
def execSel (d a b : BitVec 6) (s : State) : Out :=
  instr (.sel d a b) {} [G d, G a, G b] [] s fun s => .ok none (wg s d (if rg s d = 0 then rg s b else rg s a))

/-- EXT: the field sign-extended (R79). -/
def execExt (d a b : BitVec 6) (s : State) : Out :=
  alu (.ext d a b) d a b (fun a b => sx (a.extractLsb' (fieldPos b) (fieldWidth b))) s

/-- EXTU: the field zero-extended (R79). -/
def execExtu (d a b : BitVec 6) (s : State) : Out :=
  alu (.extu d a b) d a b (fun a b => zx (a.extractLsb' (fieldPos b) (fieldWidth b))) s

/-- The mask of the field that b describes. -/
def fieldMask (b : Word) : Word := BitVec.ofNat 64 ((2 ^ fieldWidth b - 1) * 2 ^ fieldPos b)

/-- INS: old g[rd] with the field replaced by the low bits of a (R79). -/
def execIns (d a b : BitVec 6) (s : State) : Out :=
  instr (.ins d a b) {} [G d, G a, G b] [] s fun s =>
    let m := fieldMask (rg s b)
    .ok none (wg s d ((rg s d &&& ~~~m) ||| ((rg s a <<< fieldPos (rg s b)) &&& m)))

end Sys2Proof.Machine
end

