-- ==== Sys2Proof/Machine/Pointer.lean ====
section
/-! DEFINITION. Pointer instructions (R111, R112) and relative registers (R81). -/

namespace Sys2Proof.Machine

/-- move(x) of R111: the address moved, the tag kept; a carry or borrow raises TAG. -/
def movePtr (d : BitVec 6) (a : Word) (x : Int) (s : State) : Act (Option Word) :=
  let t := (ptrAddr a : Int) + x
  if t < 0 ∨ t ≥ 2 ^ 52 then .trap Cause.tag a s
  else .ok none (wg s d (a.extractLsb' 52 12 ++ BitVec.ofInt 52 t))

/-- A pointer instruction of two registers. -/
def ptr (i : Instr) (d a b : BitVec 6) (s : State) (f : Word → Word → State → Act (Option Word)) : Out :=
  instr i {} [G d, G a, G b] [] s fun s => f (rg s a) (rg s b) s

/-- PADD: move(s(b)) (R111). -/
def execPadd (d a b : BitVec 6) (s : State) : Out := ptr (.padd d a b) d a b s fun a b => movePtr d a b.toInt

/-- PSUB: move(−s(b)) (R111). -/
def execPsub (d a b : BitVec 6) (s : State) : Out := ptr (.psub d a b) d a b s fun a b => movePtr d a (-b.toInt)

/-- PTAG: the tag packed in b[9:0] over the address of a (R111). -/
def execPtag (d a b : BitVec 6) (s : State) : Out := ptr (.ptag d a b) d a b s fun a b s =>
  let p : Word := b.extractLsb' 0 6 ++ b.extractLsb' 6 4 ++ 0#2 ++ a.extractLsb' 0 52
  if wellFormed p then .ok none (wg s d p) else .trap Cause.tag p s

/-- PGTAG: fmt in [5:0], blen in [9:6] (R111). -/
def execPgtag (d a : BitVec 6) (s : State) : Out :=
  aluImm (.pgtag d a) d a (fun a => zx (a.extractLsb' 54 4 ++ a.extractLsb' 58 6 : BitVec 10)) s

/-- PIDX: move(s(b) × the element's bytes); TAG for ECF8 or a reserved format (R111). -/
def execPidx (d a b : BitVec 6) (s : State) : Out := ptr (.pidx d a b) d a b s fun a b s =>
  if fmtBits (ptrFmt a) = 0 then .trap Cause.tag a s else movePtr d a (b.toInt * (fmtBits (ptrFmt a) / 8 : Nat)) s

/-- PBLK: move(s(b) × 2^blen) for BSI8 and BSE4M3; TAG for any other format (R111). -/
def execPblk (d a b : BitVec 6) (s : State) : Out := ptr (.pblk d a b) d a b s fun a b s =>
  if ptrFmt a = 0x18 ∨ ptrFmt a = 0x19 then movePtr d a (b.toInt * 2 ^ ptrBlen a) s else .trap Cause.tag a s

/-- The element width that PCHK tests alignment by: 8 bytes for ECF8, none for a reserved format (R111). -/
def chkWidth (f : Nat) : Option Nat := if f = 0x14 then some 8 else if fmtBits f = 0 then none else some (fmtBits f / 8)

/-- PCHK: c0 well-formed, c1 fmt = b[5:0], c2 aligned to the element width (R111). -/
def execPchk (d a b : BitVec 6) (s : State) : Out := alu (.pchk d a b) d a b (fun a b =>
  bit (wellFormed a) ||| (bit (ptrFmt a == field b 0 6) <<< 1) |||
    (bit (match chkWidth (ptrFmt a) with | some w => ptrAddr a % w == 0 | none => false) <<< 2)) s

/-- PADDI: move(sx(imm13)) (R112). -/
def execPaddi (d a : BitVec 6) (i : BitVec 13) (s : State) : Out :=
  instr (.paddi d a i) {} [G d, G a] [] s fun s => movePtr d (rg s a) i.toInt s

/-- e of R81: the base register number plus the unsigned index register. -/
def relIndex (s : State) (a : BitVec 6) (k : BitVec 2) : Nat := a.toNat + ((thr s).getIx k.toNat).toNat

/-- The REGBOUND value of an index beyond the window (R81). -/
def relBound (e : Nat) : Word := BitVec.ofNat 64 (min e 255)

/-- RGET: g[rd] ← g[e] (R81). -/
def execRget (d a : BitVec 6) (k : BitVec 2) (s : State) : Out :=
  instr (.rget d a k) {} [G d] [] s fun s =>
    let e := relIndex s a k
    if windowSize (thr s).wsz ≤ e then .trap Cause.regbound (relBound e) s
    else if hazard (thr s) [.g e] then .leave s
    else .ok none (wg s d ((thr s).getG e))

/-- RPUT: g[e] ← g[rd] (R81). -/
def execRput (d a : BitVec 6) (k : BitVec 2) (s : State) : Out :=
  instr (.rput d a k) {} [G d] [] s fun s =>
    let e := relIndex s a k
    if windowSize (thr s).wsz ≤ e then .trap Cause.regbound (relBound e) s
    else if hazard (thr s) [.g e] then .leave s
    else .ok none (wgn s e (rg s d))

/-- IXSET: ix[k] ← a (R81). -/
def execIxset (a : BitVec 6) (k : BitVec 2) (s : State) : Out :=
  instr (.ixset a k) {} [G a] [] s fun s => .ok none (updThr s fun t => t.setIx k.toNat (t.getG a.toNat))

/-- IXADD: ix[k] ← ix[k] + a, wrapping (R81). -/
def execIxadd (a : BitVec 6) (k : BitVec 2) (s : State) : Out :=
  instr (.ixadd a k) {} [G a] [] s fun s =>
    .ok none (updThr s fun t => t.setIx k.toNat (t.getIx k.toNat + t.getG a.toNat))

/-- IXGET: g[rd] ← ix[k] (R81). -/
def execIxget (d : BitVec 6) (k : BitVec 2) (s : State) : Out :=
  instr (.ixget d k) {} [G d] [] s fun s => .ok none (wg s d ((thr s).getIx k.toNat))

end Sys2Proof.Machine
end

