-- ==== Sys2Proof/Machine/Dispatch.lean ====
section
/-! DEFINITION. The dispatch: one arm per constructor of `Instr`, each one call of that instruction's own meaning. -/

namespace Sys2Proof.Machine

/-- What an instruction or an event does. -/
def exec (i : Instr) (s : State) : Host.Outcome State Fault Refusal :=
  match i with
  | .add d a b => Sys2Proof.Machine.execAdd d a b s
  | .sub d a b => Sys2Proof.Machine.execSub d a b s
  | .and d a b => Sys2Proof.Machine.execAnd d a b s
  | .or d a b => Sys2Proof.Machine.execOr d a b s
  | .xor d a b => Sys2Proof.Machine.execXor d a b s
  | .andn d a b => Sys2Proof.Machine.execAndn d a b s
  | .orn d a b => Sys2Proof.Machine.execOrn d a b s
  | .xnor d a b => Sys2Proof.Machine.execXnor d a b s
  | .sll d a b => Sys2Proof.Machine.execSll d a b s
  | .srl d a b => Sys2Proof.Machine.execSrl d a b s
  | .sra d a b => Sys2Proof.Machine.execSra d a b s
  | .rot d a b => Sys2Proof.Machine.execRot d a b s
  | .slt d a b => Sys2Proof.Machine.execSlt d a b s
  | .sltu d a b => Sys2Proof.Machine.execSltu d a b s
  | .min d a b => Sys2Proof.Machine.execMin d a b s
  | .max d a b => Sys2Proof.Machine.execMax d a b s
  | .minu d a b => Sys2Proof.Machine.execMinu d a b s
  | .maxu d a b => Sys2Proof.Machine.execMaxu d a b s
  | .addw d a b => Sys2Proof.Machine.execAddw d a b s
  | .subw d a b => Sys2Proof.Machine.execSubw d a b s
  | .adds d a b => Sys2Proof.Machine.execAdds d a b s
  | .subs d a b => Sys2Proof.Machine.execSubs d a b s
  | .sllw d a b => Sys2Proof.Machine.execSllw d a b s
  | .srlw d a b => Sys2Proof.Machine.execSrlw d a b s
  | .sraw d a b => Sys2Proof.Machine.execSraw d a b s
  | .addi d a n => Sys2Proof.Machine.execAddi d a n s
  | .andi d a n => Sys2Proof.Machine.execAndi d a n s
  | .ori d a n => Sys2Proof.Machine.execOri d a n s
  | .xori d a n => Sys2Proof.Machine.execXori d a n s
  | .slli d a h => Sys2Proof.Machine.execSlli d a h s
  | .srli d a h => Sys2Proof.Machine.execSrli d a h s
  | .srai d a h => Sys2Proof.Machine.execSrai d a h s
  | .roti d a h => Sys2Proof.Machine.execRoti d a h s
  | .slti d a n => Sys2Proof.Machine.execSlti d a n s
  | .sltiu d a n => Sys2Proof.Machine.execSltiu d a n s
  | .mul d a b => Sys2Proof.Machine.execMul d a b s
  | .mulh d a b => Sys2Proof.Machine.execMulh d a b s
  | .mulhu d a b => Sys2Proof.Machine.execMulhu d a b s
  | .mulhm d a b => Sys2Proof.Machine.execMulhm d a b s
  | .div d a b => Sys2Proof.Machine.execDiv d a b s
  | .divu d a b => Sys2Proof.Machine.execDivu d a b s
  | .rem d a b => Sys2Proof.Machine.execRem d a b s
  | .remu d a b => Sys2Proof.Machine.execRemu d a b s
  | .mulw d a b => Sys2Proof.Machine.execMulw d a b s
  | .divw d a b => Sys2Proof.Machine.execDivw d a b s
  | .remw d a b => Sys2Proof.Machine.execRemw d a b s
  | .clz d a => Sys2Proof.Machine.execClz d a s
  | .ctz d a => Sys2Proof.Machine.execCtz d a s
  | .popc d a => Sys2Proof.Machine.execPopc d a s
  | .bswap d a => Sys2Proof.Machine.execBswap d a s
  | .sel d a b => Sys2Proof.Machine.execSel d a b s
  | .ext d a b => Sys2Proof.Machine.execExt d a b s
  | .extu d a b => Sys2Proof.Machine.execExtu d a b s
  | .ins d a b => Sys2Proof.Machine.execIns d a b s
  | .lui d n => Sys2Proof.Machine.execLui d n s
  | .addpc d n => Sys2Proof.Machine.execAddpc d n s
  | .padd d a b => Sys2Proof.Machine.execPadd d a b s
  | .psub d a b => Sys2Proof.Machine.execPsub d a b s
  | .ptag d a b => Sys2Proof.Machine.execPtag d a b s
  | .pgtag d a => Sys2Proof.Machine.execPgtag d a s
  | .pidx d a b => Sys2Proof.Machine.execPidx d a b s
  | .pblk d a b => Sys2Proof.Machine.execPblk d a b s
  | .pchk d a b => Sys2Proof.Machine.execPchk d a b s
  | .paddi d a n => Sys2Proof.Machine.execPaddi d a n s
  | .rget d a k => Sys2Proof.Machine.execRget d a k s
  | .rput d a k => Sys2Proof.Machine.execRput d a k s
  | .ixset a k => Sys2Proof.Machine.execIxset a k s
  | .ixadd a k => Sys2Proof.Machine.execIxadd a k s
  | .ixget d k => Sys2Proof.Machine.execIxget d k s
  | .fadd d a b w => Sys2Proof.Machine.execFadd d a b w s
  | .fsub d a b w => Sys2Proof.Machine.execFsub d a b w s
  | .fmul d a b w => Sys2Proof.Machine.execFmul d a b w s
  | .fdiv d a b w => Sys2Proof.Machine.execFdiv d a b w s
  | .fsqrt d a w => Sys2Proof.Machine.execFsqrt d a w s
  | .fmin d a b w => Sys2Proof.Machine.execFmin d a b w s
  | .fmax d a b w => Sys2Proof.Machine.execFmax d a b w s
  | .fscpy d a b w => Sys2Proof.Machine.execFscpy d a b w s
  | .fsinv d a b w => Sys2Proof.Machine.execFsinv d a b w s
  | .fsxor d a b w => Sys2Proof.Machine.execFsxor d a b w s
  | .feq d a b w => Sys2Proof.Machine.execFeq d a b w s
  | .flt d a b w => Sys2Proof.Machine.execFlt d a b w s
  | .fle d a b w => Sys2Proof.Machine.execFle d a b w s
  | .fkind d a w => Sys2Proof.Machine.execFkind d a w s
  | .fcvt d a r u e z => Sys2Proof.Machine.execFcvt d a r u e z s
  | .ffma d a b w c => Sys2Proof.Machine.execFfma d a b w c s
  | .beq a b o => Sys2Proof.Machine.execBeq a b o s
  | .bne a b o => Sys2Proof.Machine.execBne a b o s
  | .blt a b o => Sys2Proof.Machine.execBlt a b o s
  | .bge a b o => Sys2Proof.Machine.execBge a b o s
  | .bltu a b o => Sys2Proof.Machine.execBltu a b o s
  | .bgeu a b o => Sys2Proof.Machine.execBgeu a b o s
  | .j o => Sys2Proof.Machine.execJ o s
  | .jal o => Sys2Proof.Machine.execJal o s
  | .jalr d a n => Sys2Proof.Machine.execJalr d a n s
  | .loop a b o => Sys2Proof.Machine.execLoop a b o s
  | .ld d a z m o => Sys2Proof.Machine.execLd d a z m o s
  | .ldu d a z m o => Sys2Proof.Machine.execLdu d a z m o s
  | .st d a z m o => Sys2Proof.Machine.execSt d a z m o s
  | .ldx d a b m z => Sys2Proof.Machine.execLdx d a b m z s
  | .ldux d a b m z => Sys2Proof.Machine.execLdux d a b m z s
  | .stx d a b m z => Sys2Proof.Machine.execStx d a b m z s
  | .pst d a z m o => Sys2Proof.Machine.execPst d a z m o s
  | .pref h a o => Sys2Proof.Machine.execPref h a o s
  | .ldv d a m o => Sys2Proof.Machine.execLdv d a m o s
  | .stv d a m o => Sys2Proof.Machine.execStv d a m o s
  | .vlds d a b z m => Sys2Proof.Machine.execVlds d a b z m s
  | .vsts d a b z m => Sys2Proof.Machine.execVsts d a b z m s
  | .vgath d a b z m => Sys2Proof.Machine.execVgath d a b z m s
  | .vscat d a b z m => Sys2Proof.Machine.execVscat d a b z m s
  | .vldb d a z m => Sys2Proof.Machine.execVldb d a z m s
  | .amoadd d a b z o => Sys2Proof.Machine.execAmoadd d a b z o s
  | .amoand d a b z o => Sys2Proof.Machine.execAmoand d a b z o s
  | .amoor d a b z o => Sys2Proof.Machine.execAmoor d a b z o s
  | .amoxor d a b z o => Sys2Proof.Machine.execAmoxor d a b z o s
  | .amomin d a b z o => Sys2Proof.Machine.execAmomin d a b z o s
  | .amomax d a b z o => Sys2Proof.Machine.execAmomax d a b z o s
  | .amoswp d a b z o => Sys2Proof.Machine.execAmoswp d a b z o s
  | .amofadd d a b z o => Sys2Proof.Machine.execAmofadd d a b z o s
  | .cas d a b o z => Sys2Proof.Machine.execCas d a b o z s
  | .cas2 d a b o => Sys2Proof.Machine.execCas2 d a b o s
  | .fence z k => Sys2Proof.Machine.execFence z k s
  | .vadd d a b z => Sys2Proof.Machine.execVadd d a b z s
  | .vsub d a b z => Sys2Proof.Machine.execVsub d a b z s
  | .vmul d a b z => Sys2Proof.Machine.execVmul d a b z s
  | .vmulh d a b z => Sys2Proof.Machine.execVmulh d a b z s
  | .vand d a b z => Sys2Proof.Machine.execVand d a b z s
  | .vor d a b z => Sys2Proof.Machine.execVor d a b z s
  | .vxor d a b z => Sys2Proof.Machine.execVxor d a b z s
  | .vsll d a b z => Sys2Proof.Machine.execVsll d a b z s
  | .vsrl d a b z => Sys2Proof.Machine.execVsrl d a b z s
  | .vsra d a b z => Sys2Proof.Machine.execVsra d a b z s
  | .vmin d a b z => Sys2Proof.Machine.execVmin d a b z s
  | .vmax d a b z => Sys2Proof.Machine.execVmax d a b z s
  | .vminu d a b z => Sys2Proof.Machine.execVminu d a b z s
  | .vmaxu d a b z => Sys2Proof.Machine.execVmaxu d a b z s
  | .vadds d a b z => Sys2Proof.Machine.execVadds d a b z s
  | .vsubs d a b z => Sys2Proof.Machine.execVsubs d a b z s
  | .vabsd d a b z => Sys2Proof.Machine.execVabsd d a b z s
  | .vdot4 d a b => Sys2Proof.Machine.execVdot4 d a b s
  | .vfadd d a b t => Sys2Proof.Machine.execVfadd d a b t s
  | .vfsub d a b t => Sys2Proof.Machine.execVfsub d a b t s
  | .vfmul d a b t => Sys2Proof.Machine.execVfmul d a b t s
  | .vfmin d a b t => Sys2Proof.Machine.execVfmin d a b t s
  | .vfmax d a b t => Sys2Proof.Machine.execVfmax d a b t s
  | .vfabs d a t => Sys2Proof.Machine.execVfabs d a t s
  | .vfneg d a t => Sys2Proof.Machine.execVfneg d a t s
  | .vfdiv d a b t => Sys2Proof.Machine.execVfdiv d a b t s
  | .vfma d a b f c => Sys2Proof.Machine.execVfma d a b f c s
  | .vcvt d a r u p => Sys2Proof.Machine.execVcvt d a r u p s
  | .vqnt d a b k r => Sys2Proof.Machine.execVqnt d a b k r s
  | .vdqnt d a b k => Sys2Proof.Machine.execVdqnt d a b k s
  | .vecfd d a k m => Sys2Proof.Machine.execVecfd d a k m s
  | .vecfe d a k m => Sys2Proof.Machine.execVecfe d a k m s
  | .vbcast d a z => Sys2Proof.Machine.execVbcast d a z s
  | .vmovgv d a b z => Sys2Proof.Machine.execVmovgv d a b z s
  | .vmovvg d a b z => Sys2Proof.Machine.execVmovvg d a b z s
  | .vperm d a b => Sys2Proof.Machine.execVperm d a b s
  | .vred d a z o => Sys2Proof.Machine.execVred d a z o s
  | .vslide d a b z => Sys2Proof.Machine.execVslide d a b z s
  | .vsel d a b z m => Sys2Proof.Machine.execVsel d a b z m s
  | .vrcp d a t => Sys2Proof.Machine.execVrcp d a t s
  | .vrsq d a t => Sys2Proof.Machine.execVrsq d a t s
  | .vexp2 d a t => Sys2Proof.Machine.execVexp2 d a t s
  | .vlog2 d a t => Sys2Proof.Machine.execVlog2 d a t s
  | .vtanh d a t => Sys2Proof.Machine.execVtanh d a t s
  | .vcmp m c a b t => Sys2Proof.Machine.execVcmp m c a b t s
  | .mand d a b => Sys2Proof.Machine.execMand d a b s
  | .mor d a b => Sys2Proof.Machine.execMor d a b s
  | .mxor d a b => Sys2Proof.Machine.execMxor d a b s
  | .mnot d a => Sys2Proof.Machine.execMnot d a s
  | .mcnt d a x => Sys2Proof.Machine.execMcnt d a x s
  | .mset d a => Sys2Proof.Machine.execMset d a s
  | .gang d a => Sys2Proof.Machine.execGang d a s
  | .xchg d a z => Sys2Proof.Machine.execXchg d a z s
  | .gbcast d a v => Sys2Proof.Machine.execGbcast d a v s
  | .gstat d a => Sys2Proof.Machine.execGstat d a s
  | .mpush d a => Sys2Proof.Machine.execMpush d a s
  | .mpop d => Sys2Proof.Machine.execMpop d s
  | .mwait d a => Sys2Proof.Machine.execMwait d a s
  | .mstat d a => Sys2Proof.Machine.execMstat d a s
  | .msplit a => Sys2Proof.Machine.execMsplit a s
  | .rgdef a k => Sys2Proof.Machine.execRgdef a k s
  | .rgpush a k => Sys2Proof.Machine.execRgpush a k s
  | .rgstat d k => Sys2Proof.Machine.execRgstat d k s
  | .rgrst k => Sys2Proof.Machine.execRgrst k s
  | .qpush a n => Sys2Proof.Machine.execQpush a n s
  | .qpop d n => Sys2Proof.Machine.execQpop d n s
  | .qpeek d n => Sys2Proof.Machine.execQpeek d n s
  | .qtry d a n => Sys2Proof.Machine.execQtry d a n s
  | .qtryp d a n => Sys2Proof.Machine.execQtryp d a n s
  | .qbind a n => Sys2Proof.Machine.execQbind a n s
  | .qstat d n => Sys2Proof.Machine.execQstat d n s
  | .sopen d a p => Sys2Proof.Machine.execSopen d a p s
  | .sclose p => Sys2Proof.Machine.execSclose p s
  | .sstat d p => Sys2Proof.Machine.execSstat d p s
  | .send d a => Sys2Proof.Machine.execSend d a s
  | .send4 d a => Sys2Proof.Machine.execSend4 d a s
  | .send1 d a => Sys2Proof.Machine.execSend1 d a s
  | .reply d a => Sys2Proof.Machine.execReply d a s
  | .mbxdef a b => Sys2Proof.Machine.execMbxdef a b s
  | .bind a b c => Sys2Proof.Machine.execBind a b c s
  | .unbind b c => Sys2Proof.Machine.execUnbind b c s
  | .suspend a => Sys2Proof.Machine.execSuspend a s
  | .resumec d a m => Sys2Proof.Machine.execResumec d a m s
  | .recv d b => Sys2Proof.Machine.execRecv d b s
  | .xfer d a => Sys2Proof.Machine.execXfer d a s
  | .xmcast d a => Sys2Proof.Machine.execXmcast d a s
  | .xfree a => Sys2Proof.Machine.execXfree a s
  | .xwait d a => Sys2Proof.Machine.execXwait d a s
  | .xstat d a => Sys2Proof.Machine.execXstat d a s
  | .rfork a => Sys2Proof.Machine.execRfork a s
  | .join a => Sys2Proof.Machine.execJoin a s
  | .klaunch d a => Sys2Proof.Machine.execKlaunch d a s
  | .kstat d a => Sys2Proof.Machine.execKstat d a s
  | .dlget d a => Sys2Proof.Machine.execDlget d a s
  | .wrapdone a => Sys2Proof.Machine.execWrapdone a s
  | .budget d a => Sys2Proof.Machine.execBudget d a s
  | .barinit d a l n => Sys2Proof.Machine.execBarinit d a l n s
  | .bararr d a l n => Sys2Proof.Machine.execBararr d a l n s
  | .barwait d a l n => Sys2Proof.Machine.execBarwait d a l n s
  | .bararw d a l n => Sys2Proof.Machine.execBararw d a l n s
  | .bartest d a l n => Sys2Proof.Machine.execBartest d a l n s
  | .shget d a n => Sys2Proof.Machine.execShget d a n s
  | .shslice d n => Sys2Proof.Machine.execShslice d n s
  | .shrec d n => Sys2Proof.Machine.execShrec d n s
  | .creg d a => Sys2Proof.Machine.execCreg d a s
  | .cpost d a => Sys2Proof.Machine.execCpost d a s
  | .cstat d a => Sys2Proof.Machine.execCstat d a s
  | .cdereg a => Sys2Proof.Machine.execCdereg a s
  | .csrr d c => Sys2Proof.Machine.execCsrr d c s
  | .csrw a c => Sys2Proof.Machine.execCsrw a c s
  | .csrs a c => Sys2Proof.Machine.execCsrs a c s
  | .csrc a c => Sys2Proof.Machine.execCsrc a c s
  | .trap c => Sys2Proof.Machine.execTrap c s
  | .wfe a => Sys2Proof.Machine.execWfe a s
  | .brk c => Sys2Proof.Machine.execBrk c s
  | .ctxsave d a => Sys2Proof.Machine.execCtxsave d a s
  | .ctxload d a => Sys2Proof.Machine.execCtxload d a s
  | .ldWCompact d z k => Sys2Proof.Machine.execLdWCompact d z k s
  | .ldDCompact d z k => Sys2Proof.Machine.execLdDCompact d z k s
  | .stWCompact t z k => Sys2Proof.Machine.execStWCompact t z k s
  | .stDCompact t z k => Sys2Proof.Machine.execStDCompact t z k s
  | .qpopCompact d n => Sys2Proof.Machine.execQpopCompact d n s
  | .qpushCompact n z => Sys2Proof.Machine.execQpushCompact n z s
  | .mov d z => Sys2Proof.Machine.execMov d z s
  | .li d n => Sys2Proof.Machine.execLi d n s
  | .addCompact d z => Sys2Proof.Machine.execAddCompact d z s
  | .subCompact d z => Sys2Proof.Machine.execSubCompact d z s
  | .addiCompact d n => Sys2Proof.Machine.execAddiCompact d n s
  | .andCompact d z => Sys2Proof.Machine.execAndCompact d z s
  | .orCompact d z => Sys2Proof.Machine.execOrCompact d z s
  | .xorCompact d z => Sys2Proof.Machine.execXorCompact d z s
  | .slliCompact d h => Sys2Proof.Machine.execSlliCompact d h s
  | .srliCompact d h => Sys2Proof.Machine.execSrliCompact d h s
  | .sraiCompact d h => Sys2Proof.Machine.execSraiCompact d h s
  | .beqz z o => Sys2Proof.Machine.execBeqz z o s
  | .bnez z o => Sys2Proof.Machine.execBnez z o s
  | .jCompact o => Sys2Proof.Machine.execJCompact o s
  | .ungang => Sys2Proof.Machine.execUngang s
  | .done => Sys2Proof.Machine.execDone s
  | .xret => Sys2Proof.Machine.execXret s
  | .shfence => Sys2Proof.Machine.execShfence s
  | .nop => Sys2Proof.Machine.execNop s
  | .utret => Sys2Proof.Machine.execUtret s
  | .seqsync => Sys2Proof.Machine.execSeqsync s
  | .tret => Sys2Proof.Machine.execTret s
  | .halt => Sys2Proof.Machine.execHalt s
  | .tlbinv => Sys2Proof.Machine.execTlbinv s
  | .bkclr => Sys2Proof.Machine.execBkclr s
  | .ownset => Sys2Proof.Machine.execOwnset s
  | .mspill => Sys2Proof.Machine.execMspill s
  | .mfill => Sys2Proof.Machine.execMfill s
  | .rothold => Sys2Proof.Machine.execRothold s
  | .nopCompact => Sys2Proof.Machine.execNopCompact s
  | .ret => Sys2Proof.Machine.execRet s
  | .doneCompact => Sys2Proof.Machine.execDoneCompact s
  | .brkCompact => Sys2Proof.Machine.execBrkCompact s
  | .mma core ten => Sys2Proof.Machine.execMma core ten s
  | .mmas core ten => Sys2Proof.Machine.execMmas core ten s
  | .mzero core ten => Sys2Proof.Machine.execMzero core ten s
  | .mldacc core ten => Sys2Proof.Machine.execMldacc core ten s
  | .mstacc core ten => Sys2Proof.Machine.execMstacc core ten s
  | .mperm core ten => Sys2Proof.Machine.execMperm core ten s
  | .retire core ten => Sys2Proof.Machine.execRetire core ten s
  | .completionPost core owner ten => Sys2Proof.Machine.execCompletionPost core owner ten s
  | .matrixStep stack pair col tc => Sys2Proof.Machine.execMatrixStep stack pair col tc s
  | .performHeadEntry core => Sys2Proof.Machine.execPerformHeadEntry core s
  | .writeBack core n => Sys2Proof.Machine.execWriteBack core n s
  | .dropCleanCopy stack addr => Sys2Proof.Machine.execDropCleanCopy stack addr s
  | .performPostedStore core n => Sys2Proof.Machine.execPerformPostedStore core n s
  | .memoryReply core slot => Sys2Proof.Machine.execMemoryReply core slot s
  | .hostCompletion n => Sys2Proof.Machine.execHostCompletion n s
  | .packetDrop k core n srcOk => Sys2Proof.Machine.execPacketDrop k core n srcOk s
  | .classStarvation out cls => Sys2Proof.Machine.execClassStarvation out cls s
  | .issueStarvation core slot => Sys2Proof.Machine.execIssueStarvation core slot s
  | .messageArrival n => Sys2Proof.Machine.execMessageArrival n s
  | .messageStatus core slot => Sys2Proof.Machine.execMessageStatus core slot s
  | .pondMove core owner => Sys2Proof.Machine.execPondMove core owner s
  | .dispatch core => Sys2Proof.Machine.execDispatch core s
  | .mbxovf => Sys2Proof.Machine.execMbxovf s
  | .headFlit core port => Sys2Proof.Machine.execHeadFlit core port s
  | .streamWord core port => Sys2Proof.Machine.execStreamWord core port s
  | .marker core port => Sys2Proof.Machine.execMarker core port s
  | .attach owner qcb shadow32 shadow40 => Sys2Proof.Machine.execAttach owner qcb shadow32 shadow40 s
  | .doorbell owner ring => Sys2Proof.Machine.execDoorbell owner ring s
  | .ringPoll owner ring => Sys2Proof.Machine.execRingPoll owner ring s
  | .placementPass owner => Sys2Proof.Machine.execPlacementPass owner s
  | .successorList owner kid => Sys2Proof.Machine.execSuccessorList owner kid s
  | .deadlineExpiry owner kid => Sys2Proof.Machine.execDeadlineExpiry owner kid s
  | .diversion => Sys2Proof.Machine.execDiversion s
  | .wrapupBudgetExpiry owner kid => Sys2Proof.Machine.execWrapupBudgetExpiry owner kid s
  | .budgetExpiry => Sys2Proof.Machine.execBudgetExpiry s
  | .lateFault => Sys2Proof.Machine.execLateFault s
  | .wfeTimeout core slot => Sys2Proof.Machine.execWfeTimeout core slot s
  | .hangWatchdog core => Sys2Proof.Machine.execHangWatchdog core s
  | .transferRequest n => Sys2Proof.Machine.execTransferRequest n s
  | .xovfIntake streamer => Sys2Proof.Machine.execXovfIntake streamer s
  | .transferStart n => Sys2Proof.Machine.execTransferStart n s
  | .transferCompletion n => Sys2Proof.Machine.execTransferCompletion n s
  | .transferInterrupt => Sys2Proof.Machine.execTransferInterrupt s
  | .freeIncrement owner n tile => Sys2Proof.Machine.execFreeIncrement owner n tile s
  | .faultRetry stack n => Sys2Proof.Machine.execFaultRetry stack n s
  | .duePoint stack => Sys2Proof.Machine.execDuePoint stack s
  | .deferralEnd stack => Sys2Proof.Machine.execDeferralEnd stack s
  | .rotationPause stack resends => Sys2Proof.Machine.execRotationPause stack resends s
  | .holdExpiry stack n => Sys2Proof.Machine.execHoldExpiry stack n s
  | .swapRequest stack pos owner => Sys2Proof.Machine.execSwapRequest stack pos owner s
  | .ownerSwap stack pos => Sys2Proof.Machine.execOwnerSwap stack pos s
  | .portTraining port => Sys2Proof.Machine.execPortTraining port s
  | .trainingEnd port lanes => Sys2Proof.Machine.execTrainingEnd port lanes s
  | .laneFailure port => Sys2Proof.Machine.execLaneFailure port s
  | .portStop port => Sys2Proof.Machine.execPortStop port s
  | .collectiveStart owner handle remote => Sys2Proof.Machine.execCollectiveStart owner handle remote s
  | .collectiveEnd owner handle lost => Sys2Proof.Machine.execCollectiveEnd owner handle lost s
  | .hostRead slot off len => Sys2Proof.Machine.execHostRead slot off len s
  | .hostWrite slot off bytes => Sys2Proof.Machine.execHostWrite slot off bytes s
  | .hostAtomic op slot off size x y => Sys2Proof.Machine.execHostAtomic op slot off size x y s
  | .coldStart st => Sys2Proof.Machine.execColdStart st s
  | .warmStart st => Sys2Proof.Machine.execWarmStart st s
  | .startTimeout => Sys2Proof.Machine.execStartTimeout s
  | .configurationRecord sigs minimums settings => Sys2Proof.Machine.execConfigurationRecord sigs minimums settings s
  | .attestationRequest nonce => Sys2Proof.Machine.execAttestationRequest nonce s
  | .debugToken token => Sys2Proof.Machine.execDebugToken token s
  | .debugLevelSet level => Sys2Proof.Machine.execDebugLevelSet level s
  | .debuggerAccess core slot reg write => Sys2Proof.Machine.execDebuggerAccess core slot reg write s
  | .debuggerResume core slot => Sys2Proof.Machine.execDebuggerResume core slot s
  | .idleEntry stack => Sys2Proof.Machine.execIdleEntry stack s
  | .idleExit stack => Sys2Proof.Machine.execIdleExit stack s
  | .retentionEntry => Sys2Proof.Machine.execRetentionEntry s
  | .retentionExit => Sys2Proof.Machine.execRetentionExit s
  | .powerOff => Sys2Proof.Machine.execPowerOff s
  | .errorContainment owner kind loc => Sys2Proof.Machine.execErrorContainment owner kind loc s
  | .scrub addr read corrected => Sys2Proof.Machine.execScrub addr read corrected s
  | .zeroFill core sub => Sys2Proof.Machine.execZeroFill core sub s
  | .powerMeasurement draw hot => Sys2Proof.Machine.execPowerMeasurement draw hot s
  | .capFrame etherType frame => Sys2Proof.Machine.execCapFrame etherType frame s
  | .ptpMessage m => Sys2Proof.Machine.execPtpMessage m s
  | .managementWrite reg => Sys2Proof.Machine.execManagementWrite reg s
  | .unassignedEncoding w => Sys2Proof.Machine.execUnassignedEncoding w s
  | .fetchFault => Sys2Proof.Machine.execFetchFault s
  | .vectorCompletion core slot => Sys2Proof.Machine.execVectorCompletion core slot s
  | .holdover => Sys2Proof.Machine.execHoldover s
  | .ownerCreation spec => Sys2Proof.Machine.execOwnerCreation spec s
  | .ownerWithdrawal owner pos => Sys2Proof.Machine.execOwnerWithdrawal owner pos s
  | .participantRegistration p => Sys2Proof.Machine.execParticipantRegistration p s
  | .participantDeregistration dom name index => Sys2Proof.Machine.execParticipantDeregistration dom name index s

end Sys2Proof.Machine
end

