-- ==== Sys2Proof/Machine/Issue.lean ====
section
/-! DEFINITION. Time passing, the issue of one instruction, alone or in a gang, the choice of the thread that issues, and
the machine's moves (R143, R145, R150, R206, R279 to R281, R315). -/

namespace Sys2Proof.Machine

/-- An outcome carried on. -/
def onNext (o : Out) (f : State → Out) : Out :=
  match o with
  | .next s => f s
  | .fault r => .fault r
  | .refused r => .refused r

/-- An operation carried out at each core and slot of a list. -/
def forSlots (f : Nat → Nat → State → Out) : List (Nat × Nat) → State → Out
  | [], s => .next s
  | (c, sl) :: rest, s => onNext (f c sl s) (forSlots f rest)

/-- An outcome of a given thread, the current thread staying what it was. -/
def onSlot (c sl : Nat) (f : State → Out) (s : State) : Out :=
  onNext (f { s with core := c, slot := sl }) fun s' => .next { s' with core := s.core, slot := s.slot }

/-! ### Time (R70, R145, R166, R206, R315, R370, R377, R381) -/

/-- The budget of a Ready, Running or Blocked thread after `n` clk; at zero BUDGET is due (R145). A thread's wait is 0 after a clk in
which its core issued nothing: none was eligible in it (R315). -/
def fall (n : Nat) (t : Thread) : Thread :=
  let t := if n = 0 then t else { t with idle := 0 }
  if canIssue t && t.budgetEn && t.budget != 0 then
    { t with budget := t.budget - n, budgetDue := t.budgetDue || decide (t.budget ≤ n) }
  else t

/-- A core after `n` clk: its threads' budgets, and the watchdog of a save or load (R145, R166). In a rotation pause both stop
(R349). -/
def passCore (s : State) (n c : Nat) (k : Core) : Core :=
  if pausing s (stackOf c) then k
  else
    let p := k.ctxprog
    { k with
      threads := Tab.mapAll (fun _ => fall n) k.threads
      ctxprog := if p.act && !p.tn then { p with clk := p.clk + n } else p }

/-- The part of a TIME offset that `n` clk slew away: 200 ppm at most (R381). -/
def slewed (n : Nat) (d : Int) : Int := max (-(10 * (n : Int))) (min (10 * (n : Int)) d)

/-- A stack in its pause holds a thread, a continuation or a group of a kernel (R349). -/
def kernelPaused (s : State) (o kid : Nat) (k : Kernel) : Bool :=
  (List.range 4).any fun n => pausing s n &&
    ((kernelStacks s o k).contains n
      || s.cores.any (fun c => stackOf c.1 == n && holdsThread c.2 (ofKernel o kid))
      || (ownerAt s o).joins.any fun j => j.2.parks && j.2.kid == kid && stackOf j.2.core == n)

/-- The wrap-up budget of a kernel after `n` clk; it stops while a stack of the kernel is in its pause (R206, R349). -/
def passKernel (s : State) (n o kid : Nat) (k : Kernel) : Kernel :=
  if k.st == .wrappingUp && !kernelPaused s o kid k then { k with wrapLeft := k.wrapLeft - n } else k

/-- The parked forkers of an owner that a deadline discarded and that wait for a slot, resumed where one is free
(R204). -/
def resumeWaiting (s : State) (o : Nat) : State :=
  ((ownerAt s o).joins.filter fun j => j.2.discarded && j.2.waits).foldl (resumeForker o) s

/-- The Starting slots, Ready once their runs are free (R143). -/
def grantAll (s : State) : State :=
  (threadsWhere s fun t => t.st == .starting).foldl (fun s p => grantRuns s p.1 p.2) s

/-- A stack with work is Active (R377). -/
def markBusy (s : State) : State :=
  let now := s.cycle
  let busy := (List.range 4).filter (stackBusy s)
  busy.foldl (fun s n => updStackAt s n fun k => { k with idle := false, quiet := now }) s

/-- The clk between two tries of a holding register whose page is missing: 10 µs (R296). -/
def holdClk : Nat := 33000

/-- The holding registers that try their walk again now: those whose fault-table entry has closed, and all of them every 10 µs
(R296, R330). -/
def retryHeld (before : Nat) (s : State) : State :=
  retryHolds s fun c h => !holdOpen s c h || before / holdClk != s.cycle / holdClk

/-- What falls due as CYCLE has risen from `before`. -/
def passDues (before : Nat) (s : State) : State :=
  let s := resumeDue s
  let s := retryHeld before (hangAll (ageBuffers s))
  let s := (s.owners.map Prod.fst).foldl passDue s
  grantAll (markBusy ((s.owners.map Prod.fst).foldl resumeWaiting s))

/-- The CYCLEs at which something ends at the latest: a pause, a placement pass (R314, R344). -/
def dueEnds (s : State) : List Nat :=
  (List.range 4).filterMap (fun n => match (stackAt s n).rot with
    | .pausing _ since resends _ => some (since + pauseLimit (stackAt s n).rotn resends)
    | _ => none) ++ s.owners.filterMap fun o => passEnd s o.1

/-- `n` clk pass, in which nothing ends before the last. CYCLE and TIME count but in power state Off; threads, kernels and stacks run
in state On alone, but what R127 lets stay 100 µs stays no longer (R377). -/
def passPart (n : Nat) (s : State) : State :=
  if s.sys.power == .off then s
  else
    let d := slewed n s.slew
    let sys := if s.sys.ready then s.sys else { s.sys with startClk := s.sys.startClk + n }
    let s := { s with timeU := ((s.timeU : Int) + 50000 * n + d).toNat, slew := s.slew - d, sys := sys }
    let s := { s with outs := Tab.mapAll (fun _ => passOutput n s.cycle) s.outs }
    if s.sys.power != .on then ageBuffers (raiseCycle n s)
    else
      let cores := Tab.mapAll (passCore s n) s.cores
      let owners := Tab.mapAll (fun o w => { w with kernels := Tab.mapAll (passKernel s n o) w.kernels }) s.owners
      passDues s.cycle (runSteps n n { s with cores := cores, owners := owners })

/-- `n` clk pass, up to the next of those CYCLEs, then on from there. -/
def passParts : Nat → Nat → State → State
  | 0, n, s => passPart n s
  | f + 1, n, s =>
    match (dueEnds s).filter (fun d => s.cycle < d && d < s.cycle + n) with
    | [] => passPart n s
    | d :: ds =>
      let m := ds.foldl min d - s.cycle
      passParts f (n - m) (passPart m s)

/-- `n` clk pass; what is asked for as they begin is noted. -/
def passClk (n : Nat) (s : State) : State := passParts n n ((s.owners.map Prod.fst).foldl noteAsked s)

/-! ### Running the code fetched -/

/-- What a code's decoding runs: its instruction, or ILLEGAL with its word (R58). -/
def runDecoded (x : Option Instr) (c : Code) (s : State) : Out :=
  match x with
  | some i => exec i s
  | none => execUnassignedEncoding (c.value.setWidth 32) s

/-- A code run by the current thread. -/
noncomputable def execCode (c : Code) (s : State) : Out := runDecoded c.decode c s

/-- The same function with the meanings of the compact forms called by name, so that compiled code can run it. -/
def execCodeFast (c : Code) (s : State) : Out :=
  match c with
  | .c32 w => runDecoded (decode32 w) c s
  | .c16 w =>
    let d := w.extractLsb' 7 4
    let r := w.extractLsb' 3 4
    let i := w.extractLsb' 1 6
    let via (x : Option Instr) : Out := runDecoded (wellFormedOnly x) c s
    let plain (x : Out) : Out := if w.extractLsb' 1 2 = 0x0#2 then x else via none
    if w.getLsbD 0 then via none
    else match (w.extractLsb' 11 5).toNat with
      | 0 => via (Decode.compact0 w)
      | 1 => plain (execMov d r s)
      | 2 => execLi d i s
      | 3 => plain (execAddCompact d r s)
      | 4 => plain (execSubCompact d r s)
      | 5 => execAddiCompact d i s
      | 6 => plain (execAndCompact d r s)
      | 7 => plain (execOrCompact d r s)
      | 8 => plain (execXorCompact d r s)
      | 9 => execSlliCompact d i s
      | 10 => execSrliCompact d i s
      | 11 => execSraiCompact d i s
      | 12 => via (Decode.compact12 w)
      | 13 => via (Decode.compact13 w)
      | 14 => via (Decode.compact14 w)
      | 15 => via (Decode.compact15 w)
      | 16 => execBeqz d i s
      | 17 => execBnez d i s
      | 18 => execJCompact (w.extractLsb' 1 10) s
      | 19 => via (Decode.compact19 w)
      | 20 => via (Decode.compact20 w)
      | 21 => via (Decode.compact21 w)
      | 22 => via (Decode.compact22 w)
      | 23 => via (Decode.compact23 w)
      | _ => via none

/-- A decoding that a fixed field may refuse. -/
theorem runDecoded_ite {p : Prop} [Decidable p] {i : Instr} (h : true = i.wf) (c : Code) (s : State) :
    runDecoded (wellFormedOnly (if p then some i else none)) c s = if p then exec i s else runDecoded none c s := by
  by_cases hp : p
  · simp only [if_pos hp, wellFormedOnly, ← h, if_true]; rfl
  · simp only [if_neg hp, wellFormedOnly]

/-- The two functions agree. -/
@[csimp] theorem execCode_eq : @execCode = @execCodeFast := by
  funext c s
  cases c with
  | c32 w => rfl
  | c16 w =>
    simp only [execCode, Code.decode, decode16, execCodeFast]
    cases w.getLsbD 0 with
    | true => rfl
    | false =>
      simp only [decodeOp5, if_false, Bool.false_eq_true]
      generalize (w.extractLsb' 11 5).toNat = n
      split <;> try rfl
      all_goals first
        | exact runDecoded_ite (p := w.extractLsb' 1 2 = 0x0#2) rfl _ s
        | (split <;> first | rfl | contradiction)

/-- A code with an instruction runs it. -/
theorem execCode_some {c : Code} {s : State} {i : Instr} (h : c.decode = some i) : execCode c s = exec i s := by
  simp only [execCode, h, runDecoded]

/-- A code without one is the UNASSIGNED_ENCODING event. -/
theorem execCode_none {c : Code} {s : State} (h : c.decode = none) :
    execCode c s = execUnassignedEncoding (c.value.setWidth 32) s := by
  simp only [execCode, h, runDecoded]

/-! ### Issue of one thread -/

/-- The instruction at the PC fetched and run. -/
def runNext (s : State) : Out :=
  match fetchCode s with
  | .ok c s => execCode c s
  | .trap c v s => .next (takeTrap s c none v)
  | .stop f => .fault f
  | .wait _ s => .next s
  | .leave s => .next s

/-- The waiting instruction of the current thread tried again, with all its checks (a waiting QPUSH, too: R170 does not say whether
they are made once; DESIGN CHOICE, assumption 70), or its wait ended by something due. -/
def retryHere (s : State) : Out :=
  let s := boundaryCut s
  match (thr s).st, (thr s).wait with
  | .blocked, some (i, _) => exec i s
  | _, _ => .next s

/-- The next instruction raises a precise trap: tried, and the traps counted. -/
def nextTraps (run : State → Out) (s : State) : Bool :=
  match run s with
  | .next s' => s'.traps != s.traps
  | _ => false

/-- What is due at the boundary taken: the first of R150, else a transfer interrupt where the next instruction raises no precise
trap (R299). `run` runs that instruction. -/
def takeDue (run : State → Out) (s : State) : State :=
  match boundaryTake s with
  | some s => s
  | none => match irqHere s with
    | some q => if nextTraps run s then s else takeIrq s q
    | none => s

/-- The current thread, of no gang: what is due at the boundary is taken, then one instruction runs (R150). -/
def issueAlone (s : State) : Out :=
  match (thr s).st with
  | .starting => .next (grantRuns s s.core s.slot)
  | .blocked => retryHere s
  | .ready | .running => runNext (takeDue runNext s)
  | _ => .next s

/-! ### Issue of a gang (R280, R281) -/

/-- The members of the gang that the current thread leads: the followers in descending order of index, then the leader. -/
def gangIndex (s : State) (p : Nat × Nat) : Nat := ((thrAt s p.1 p.2).gang.map GangInfo.index).getD 0

/-- A follower put into its place among others of descending index. -/
def insertFollower (s : State) (p : Nat × Nat) : List (Nat × Nat) → List (Nat × Nat)
  | [] => [p]
  | q :: qs => if gangIndex s q < gangIndex s p then p :: q :: qs else q :: insertFollower s p qs

/-- The followers, highest index first. -/
def ordered (s : State) : List (Nat × Nat) := (followers s s.core s.slot).foldr (insertFollower s) []

/-- A member's Blocked instruction tried again. -/
def retryMember (c sl : Nat) (s : State) : Out :=
  if (thrAt s c sl).st == .blocked then onSlot c sl retryHere s else .next s

/-- What a follower has to take at the boundary is kept for its leader (R281). -/
def followerTake (c sl : Nat) (s : State) : Out :=
  onSlot c sl (fun s => if atBoundary (thr s) && (thr s).gangTrap.isNone then .next ((boundaryTake s).getD s) else .next s) s

/-- The trap that the leader's own thread takes at a boundary: a late fault, MBXOVF or BUDGET (R150). -/
def leaderTrap (s : State) : Option State :=
  match dueLate (thr s) with
  | some e => some (takeLate s e)
  | none => match dueOvf s with
    | some w => some (takeOvf s w)
    | none => if (thr s).budgetDue then some (takeBudget s) else none

/-- GANGBRK's value: the follower's cause, late bit and member index (R281). -/
def gangbrkValue (cause : BitVec 8) (late : Bool) (index : Nat) : Word :=
  place cause.toNat 0 ||| place (if late then 1 else 0) 8 ||| place index 9

/-- The lowest-indexed follower that has a trap, with the trap. -/
def followerTrap (s : State) : Option ((Nat × Nat) × BitVec 8 × Option (BitVec 16) × Word) :=
  ((ordered s).reverse.filterMap fun p => (thrAt s p.1 p.2).gangTrap.map fun x => (p, x)).head?

/-- A member's instruction does not issue now: a result it needs is not there, or its 32 dispatches are out (R157). -/
def memberStalls (s : State) (code : Code) (p : Nat × Nat) : Bool :=
  let pc := (thr s).pc
  let s := updThr { s with core := p.1, slot := p.2 } fun t => { t with pc := pc }
  match execCode code s with
  | .next s' => thr s' == thr s && ((thr s).vq != [] || decide (32 ≤ dispatchesOut s))
  | _ => false

/-- The row of R143 by which a Ready slot that issue has chosen is Running, and another Running slot of its core Ready. -/
def makeRunning (c sl : Nat) (s : State) : State :=
  let turn (i : Nat) (t : Thread) : Thread :=
    if i = sl then (if t.st == .ready then { t with st := .running } else t)
    else if t.st == .running then { t with st := .ready } else t
  updCore s c fun k => { k with threads := Tab.mapAll turn k.threads }

/-- A follower runs the leader's instruction on its own state. -/
def runFollower (code : Code) (pc : Word) (c sl : Nat) (s : State) : Out :=
  onSlot c sl (fun s => if (thr s).gang.isNone then .next s
    else execCode code (updThr (makeRunning c sl s) fun t => { t with pc := pc })) s

/-- The gang's next instruction: fetched by the leader, run by every follower and then by the leader. -/
def gangRun (s : State) : Out :=
  match fetchCode s with
  | .ok code s =>
    if (memberStalls s code (s.core, s.slot)) || (ordered s).any (memberStalls s code) then .next s
    else onNext (forSlots (runFollower code (thr s).pc) (ordered s) s) (execCode code)
  | .trap c v s => .next (takeTrap s c none v)
  | .stop f => .fault f
  | .wait _ s => .next s
  | .leave s => .next s

/-- A gang at its boundary: the leader's own trap, else GANGBRK for a follower's, and the gang disbands; else what the
leader takes as any thread (R281). -/
def gangBoundary (s : State) : State :=
  match (thr s).gangTrap with
  | some (c, late, v) => deliverTrap (disband s s.core s.slot) c late v
  | none => match leaderTrap s with
    | some s => s
    | none => match followerTrap s with
      | some (p, c, late, v) =>
        let n := gangIndex s p
        let s := updThr (disband s s.core s.slot) fun t => { t with gstat := v }
        deliverTrap s Cause.gangbrk none (gangbrkValue c late.isSome n)
      | none => takeDue gangRun s

/-- The issue of a gang, by its leader: members that wait try again first, and the next instruction issues when none
waits. -/
def issueGang (s : State) : Out :=
  onNext (forSlots retryMember (ordered s) s) fun s =>
  onNext (retryMember s.core s.slot s) fun s =>
    if (thr s).gang.isNone then .next s
    else if (thr s).st == .blocked || followerWaits s then .next s
    else onNext (forSlots followerTake (ordered s) s) fun s =>
      let s := gangBoundary s
      if (thr s).gang.isNone then (if atBoundary (thr s) then runNext s else .next s) else gangRun s

/-! ### Issue and choice (R143, R315) -/

/-- The slot noted as the one that last issued at its priority (R315). -/
def noteIssue (s : State) : State :=
  let p := (thr s).prio.toNat
  let sl := s.slot
  updCore s s.core fun k => { k with lastIssued := Tab.set sl k.lastIssued p }

/-- The thread's next instruction waits for a result, or for one of its 32 dispatches to complete (R157). -/
def stalled (s : State) (c sl : Nat) : Bool :=
  let s := { s with core := c, slot := sl }
  if (thr s).vq == [] && dispatchesOut s < 32 then false
  else match fetchCode s with
    | .ok code s => memberStalls s code (c, sl)
    | _ => false

/-- A thread eligible to issue: at a boundary, no follower of a gang, and with the resources that the model keeps (R280, R315; the
latencies of R73 only delay it, assumption 62). -/
def eligible (s : State) (c sl : Nat) (t : Thread) : Bool :=
  atBoundary t && (match t.gang with
    | some g => g.core == c && g.slot == sl
    | none => true) && !stalled s c sl

/-- The slots of a core that are eligible to issue. -/
def eligibleSlots (s : State) (c : Nat) : List (Nat × Thread) := (coreAt s c).threads.filter fun t => eligible s c t.1 t.2

/-- The largest wait of 48 or more, the lower slot number first on a tie (R315). -/
def agedSlot (l : List (Nat × Thread)) : Option Nat :=
  (l.foldl (fun (b : Option (Nat × Thread)) x =>
    if x.2.idle < 48 then b else match b with
      | some y => if y.2.idle < x.2.idle then some x else b
      | none => some x) none).map Prod.fst

/-- The first slot after the one that last issued at the highest priority, counting round (R315). -/
def roundSlot (k : Core) (l : List (Nat × Thread)) : Option Nat :=
  let p := l.foldl (fun m x => Nat.max m x.2.prio.toNat) 0
  let top := (l.filter fun x => x.2.prio.toNat == p).map Prod.fst
  let last := Tab.get 15 k.lastIssued p
  (List.range 16).findSome? fun i => let n := (last + 1 + i) % 16; if top.contains n then some n else none

/-- The slot that issues on a core (R315). -/
def pickSlot (s : State) (c : Nat) : Option Nat :=
  let l := eligibleSlots s c
  match agedSlot l with
  | some n => some n
  | none => roundSlot (coreAt s c) l

/-- The slot that issues where one is asked for: a thread whose wait has reached 48 goes before any other of its core. Below that
the latencies of R73 leave open which threads are eligible: the slot asked for issues, and those that would go before it by R315 were
not eligible in this clk (assumption 62). -/
def forcedSlot (s : State) (c sl : Nat) : Nat :=
  if atBoundary (thrAt s c sl) then (agedSlot (eligibleSlots s c)).getD sl else sl

/-- Whether the thread of a slot issues now, of the slots that the model finds eligible: outside a rotation pause (R315, R344). -/
def issues (s : State) (c sl : Nat) (l : List (Nat × Thread)) : Bool :=
  s.sys.power == .on && !pausing s (stackOf c) && l.any fun x => x.1 == sl

/-- A core and slot made current; where its thread issues, it is Running (R143). -/
def choose (c sl : Nat) (l : List (Nat × Thread)) (s : State) : State :=
  let s := { s with core := c, slot := sl }
  if l.any fun x => x.1 == sl then makeRunning c sl s else s

/-- A thread that was eligible while another issued: it has waited a clk more, but where R315 puts it before that one, so that it cannot
have been eligible. -/
def waited (k : Core) (l : List (Nat × Thread)) (sl : Nat) (x : Nat × Thread) : Nat :=
  let first := match agedSlot l with
    | some n => n
    | none => (roundSlot k (l.filter fun y => y.1 == sl || y.1 == x.1)).getD sl
  if first = sl then x.2.idle + 1 else 0

/-- The waits of a core's threads after a clk in which the thread of a slot issued, or was to (R315): `s` and `l` are the state and the
eligible slots before it. -/
def countWaits (s : State) (c sl : Nat) (l : List (Nat × Thread)) (t : State) : State :=
  let count (i : Nat) (t : Thread) : Thread :=
    match l.find? fun x => x.1 == i && x.1 != sl && x.2.uid == t.uid with
    | some x => { t with idle := waited (coreAt s c) l sl x }
    | none => t
  if issues s c sl l then updCore t c fun k => { k with threads := Tab.mapAll count k.threads } else t

/-- Trace records added to the buffer (R376). -/
def addTrace (s : State) (rs : List TraceRec) : State := updSys s fun y => { y with trace := y.trace ++ rs }

/-- The trace of an issue by a thread of an owner that may be traced: the PC of state `s`, and whether it took a precise trap there; for
the leader of a gang, one for each follower too (R376). -/
def traceIssue (s s' : State) : State :=
  let t := thr s
  let of (c sl : Nat) (trapped : Bool) : TraceRec := { owner := t.owner, core := c, slot := sl, pc := t.pc, trapped := trapped, cycle := s.cycle }
  if traces s t.owner then
    addTrace s' (of s.core s.slot (s'.traps != s.traps) ::
      (followers s s.core s.slot).map fun p => of p.1 p.2 (thrAt s' p.1 p.2).gangTrap.isSome)
  else s'

/-- The trace of an event: a record for each thread of an owner that may be traced that it has changed (R376). -/
def traceEvent (s s' : State) : State :=
  if s.sys.dbg != 1 then s'
  else addTrace s' ((threadsWhere s fun t => traces s t.owner).filterMap fun p =>
    let t := thrAt s p.1 p.2
    if thrAt s' p.1 p.2 == t then none
    else some { owner := t.owner, core := p.1, slot := p.2, pc := t.pc, trapped := s'.traps != s.traps, event := true, cycle := s.cycle })

/-- The thread of a core and slot issues one instruction, or tries its waiting one again, in the clk that stands. `split` makes its
requests only leave. A follower issues with its leader. In a rotation pause no thread of the stack issues (R344). -/
def issueOn (c sl : Nat) (l : List (Nat × Thread)) (split : Bool) (s : State) : Out :=
  if s.sys.power != .on || (thrAt s c sl).st == .free || pausing s (stackOf c) then .next s
  else
    let now := { choose c sl l s with splitIssue := split }
    if isFollower now then .next { now with splitIssue := false }
    else
      let here := if issues s c sl l then noteIssue now else now
      onNext (if (thr here).gang.isSome then issueGang here else issueAlone here) fun t =>
        .next { (if issues s c sl l then traceIssue now t else t) with splitIssue := false }

/-- One issue, and the clk that it takes. -/
def issue (c slot : Nat) (split : Bool) (s : State) : Out :=
  let sl := forcedSlot s c slot
  let l := eligibleSlots s c
  onNext (issueOn c sl l split s) fun t => .next (countWaits s c sl l (passClk 1 t))

/-- The issues of several cores one after another, each with its slot and the slots that are eligible there. -/
def issueEach : List (Nat × Nat × List (Nat × Thread)) → State → Out
  | [], s => .next s
  | (c, sl, l) :: rest, s => onNext (issueOn c sl l false s) (issueEach rest)

/-- A clk in which the cores of a list issue from the slots given, a core but once (R315): each issues one instruction. -/
def issueAll (picks : List (Nat × Nat)) (s : State) : Out :=
  let once := picks.foldl (fun l p => if l.any fun q => q.1 == p.1 then l else l ++ [p]) []
  let plan := once.map fun p => (p.1, forcedSlot s p.1 p.2, eligibleSlots s p.1)
  onNext (issueEach plan s) fun t => .next (plan.foldl (fun t p => countWaits s p.1 p.2.1 p.2.2 t) (passClk 1 t))

/-! ### The moves (R121, assumption 1) -/

/-- The event that ends no instruction's issue: an encoded instruction, an unassigned word and a fetch fault belong to the
issue of a thread. -/
def isEvent : Instr → Bool
  | .unassignedEncoding _ => false
  | .fetchFault => false
  | i => i.size == 0

/-- A vector instruction of each thread of a core completes, if it can. -/
def stepVectors (c : Nat) (s : State) : Out :=
  forSlots execVectorCompletion ((slotsWhere (coreAt s c) fun t => t.vq != []).map fun i => (c, i)) s

/-- The core's work besides issue: the head of its store buffer and its first posted store are performed, its vector
instructions complete, its waiting threads try again. In a rotation pause of its stack it has none. -/
def background (c : Nat) (s : State) : Out :=
  if pausing s (stackOf c) then .next s
  else
    let s := (performHead s c).getD s
    let s := (performPosted s c 0).getD s
    onNext (stepVectors c s) fun s =>
      forSlots retryMember ((slotsWhere (coreAt s c) fun t => t.st == .blocked).map fun i => (c, i)) s

/-- The move made when none is asked for: the current core issues as R315 chooses; with nothing to issue, or vector
instructions waiting, its other work goes on. -/
def autoMove (s : State) : Out :=
  if s.sys.power != .on || pausing s (stackOf s.core) then .next (passClk 1 s)
  else match pickSlot s s.core with
    | some sl =>
      if (coreAt s s.core).threads.any (fun t => t.2.vq != []) then onNext (background s.core s) (issue s.core sl false)
      else issue s.core sl false s
    | none => onNext (background s.core s) fun s => .next (passClk 1 s)

/-- An event that does not happen now: a transfer interrupt before an instruction that raises a precise trap (R150, R299). -/
def barred (i : Instr) (s : State) : Bool :=
  match i with
  | .transferInterrupt => nextTraps (if (thr s).gang.isSome then gangRun else runNext) s
  | _ => false

/-- A move. -/
def runMove (m : Move) (s : State) : Out :=
  match m with
  | .tick n => .next (passClk n s)
  | .issue c sl => issue c sl false s
  | .request c sl => issue c sl true s
  | .event i => if isEvent i && !barred i s then onNext (exec i s) fun s' => .next (traceEvent s s') else .next s
  | .transferBegin n => .next ((beginXfer s n).getD s)
  | .transferWord n k j => .next ((stepXfer s n k j).getD s)
  | .vectorAccess c sl => .next ((vectorAccess s c sl).getD s)
  | .collectiveWord o h k write => .next ((collectiveWord s o h k write).getD s)
  | .clock picks => issueAll picks s
  | .output out ready => .next ((stepOutput s out fun c => ready.contains c).getD s)
  | .failing m => onNext (runMove m { s with hostError := true }) fun s => .next { s with hostError := false }

/-- The first move asked for, or else the one of `autoMove`. -/
def nextMove (s : State) : Out :=
  match s.sched with
  | [] => autoMove s
  | m :: rest => runMove m { s with sched := rest }

/-! ### Placing an instruction where the next step fetches it -/

/-- The owner that stands for a program's load: one position, one sub-bank of local store on each core, and a resident
loop at its offset 0 with the largest allocation (assumption 2). -/
def loader : OwnerSpec :=
  { id := 1, grants := [⟨0, 0, 0⟩], timeShare := false, lscap := 1, pgroot := 0, svroot := 0, udeleg := 0, tvec := 0,
    loopEntry := 0x8000000000000000#64, loopWsz := 2, loopVsz := 3, loopPrio := 0 }

/-- That owner attached to core 0, its resident loop in slot 0, the module in power state On. -/
def withLoader (s : State) : State :=
  let y := s.sys
  let s := { s with cores := Tab.set {} s.cores 0, owners := Tab.set { grants := loader.grants } s.owners loader.id,
                    core := 0, slot := 0, sys := { y with power := .on } }
  attachCore loader s (0, 0)

/-- The place of the halfword at a code address of the current thread, if it can be fetched. -/
def codePlace (s : State) (a : Word) : Option Nat :=
  if !codeForm a then none
  else if a.getLsbD 63 then
    if lsLimit s s.core (thr s).owner ≤ codeAddr a then none else lsPlace s s.core (thr s).owner (codeAddr a)
  else match locGlb s (codeAddr a) { x := true } with
    | .ok l _ => some l.key
    | _ => none

/-- The current thread is alone at a boundary at which nothing is due, and its PC can be fetched. -/
def fetchesNext (s : State) : Bool :=
  s.sys.power == .on && atBoundary (thr s) && (thr s).gang.isNone && (boundaryTake s).isNone
    && (irqHere s).isNone && !pausing s (stackOf s.core) && forcedSlot s s.core s.slot == s.slot
    && (codePlace s (thr s).pc).isSome && (codePlace s (pcPlus (thr s).pc 2)).isSome

/-- Four bytes written where the current thread fetches. -/
def plant (s : State) (bytes : List Byte) : State :=
  match codePlace s (thr s).pc, codePlace s (pcPlus (thr s).pc 2) with
  | some k, some l => writeThrough (writeThrough s k (bytes.take 2)) l (bytes.drop 2)
  | _, _ => s

/-- The bytes of an instruction placed where the next step fetches, and that step asked to issue the current thread. -/
def placeCode (s : State) (bytes : List Byte) : State :=
  let s := if fetchesNext s then s else withLoader s
  let s := plant s bytes
  { s with sched := .issue s.core s.slot :: s.sched }

end Sys2Proof.Machine
end

