-- ==== Sys2Proof/Machine/Step.lean ====
section
/-! DEFINITION. One step of the machine, and the state whose next step runs a given instruction. -/

namespace Sys2Proof.Machine

/-- One step: the first move asked for in `State.sched`, or the machine's own choice (assumption 1). -/
def step (s : State) : Host.Outcome State Fault Refusal := nextMove s

/-- The state with the opcode table's word `w` of `nbits` bits stored where the next step fetches its instruction. Where
the current thread cannot fetch, a resident loop is started first, as the control cores start one (assumption 2). -/
def State.withFetchWord (s : State) (nbits w : Nat) : State := placeCode s (tableBytes nbits w)

end Sys2Proof.Machine
end

