-- ==== Sys2Proof/Safety.lean ====
section
/-! DEFINITION. What counts as a safe step, what every step keeps, and the words in which claims are stated. -/

namespace Sys2Proof.Machine

/-- A step that goes on: neither a fault nor a refusal. -/
def StepSafe (s : State) : Prop := ∃ t, step s = .next t

/-- What holds of every reachable state: memory is in its canonical form, so that equal memories are equal data. -/
def Inv (s : State) : Prop := Memory.wf s.mem = true

/-- The current thread can issue an instruction with the register fields `fs`, in the order of R60, that uses `more`
besides: its slot holds a thread that no answer is awaited for, the fields lie within its allocation (R62), and no vector
instruction dispatched before has still to write one of them (R157). -/
def Issues (s : State) (fs more : List RegField) : Prop :=
  canIssue (thr s) = true ∧ outstanding (thr s) = false ∧ regBound (thr s) fs = none ∧ hazard (thr s) (fs ++ more) = false

/-- The current thread goes on at a code address. -/
def goTo (s : State) (pc : Word) : State := updThr s fun t => { t with pc := pc, st := t.st.goOn, wait := none }

/-- The current thread goes on after an instruction of `n` bytes. -/
def nextPc (s : State) (n : Nat) : State := goTo s (pcPlus (thr s).pc (BitVec.ofNat 64 n))

/-- The register fields that an instruction checks for REGBOUND, in the order of R60: rd, ra, rb, rc, and then the further
registers that its own rule checks (R116, R177, R182, R195, R199, R210); g0, g9 and g10, which it names by itself, lie in every
window. A mask register has no allocation. -/
def regFields : Instr → List RegField
  | .add d a b | .sub d a b | .and d a b | .or d a b | .xor d a b | .andn d a b | .orn d a b | .xnor d a b | .sll d a b |
    .srl d a b | .sra d a b | .rot d a b | .slt d a b | .sltu d a b | .min d a b | .max d a b | .minu d a b | .maxu d a b |
    .addw d a b | .subw d a b | .adds d a b | .subs d a b | .sllw d a b | .srlw d a b | .sraw d a b | .mul d a b |
    .mulh d a b | .mulhu d a b | .mulhm d a b | .div d a b | .divu d a b | .rem d a b | .remu d a b | .mulw d a b |
    .divw d a b | .remw d a b | .sel d a b | .ext d a b | .extu d a b | .ins d a b | .padd d a b | .psub d a b |
    .ptag d a b | .pidx d a b | .pblk d a b | .pchk d a b | .fadd d a b _ | .fsub d a b _ | .fmul d a b _ | .fdiv d a b _ |
    .fmin d a b _ | .fmax d a b _ | .fscpy d a b _ | .fsinv d a b _ | .fsxor d a b _ | .feq d a b _ | .flt d a b _ |
    .fle d a b _ | .ldx d a b _ _ | .ldux d a b _ _ | .stx d a b _ _ | .amoadd d a b _ _ | .amoand d a b _ _ |
    .amoor d a b _ _ | .amoxor d a b _ _ | .amomin d a b _ _ | .amomax d a b _ _ | .amoswp d a b _ _ | .amofadd d a b _ _ |
    .cas d a b _ _ => [G d, G a, G b]
  | .addi d a _ | .andi d a _ | .ori d a _ | .xori d a _ | .slli d a _ | .srli d a _ | .srai d a _ | .roti d a _ |
    .slti d a _ | .sltiu d a _ | .clz d a | .ctz d a | .popc d a | .bswap d a | .pgtag d a | .paddi d a _ | .fsqrt d a _ |
    .fkind d a _ | .fcvt d a _ _ _ _ | .jalr d a _ | .ld d a _ _ _ | .ldu d a _ _ _ | .st d a _ _ _ | .pst d a _ _ _ |
    .gang d a | .gstat d a | .mpush d a | .mwait d a | .mstat d a | .qtry d a _ | .qtryp d a _ | .sopen d a _ | .send1 d a |
    .resumec d a _ | .xfer d a | .xmcast d a | .xwait d a | .xstat d a | .kstat d a | .dlget d a | .budget d a |
    .shget d a _ | .creg d a | .cpost d a | .cstat d a | .ctxsave d a | .ctxload d a => [G d, G a]
  | .lui d _ | .addpc d _ | .rget d _ _ | .rput d _ _ | .ixget d _ | .mcnt d _ _ | .mpop d | .rgstat d _ | .qpop d _ |
    .qpeek d _ | .qstat d _ | .sstat d _ | .shrec d _ | .csrr d _ | .qpopCompact d _ | .li d _ | .addiCompact d _ |
    .slliCompact d _ | .srliCompact d _ | .sraiCompact d _ => [G d]
  | .ixset a _ | .ixadd a _ | .pref _ a _ | .mset _ a | .msplit a | .rgdef a _ | .rgpush a _ | .qpush a _ | .qbind a _ |
    .mbxdef a _ | .bind a _ _ | .suspend a | .xfree a | .join a | .wrapdone a | .cdereg a | .csrw a _ | .csrs a _ |
    .csrc a _ | .wfe a => [G a]
  | .ffma d a b _ c => [G d, G a, G b, G c]
  | .beq a b _ | .bne a b _ | .blt a b _ | .bge a b _ | .bltu a b _ | .bgeu a b _ | .loop a b _ => [G a, G b]
  | .ldv d a _ _ | .stv d a _ _ | .vldb d a _ _ | .vecfd d a _ _ | .vecfe d a _ _ | .vbcast d a _ => [V d, G a]
  | .vlds d a b _ _ | .vsts d a b _ _ | .vmovgv d a b _ => [V d, G a, G b]
  | .vgath d a b _ _ | .vscat d a b _ _ => [V d, G a, V b]
  | .cas2 d a b _ => [G d, G a, G b, .g (d.toNat + 1), .g (b.toNat + 1)]
  | .vadd d a b _ | .vsub d a b _ | .vmul d a b _ | .vmulh d a b _ | .vand d a b _ | .vor d a b _ | .vxor d a b _ |
    .vsll d a b _ | .vsrl d a b _ | .vsra d a b _ | .vmin d a b _ | .vmax d a b _ | .vminu d a b _ | .vmaxu d a b _ |
    .vadds d a b _ | .vsubs d a b _ | .vabsd d a b _ | .vdot4 d a b | .vfadd d a b _ | .vfsub d a b _ | .vfmul d a b _ |
    .vfmin d a b _ | .vfmax d a b _ | .vfdiv d a b _ | .vperm d a b | .vsel d a b _ _ => [V d, V a, V b]
  | .vfabs d a _ | .vfneg d a _ | .vcvt d a _ _ _ | .vred d a _ _ | .vrcp d a _ | .vrsq d a _ | .vexp2 d a _ |
    .vlog2 d a _ | .vtanh d a _ | .xchg d a _ => [V d, V a]
  | .vfma d a b _ c => [V d, V a, V b, V c]
  | .vqnt d a b _ _ | .vdqnt d a b _ | .vslide d a b _ => [V d, V a, G b]
  | .vmovvg d a b _ => [G d, V a, G b]
  | .vcmp _ _ a b _ => [V a, V b]
  | .send d a | .klaunch d a => [G d, G a, .g (a.toNat + 7)]
  | .send4 d a | .reply d a => [G d, G a, .g (a.toNat + 3)]
  | .recv d _ => [G d, .g (d.toNat + 8)]
  | .rfork a => [G a, .g (a.toNat + 4)]
  | .shslice d _ => [G d, .g (d.toNat + 4)]
  | .ldWCompact d s _ | .ldDCompact d s _ | .mov d s | .addCompact d s | .subCompact d s | .andCompact d s |
    .orCompact d s | .xorCompact d s => [G d, G s]
  | .stWCompact t s _ | .stDCompact t s _ => [G t, G s]
  | .qpushCompact _ s | .beqz s _ | .bnez s _ => [G s]
  | .gbcast d a v => if v = 1 then [V d, V a] else [G d, G a]
  | .barinit d a l _ | .bararr d a l _ | .barwait d a l _ | .bararw d a l _ | .bartest d a l _ =>
    if l = 3 then [G d, G a] else [G d]
  | _ => []

/-- The trap value of a register field beyond the thread's allocation: its number, with bit 8 set for a vector register (R62). -/
def beyondAlloc (t : Thread) : RegField → Option Nat
  | .g n => if windowSize t.wsz ≤ n then some n else none
  | .v n => if vectorSize t.vsz ≤ n then some (256 + n) else none

/-- The address of the instruction `n` bytes on: the number is added to the address part of the PC, bit 63 kept (R53, R92). -/
def linkAfter (s : State) (n : Nat) : Word :=
  let pc := (thr s).pc
  if pc.getLsbD 63 then BitVec.ofNat 64 (2 ^ 63 + (pc.toNat + n) % 2 ^ 22) else BitVec.ofNat 64 ((pc.toNat + n) % 2 ^ 52)

/-- What a branch or jump with an offset in bytes leaves: the sum of the address part of the PC and the offset is the target,
which the transfer `go` takes; an odd target raises MISALIGN, a carry or borrow out of the address part ACCESS, a local-store
target at or beyond the capacity LSBOUND, with the target as the trap value, and then no transfer happens (R53). -/
def branchTo (s : State) (off : Int) (go : Word → State) : State :=
  let pc := (thr s).pc
  let near := pc.getLsbD 63
  let size : Int := if near then 2 ^ 22 else 2 ^ 52
  let sum : Int := pc.toNat % size + off
  let t : Word := BitVec.ofInt 64 (sum % size + if near then 2 ^ 63 else 0)
  if sum % 2 ≠ 0 then takeTrap s Cause.misalign none t
  else if sum < 0 ∨ size ≤ sum then takeTrap s Cause.access none t
  else if near = true ∧ (lsLimit s s.core (thr s).owner : Int) ≤ sum then takeTrap s Cause.lsbound none t
  else go t

/-- What a jump to a register-supplied target leaves: an odd target raises MISALIGN, one that is not of the form of R52 ACCESS,
a local-store target at or beyond the capacity LSBOUND, with the target as the trap value, and then no transfer happens
(R53, R93). -/
def jumpTo (s : State) (t : Word) (go : Word → State) : State :=
  let near := t.getLsbD 63
  let bound : Nat := if near then 2 ^ 63 + 2 ^ 22 else 2 ^ 52
  if t.toNat % 2 = 1 then takeTrap s Cause.misalign none t
  else if bound ≤ t.toNat then takeTrap s Cause.access none t
  else if near = true ∧ lsLimit s s.core (thr s).owner ≤ t.toNat % 2 ^ 22 then takeTrap s Cause.lsbound none t
  else go t

/-- The exact value of a finite number of a format. -/
def exactVal : Fp.Val → ℚ
  | .num n m e => (Fp.signedInt n m : ℚ) * (2 : ℚ) ^ e
  | _ => 0

/-- A value of a format that is a finite number. -/
def isNum : Fp.Val → Prop
  | .num _ _ _ => True
  | _ => False

/-- A value of a format that is an infinity. -/
def isInf : Fp.Val → Prop
  | .inf _ => True
  | _ => False

/-- One value of a format that is no NaN lies below another, the infinities beyond every number. -/
def FpBelow (x y : Fp.Val) : Prop :=
  (isNum x ∧ isNum y ∧ exactVal x < exactVal y) ∨ (isInf x ∧ x.sign = true ∧ (isNum y ∨ (isInf y ∧ y.sign = false))) ∨
  (isNum x ∧ isInf y ∧ y.sign = false)

/-- Two values of a format that are no NaN are equal, whatever the signs of zeros. -/
def FpSame (x y : Fp.Val) : Prop :=
  (isNum x ∧ isNum y ∧ exactVal x = exactVal y) ∨ (isInf x ∧ isInf y ∧ x.sign = y.sign)

/-- The outcome of an instruction of `n` bytes whose whole effect is that g[d] takes a value. -/
def gives (s : State) (d : BitVec 6) (x : Word) (n : Nat) : Out := .next (nextPc (wg s d x) n)

/-- An instruction of four bytes that rounds, with its result and the exceptions raised: g[d] and FFLAGS take them, and the
thread goes on; where a raised exception is enabled, FFLAGS alone takes them and ARITH is raised (R43). -/
def Rounds (i : Instr) (s : State) (d : BitVec 6) (r : Nat × BitVec 5) : Prop :=
  (trapsOn (thr s) r.2 = false → exec i s = gives (raiseFlags s r.2) d (BitVec.ofNat 64 r.1) 4) ∧
  (trapsOn (thr s) r.2 = true → exec i s = .next (takeTrap (raiseFlags s r.2) Cause.arith none (r.2.setWidth 64)))

/-- No vector memory instruction of the current thread has still to execute: its memory instructions issue (R269). -/
def NoVectorMemory (s : State) : Prop := (thr s).vq.any (fun e => vectorMemory e.instr) = false

/-- No store of the current thread is still in the store buffer of its core (R131, R133). -/
def NoBuffered (s : State) : Prop := buffered s s.core (thr s).uid = false

/-- An aligned access of `n` bytes at an offset from a well-formed pointer lies in the thread's own local store, its first
byte at place `k`, in a stack that is in no rotation pause (R97, R99, R100, R347). -/
def OwnAccess (s : State) (p : Word) (off : Int) (n k : Nat) : Prop :=
  wellFormed p = true ∧ 0 ≤ ptrAddr p + off ∧ ptrAddr p + off < 2 ^ 52 ∧ (ptrAddr p + off).toNat % n = 0 ∧
  rankCore (owner s) (ctx s).rank = s.core ∧ (ptrAddr p + off).toNat < lsLimit s s.core (thr s).owner ∧
  lsPlace s s.core (thr s).owner (ptrAddr p + off).toNat = some k ∧ parkedAt s k = false

/-- The byte a list of bytes stored from a place on leaves at a place that held `old`. -/
def storedAt (first : Nat) (bytes : List Byte) (k : Nat) (old : Byte) : Byte :=
  if first ≤ k ∧ k < first + bytes.length then bytes.getD (k - first) 0 else old

/-- A vector instruction issues and the vector unit executes it at once: the checks of R60 pass, nothing dispatched before
has still to execute, and fewer than 32 dispatches are pending (R157). -/
def VecIssues (s : State) (fs : List RegField) : Prop :=
  Issues s fs [] ∧ dispatchesOut s < 32 ∧ (thr s).vq = [] ∧ s.splitIssue = false

/-- A vector instruction dispatched under the next sequence number and executed at once, with its effect on the state and the
exceptions raised: FFLAGS takes them, and its ring entry is completed; where a raised exception is enabled, the entry is
faulted and ARITH is pending as a late fault. The thread goes on (R43, R157, R158). -/
def VecGives (i : Instr) (s : State) (f : State → State) (fl : BitVec 5) : Prop :=
  let t := raiseFlags (f (dispatchSeq s 0).2) fl
  let n := (thr s).seq
  (trapsOn (thr s) fl = false → exec i s = .next (nextPc (updThr t fun u => ringEnd u n 1 0) 4)) ∧
  (trapsOn (thr s) fl = true → exec i s =
    .next (nextPc (updThr t fun u => addLate (ringEnd u n 2 Cause.arith) ⟨n, Cause.arith, fl.setWidth 64⟩) 4))

/-- A vector instruction whose effect is that the lanes of `w` bits of v[d] take values. -/
def VecLanes (i : Instr) (s : State) (d : BitVec 6) (w : Nat) (fl : BitVec 5) (f : Nat → Nat) : Prop :=
  ∃ v : Vec, (∀ k < 512 / w, lane w v k = f k) ∧ VecGives i s (fun s => wv s d v) fl

/-- A vector instruction dispatched under the next sequence number that faults at once, in the state `t` its checks leave: its
ring entry is faulted, the fault is pending as a late fault, and the thread goes on (R157, R158). -/
def VecFaults (i : Instr) (s t : State) (cause : BitVec 8) (value : Word) : Prop :=
  exec i s = .next (nextPc (updThr t fun u => addLate (ringEnd u (thr s).seq 2 cause) ⟨(thr s).seq, cause, value⟩) 4)

/-- The union of the exceptions of `n` lanes. -/
def laneFlags (n : Nat) (f : Nat → BitVec 5) : BitVec 5 := (List.range n).foldl (fun g k => g ||| f k) 0

/-- Everything of a thread but its general registers, its PC, its slot state and its wait is as before. -/
def SameThread (t u : Thread) : Prop := u = { t with g := u.g, pc := u.pc, st := u.st, wait := u.wait }

/-- Everything of the state but the current thread is as before: every byte of memory read at its home, every other thread
slot, every core's buffers, accumulators and contexts, and every other part of the state. -/
def SameRest (s t : State) : Prop :=
  (∀ k, homeByte t k = homeByte s k) ∧
  (∀ c sl, (c ≠ s.core ∨ sl ≠ s.slot) → thrAt t c sl = thrAt s c sl) ∧
  (∀ c, { coreAt t c with threads := (coreAt s c).threads } = coreAt s c) ∧
  t = { s with cores := t.cores }

/-- The multiple `k` of a unit that a mode other than SR chooses for the magnitude `y`, counted in units, of a value that is
negative when `neg` (R35). -/
def RoundsTo (mode : Nat) (neg : Bool) (y : ℝ) (k : Nat) : Prop :=
  let down : Prop := (k : ℝ) ≤ y ∧ y < k + 1
  let up : Prop := (k : ℝ) - 1 < y ∧ y ≤ k
  match mode with
  | 0 => |y - k| ≤ 1 / 2 ∧ (|y - k| = 1 / 2 → k % 2 = 0)
  | 1 => down
  | 2 => if neg then up else down
  | 3 => if neg then down else up
  | _ => |y - k| ≤ 1 / 2 ∧ (|y - k| = 1 / 2 → y < k)

/-- The pattern and the exceptions `r` are the nonzero exact value `x` rounded once into a format: the multiple of the unit
in the last place of its binade, or of the smallest subnormal, that the mode chooses; beyond the largest finite value the
result of the table of R39, saturated where asked (R40); UF where the value rounded to unbounded exponent range is below the
smallest normal and the result is inexact (R35, R39 to R41). -/
def RoundedOnce (f : Fp.Fmt) (mode : Nat) (sat : Bool) (x : ℝ) (r : Nat × BitVec 5) : Prop :=
  ∃ (neg : Bool) (e : Int) (k ku : Nat),
    (neg = true ↔ x < 0) ∧ (2 : ℝ) ^ e ≤ |x| ∧ |x| < (2 : ℝ) ^ (e + 1) ∧
    let q : Int := max (e - f.fb) f.qmin
    RoundsTo mode neg (|x| / (2 : ℝ) ^ q) k ∧ RoundsTo mode neg (|x| / (2 : ℝ) ^ (e - f.fb)) ku ∧
    let top : ℝ := (exactVal (Fp.decode f f.maxBits) : ℝ)
    let finite : Prop := sat = true ∨ mode = 1 ∨ (mode = 2 ∧ neg = false) ∨ (mode = 3 ∧ neg = true)
    (top < k * (2 : ℝ) ^ q → r.2 = Fp.OF ||| Fp.NX ∧ (finite → r.1 = f.signed neg f.maxBits) ∧
      (¬finite → r.1 = if f.e4m3 then f.cnan else f.infBits neg)) ∧
    (k * (2 : ℝ) ^ q ≤ top → ∃ m, r.1 = f.signed neg m ∧ m < 2 ^ (f.width - 1) ∧ isNum (Fp.decode f m) ∧
      (exactVal (Fp.decode f m) : ℝ) = k * (2 : ℝ) ^ q ∧
      (|x| = k * (2 : ℝ) ^ q → r.2 = 0) ∧
      (|x| ≠ k * (2 : ℝ) ^ q → (ku * (2 : ℝ) ^ (e - f.fb) < (2 : ℝ) ^ (f.qmin + f.fb) → r.2 = Fp.UF ||| Fp.NX) ∧
        ((2 : ℝ) ^ (f.qmin + f.fb) ≤ ku * (2 : ℝ) ^ (e - f.fb) → r.2 = Fp.NX)))

/-- An integer quotient by a power of two, rounded half to even (R50). -/
def RneQuotient (t : Int) (k : Nat) (q : Int) : Prop :=
  2 * |t - q * 2 ^ k| ≤ 2 ^ k ∧ (2 * |t - q * 2 ^ k| = 2 ^ k → q % 2 = 0)

/-! ### ECF8 blocks as R30 to R33 and R275 describe them -/

/-- A byte of a block. -/
def ecfByte (bytes : List Byte) (i : Nat) : Nat := (bytes.getD i 0).toNat

/-- L, the length of the exponent stream in bits. -/
def ecfStream (bytes : List Byte) : Nat := ecfByte bytes 2 + 256 * ecfByte bytes 3

/-- The all-zero bit. -/
def ecfZero (bytes : List Byte) : Prop := ecfByte bytes 1 / 128 = 1

/-- A header that raises no decode fault. -/
def ecfHeader (n : Nat) (bytes : List Byte) : Prop :=
  ecfZero bytes ∨ (ecfByte bytes 0 / 32 = 0 ∧ ecfByte bytes 1 / 4 % 16 = 0 ∧ ecfStream bytes ≤ 5 * n ∧
    (ecfByte bytes 1 / 64 % 2 = 0 → ecfByte bytes 0 ≠ 31))

/-- The bytes a block of `n` elements takes, padding included. -/
def ecfLength (n : Nat) (bytes : List Byte) : Nat :=
  if ecfByte bytes 1 / 128 = 1 then 8 else (4 + n / 2 + (ecfStream bytes + 7) / 8 + 7) / 8 * 8

/-- Bit `i` of the exponent stream of a block of `n` elements. -/
def ecfBit (n : Nat) (bytes : List Byte) (i : Nat) : Bool := (bytes.getD (4 + n / 2 + i / 8) 0).getLsbD (7 - i % 8)

/-- The `k` bits from place `p` on are a number, the most significant first. -/
def NumberAt (bit : Nat → Bool) (p k v : Nat) : Prop := v < 2 ^ k ∧ ∀ i < k, bit (p + i) = v.testBit (k - 1 - i)

/-- Code table 0: the code, its length and the token, the absolute one apart. -/
def ecfCodes : List (Nat × Nat × Ecf.Token) :=
  [(0b0, 1, .delta 0), (0b100, 3, .delta 1), (0b101, 3, .delta (-1)), (0b1100, 4, .delta 2), (0b1101, 4, .delta (-2)),
   (0b11100, 5, .delta 3), (0b11101, 5, .delta (-3)), (0b111100, 6, .zero)]

/-- A token takes the bits from place `p` up to place `p'`, which lies within a stream of `len` bits. -/
def TokenAt (bit : Nat → Bool) (len p p' : Nat) (t : Ecf.Token) : Prop :=
  p' ≤ len ∧ ((∃ c ∈ ecfCodes, c.2.2 = t ∧ p' = p + c.2.1 ∧ NumberAt bit p c.2.1 c.1) ∨
    ∃ e, t = .absolute e ∧ p' = p + 11 ∧ NumberAt bit p 6 0b111101 ∧ NumberAt bit (p + 6) 5 e)

/-- One element decodes to the E5M3 pattern `x`, the running exponent going from `e` to `e'` (R32). -/
def ElementAt (raw : Prop) (off : Int) (bit : Nat → Bool) (len nib p p' : Nat) (e e' : Int) (x : Nat) : Prop :=
  let held : Prop := 0 ≤ e' ∧ e' ≤ 30 ∧ (x : Int) = nib / 8 * 256 + 8 * e' + nib % 8
  (raw → p' = p + 5 ∧ p' ≤ len ∧ NumberAt bit p 5 e'.toNat ∧ held) ∧
  (¬raw → ∃ t, TokenAt bit len p p' t ∧
    match t with
    | .delta d => e' = e + d + off ∧ held
    | .absolute y => e' = y ∧ held
    | .zero => e' = e ∧ x = nib / 8 * 256)

/-- The offset of a code table. -/
def ecfOffset (t : Nat) : Int := [0, -1, -2, 1].getD t 0

/-- A block decodes to `n` E5M3 patterns, without a decode fault (R32). -/
def EcfDecodes (n : Nat) (bytes : List Byte) (xs : List Nat) : Prop :=
  xs.length = n ∧ ecfHeader n bytes ∧ (ecfZero bytes → ∀ x ∈ xs, x = 0) ∧
  (¬ecfZero bytes → ∃ (pos : Nat → Nat) (e : Nat → Int),
    pos 0 = 0 ∧ e 0 = ecfByte bytes 0 ∧ pos n = ecfStream bytes ∧
    ∀ j < n,
      let nib := ecfByte bytes (4 + j / 2) / 16 ^ (j % 2) % 16
      ElementAt (ecfByte bytes 1 / 64 % 2 = 1) (ecfOffset (ecfByte bytes 1 % 4)) (ecfBit n bytes) (ecfStream bytes) nib
        (pos j) (pos (j + 1)) (e j) (e (j + 1)) (xs.getD j 0))

/-- The bits that patterns take under a code table's offset, from a running exponent: a delta token wherever the delta lies
from −3 to 3, a zero token for a zero, an absolute token elsewhere (R275). -/
def ecfTokenBits (off : Int) : List Nat → Int → Nat
  | [], _ => 0
  | x :: xs, e =>
    if x % 256 = 0 then 6 + ecfTokenBits off xs e
    else [1, 3, 4, 5].getD ((x / 8 % 32 : Nat) - e - off).natAbs 11 + ecfTokenBits off xs (x / 8 % 32 : Nat)

/-- The block that VECFE builds for `n` E5M3 patterns (R275). -/
def EcfBlockOf (n : Nat) (xs : List Nat) (b : List Byte) : Prop :=
  let h := ecfByte b 1
  let base := ecfByte b 0
  let need (t : Nat) : Nat := ecfTokenBits (ecfOffset t) xs base
  ((∀ x ∈ xs, x = 0) → b = [0, 0x80, 0, 0, 0, 0, 0, 0]) ∧
  ((∃ x ∈ xs, x ≠ 0) → ¬ecfZero b ∧ EcfDecodes n b xs ∧ b.length = ecfLength n b ∧
    (∀ i < n, xs.getD i 0 % 256 ≠ 0 → (∀ j < i, xs.getD j 0 % 256 = 0) → base = xs.getD i 0 / 8 % 32) ∧
    ((∀ x ∈ xs, x % 256 = 0) → base = 0) ∧
    (∀ u < 4, need (h % 4) ≤ need u) ∧ (∀ u < h % 4, need (h % 4) < need u) ∧
    (h / 64 % 2 = 1 ↔ 5 * n < need (h % 4)) ∧ ecfStream b = min (need (h % 4)) (5 * n) ∧
    ∀ i, ecfStream b ≤ i → ecfBit n b i = false)

/-- A lane rounded to E5M3 by VECFE, with the exceptions raised (R275). -/
def EcfRounded (v : Fp.Val) (r : Nat × BitVec 5) : Prop :=
  let x : ℝ := (exactVal v : ℝ)
  let largest := Fp.e5m3.signed v.sign Fp.e5m3.maxBits
  (v.isNan → r = (0, Fp.NV)) ∧ (isInf v → r = (largest, Fp.OF)) ∧
  (isNum v → (61440 < |x| → r = (largest, Fp.OF ||| Fp.NX)) ∧ (x = 0 → r = (Fp.e5m3.signed v.sign 0, 0)) ∧
    (x ≠ 0 → |x| ≤ 61440 → RoundedOnce Fp.e5m3 0 false x r))

end Sys2Proof.Machine
end

