-- ==== Sys2Proof/Certificates/Slice0/Obligations.lean ====
section
/-! DEFINITION. The statements for the provers. Each docstring says which rule of spec/ its statement formalises. -/

section

open Sys2Proof Sys2Proof.Machine

/-! ### Integer instructions -/

/-- R10: reads of g0 return zero and writes to g0 are discarded; so an ADD to g0 changes the PC alone. -/
def Obligations.RegisterZeroReadsZeroAndDiscardsWrites : Prop :=
  (∀ s : State, rg s 0 = 0) ∧
  (∀ (s : State) (x : Word), thr (wg s 0 x) = thr s) ∧
  ∀ (s : State) (a b : BitVec 6), Issues s [G (0 : BitVec 6), G a, G b] [] →
    ∃ t, exec (.add 0 a b) s = .next t ∧ SameRest s t ∧
      thr t = { thr s with pc := pcPlus (thr s).pc 4, st := (thr s).st.goOn, wait := none }

/-- R74: every member of major 0x00 writes g[rd] as the table says, for all operands, and goes on.
R75, R76 and R80: the immediate forms, the shifts by an immediate and the upper immediates write g[rd] as the rules
say, and go on. -/
def Obligations.IntegerResults : Prop :=
  (∀ (s : State) (d a b : BitVec 6), Issues s [G d, G a, G b] [] →
     let x := rg s a
     let y := rg s b
     let sat (z : Int) : Word := BitVec.ofInt 64 (max (-(2 ^ 63)) (min (2 ^ 63 - 1) z))
     exec (.add d a b) s = gives s d (x + y) 4 ∧
     exec (.sub d a b) s = gives s d (x - y) 4 ∧
     exec (.and d a b) s = gives s d (x &&& y) 4 ∧
     exec (.or d a b) s = gives s d (x ||| y) 4 ∧
     exec (.xor d a b) s = gives s d (x ^^^ y) 4 ∧
     exec (.andn d a b) s = gives s d (x &&& ~~~y) 4 ∧
     exec (.orn d a b) s = gives s d (x ||| ~~~y) 4 ∧
     exec (.xnor d a b) s = gives s d (~~~(x ^^^ y)) 4 ∧
     exec (.sll d a b) s = gives s d (x <<< (y.toNat % 64)) 4 ∧
     exec (.srl d a b) s = gives s d (x >>> (y.toNat % 64)) 4 ∧
     exec (.sra d a b) s = gives s d (BitVec.ofInt 64 (x.toInt / 2 ^ (y.toNat % 64))) 4 ∧
     (∃ r, exec (.rot d a b) s = gives s d r 4 ∧ ∀ i < 64, r.getLsbD i = x.getLsbD ((i + y.toNat % 64) % 64)) ∧
     exec (.slt d a b) s = gives s d (if x.toInt < y.toInt then 1 else 0) 4 ∧
     exec (.sltu d a b) s = gives s d (if x.toNat < y.toNat then 1 else 0) 4 ∧
     exec (.min d a b) s = gives s d (BitVec.ofInt 64 (min x.toInt y.toInt)) 4 ∧
     exec (.max d a b) s = gives s d (BitVec.ofInt 64 (max x.toInt y.toInt)) 4 ∧
     exec (.minu d a b) s = gives s d (BitVec.ofNat 64 (min x.toNat y.toNat)) 4 ∧
     exec (.maxu d a b) s = gives s d (BitVec.ofNat 64 (max x.toNat y.toNat)) 4 ∧
     exec (.addw d a b) s = gives s d (sx32 (x + y)) 4 ∧
     exec (.subw d a b) s = gives s d (sx32 (x - y)) 4 ∧
     exec (.adds d a b) s = gives s d (sat (x.toInt + y.toInt)) 4 ∧
     exec (.subs d a b) s = gives s d (sat (x.toInt - y.toInt)) 4 ∧
     exec (.sllw d a b) s = gives s d (sx ((x.setWidth 32 : BitVec 32) <<< (y.toNat % 32))) 4 ∧
     exec (.srlw d a b) s = gives s d (sx ((x.setWidth 32 : BitVec 32) >>> (y.toNat % 32))) 4 ∧
     exec (.sraw d a b) s = gives s d (BitVec.ofInt 64 ((x.setWidth 32 : BitVec 32).toInt / 2 ^ (y.toNat % 32))) 4) ∧
  (∀ (s : State) (d a : BitVec 6), Issues s [G d, G a] [] →
     let x := rg s a
     (∀ i : BitVec 13,
       exec (.addi d a i) s = gives s d (x + BitVec.ofInt 64 i.toInt) 4 ∧
       exec (.andi d a i) s = gives s d (x &&& BitVec.ofInt 64 i.toInt) 4 ∧
       exec (.ori d a i) s = gives s d (x ||| BitVec.ofInt 64 i.toInt) 4 ∧
       exec (.xori d a i) s = gives s d (x ^^^ BitVec.ofInt 64 i.toInt) 4 ∧
       exec (.slti d a i) s = gives s d (if x.toInt < i.toInt then 1 else 0) 4 ∧
       exec (.sltiu d a i) s = gives s d (if x.toNat < (BitVec.ofInt 64 i.toInt).toNat then 1 else 0) 4) ∧
     (∀ h : BitVec 6,
       exec (.slli d a h) s = gives s d (x <<< h.toNat) 4 ∧
       exec (.srli d a h) s = gives s d (x >>> h.toNat) 4 ∧
       exec (.srai d a h) s = gives s d (BitVec.ofInt 64 (x.toInt / 2 ^ h.toNat)) 4 ∧
       ∃ r, exec (.roti d a h) s = gives s d r 4 ∧ ∀ i < 64, r.getLsbD i = x.getLsbD ((i + h.toNat) % 64)) ∧
     ∀ i : BitVec 19,
       exec (.lui d i) s = gives s d (BitVec.ofInt 64 (i.toInt * 2 ^ 13)) 4 ∧
       exec (.addpc d i) s = gives s d ((thr s).pc + BitVec.ofInt 64 (i.toInt * 2 ^ 13)) 4)

/-- R57: each compact form has exactly the effect of its 32-bit equivalent, with the PC moving by 2.
R57 with R91 and R92: the compact branches and the compact jump, whatever the PC and the target, with the traps of R53. -/
def Obligations.CompactResults : Prop :=
  (∀ (s : State) (d r : BitVec 4), Issues s [G d, G r] [] →
     let gd : BitVec 6 := d.setWidth 6
     let x := rg s gd
     let y := rg s (r.setWidth 6)
     exec (.mov d r) s = gives s gd y 2 ∧
     exec (.addCompact d r) s = gives s gd (x + y) 2 ∧
     exec (.subCompact d r) s = gives s gd (x - y) 2 ∧
     exec (.andCompact d r) s = gives s gd (x &&& y) 2 ∧
     exec (.orCompact d r) s = gives s gd (x ||| y) 2 ∧
     exec (.xorCompact d r) s = gives s gd (x ^^^ y) 2 ∧
     (∀ i : BitVec 6,
       exec (.li d i) s = gives s gd (BitVec.ofInt 64 i.toInt) 2 ∧
       exec (.addiCompact d i) s = gives s gd (x + BitVec.ofInt 64 i.toInt) 2 ∧
       exec (.slliCompact d i) s = gives s gd (x <<< i.toNat) 2 ∧
       exec (.srliCompact d i) s = gives s gd (x >>> i.toNat) 2 ∧
       exec (.sraiCompact d i) s = gives s gd (BitVec.ofInt 64 (x.toInt / 2 ^ i.toNat)) 2) ∧
     exec .nopCompact s = .next (nextPc s 2)) ∧
  (∀ (s : State) (r : BitVec 4), isFollower s = false →
     let x := rg s (r.setWidth 6)
     (∀ o : BitVec 6, Issues s [G r] [] →
       let taken := branchTo s (2 * o.toInt) (goTo s)
       exec (.beqz r o) s = .next (if x = 0 then taken else nextPc s 2) ∧
       exec (.bnez r o) s = .next (if x = 0 then nextPc s 2 else taken)) ∧
     ∀ o : BitVec 10, Issues s [] [] → exec (.jCompact o) s = .next (branchTo s (2 * o.toInt) (goTo s)))

/-- R77: multiplication and division, with the stated results of a zero divisor and of the one overflow; no member
traps.
R78 and R79: bit counts, byte reversal, selection and bit fields. -/
def Obligations.MultiplyDivideAndBitResults : Prop :=
  (∀ (s : State) (d a b : BitVec 6), Issues s [G d, G a, G b] [] →
     let x := rg s a
     let y := rg s b
     let xw : Int := (x.setWidth 32 : BitVec 32).toInt
     let yw : Int := (y.setWidth 32 : BitVec 32).toInt
     exec (.mul d a b) s = gives s d (BitVec.ofNat 64 (x.toNat * y.toNat)) 4 ∧
     exec (.mulh d a b) s = gives s d (BitVec.ofInt 64 (x.toInt * y.toInt / 2 ^ 64)) 4 ∧
     exec (.mulhu d a b) s = gives s d (BitVec.ofNat 64 (x.toNat * y.toNat / 2 ^ 64)) 4 ∧
     exec (.mulhm d a b) s = gives s d (BitVec.ofInt 64 (x.toInt * y.toNat / 2 ^ 64)) 4 ∧
     exec (.div d a b) s = gives s d (BitVec.ofInt 64 (if y = 0 then -1 else Int.tdiv x.toInt y.toInt)) 4 ∧
     exec (.rem d a b) s = gives s d (if y = 0 then x else BitVec.ofInt 64 (Int.tmod x.toInt y.toInt)) 4 ∧
     exec (.divu d a b) s = gives s d (if y = 0 then BitVec.allOnes 64 else BitVec.ofNat 64 (x.toNat / y.toNat)) 4 ∧
     exec (.remu d a b) s = gives s d (if y = 0 then x else BitVec.ofNat 64 (x.toNat % y.toNat)) 4 ∧
     exec (.mulw d a b) s = gives s d (sx32 (x * y)) 4 ∧
     exec (.divw d a b) s = gives s d (if yw = 0 then BitVec.allOnes 64 else sx32 (BitVec.ofInt 64 (Int.tdiv xw yw))) 4 ∧
     exec (.remw d a b) s = gives s d (if yw = 0 then sx32 x else sx32 (BitVec.ofInt 64 (Int.tmod xw yw))) 4) ∧
  (∀ (s : State) (d a b : BitVec 6), Issues s [G d, G a, G b] [] →
     let x := rg s a
     let y := rg s b
     let p := y.toNat % 64
     let w := min ((y.toNat / 256) % 64 + 1) (64 - p)
     (∃ n : Nat, exec (.clz d a) s = gives s d (BitVec.ofNat 64 n) 4 ∧ n ≤ 64 ∧ x.toNat < 2 ^ (64 - n) ∧
       (x ≠ 0 → n < 64 ∧ 2 ^ (63 - n) ≤ x.toNat) ∧ (x = 0 → n = 64)) ∧
     (∃ n : Nat, exec (.ctz d a) s = gives s d (BitVec.ofNat 64 n) 4 ∧ (∀ i < n, x.getLsbD i = false) ∧
       (x ≠ 0 → x.getLsbD n = true) ∧ (x = 0 → n = 64)) ∧
     exec (.popc d a) s = gives s d (BitVec.ofNat 64 ((List.range 64).filter fun i => x.getLsbD i).length) 4 ∧
     (∃ r, exec (.bswap d a) s = gives s d r 4 ∧ ∀ i < 8, r.extractLsb' (8 * i) 8 = x.extractLsb' (8 * (7 - i)) 8) ∧
     exec (.sel d a b) s = gives s d (if rg s d = 0 then y else x) 4 ∧
     (∃ r, exec (.extu d a b) s = gives s d r 4 ∧ ∀ i < 64, r.getLsbD i = (decide (i < w) && x.getLsbD (p + i))) ∧
     (∃ r, exec (.ext d a b) s = gives s d r 4 ∧
       ∀ i < 64, r.getLsbD i = if i < w then x.getLsbD (p + i) else x.getLsbD (p + w - 1)) ∧
     ∃ r, exec (.ins d a b) s = gives s d r 4 ∧
       ∀ i < 64, r.getLsbD i = if p ≤ i ∧ i < p + w then x.getLsbD (i - p) else (rg s d).getLsbD i)

/-- R111 and R112: a pointer moves within its 52 address bits and keeps its tag, and a carry or borrow raises TAG with the
pointer as value; PTAG forms only well-formed pointers; PGTAG and PCHK never trap.
R81: the index registers, and the general register that base and index name, which must lie in the window. -/
def Obligations.PointerResults : Prop :=
  (∀ (s : State) (d a b : BitVec 6), Issues s [G d, G a, G b] [] →
     let p := rg s a
     let y := rg s b
     let moved (x : Int) : Out :=
       if 0 ≤ ptrAddr p + x ∧ ptrAddr p + x < 2 ^ 52
       then gives s d (BitVec.ofNat 64 (p.toNat / 2 ^ 52 * 2 ^ 52 + (ptrAddr p + x).toNat)) 4
       else .next (takeTrap s Cause.tag none p)
     exec (.padd d a b) s = moved y.toInt ∧
     exec (.psub d a b) s = moved (-y.toInt) ∧
     (∀ i : BitVec 13, exec (.paddi d a i) s = moved i.toInt) ∧
     (∀ w ∈ [1, 2, 4, 8], fmtBits (ptrFmt p) = 8 * w → exec (.pidx d a b) s = moved (y.toInt * w)) ∧
     (fmtBits (ptrFmt p) = 0 → exec (.pidx d a b) s = .next (takeTrap s Cause.tag none p)) ∧
     (ptrFmt p = 0x18 ∨ ptrFmt p = 0x19 → exec (.pblk d a b) s = moved (y.toInt * 2 ^ ptrBlen p)) ∧
     (ptrFmt p ≠ 0x18 → ptrFmt p ≠ 0x19 → exec (.pblk d a b) s = .next (takeTrap s Cause.tag none p)) ∧
     (let q : Word := BitVec.ofNat 64 (y.toNat % 2 ^ 6 * 2 ^ 58 + y.toNat / 2 ^ 6 % 2 ^ 4 * 2 ^ 54 + ptrAddr p)
      exec (.ptag d a b) s = if wellFormed q then gives s d q 4 else .next (takeTrap s Cause.tag none q)) ∧
     exec (.pgtag d a) s = gives s d (BitVec.ofNat 64 (ptrBlen p * 2 ^ 6 + ptrFmt p)) 4 ∧
     ∃ r : Word, exec (.pchk d a b) s = gives s d r 4 ∧ r.toNat < 8 ∧ (r.getLsbD 0 = wellFormed p) ∧
       (r.getLsbD 1 = decide (ptrFmt p = y.toNat % 64)) ∧
       (∀ w ∈ [1, 2, 4, 8], fmtBits (ptrFmt p) = 8 * w → r.getLsbD 2 = decide (ptrAddr p % w = 0)) ∧
       (ptrFmt p = 0x14 → r.getLsbD 2 = decide (ptrAddr p % 8 = 0)) ∧
       (fmtBits (ptrFmt p) = 0 → ptrFmt p ≠ 0x14 → r.getLsbD 2 = false)) ∧
  (∀ (s : State) (d a : BitVec 6) (k : BitVec 2),
     let x := (thr s).getIx k.toNat
     let e := a.toNat + x.toNat
     (Issues s [G d] [] → exec (.ixget d k) s = gives s d x 4) ∧
     (Issues s [G a] [] →
       exec (.ixset a k) s = .next (nextPc (updThr s fun t => t.setIx k.toNat (rg s a)) 4) ∧
       exec (.ixadd a k) s = .next (nextPc (updThr s fun t => t.setIx k.toNat (x + rg s a)) 4)) ∧
     (Issues s [G d] [] → e < windowSize (thr s).wsz → hazard (thr s) [.g e] = false →
       exec (.rget d a k) s = gives s d ((thr s).getG e) 4 ∧
       exec (.rput d a k) s = .next (nextPc (wgn s e (rg s d)) 4)) ∧
     (Issues s [G d] [] → windowSize (thr s).wsz ≤ e →
       exec (.rget d a k) s = .next (takeTrap s Cause.regbound none (BitVec.ofNat 64 (min e 255))) ∧
       exec (.rput d a k) s = .next (takeTrap s Cause.regbound none (BitVec.ofNat 64 (min e 255)))))

/-! ### Scalar floating point -/

/-- R83 and R90, with R43: the instructions that round under FRM write the rounded result and OR the exceptions into
FFLAGS, unless a raised exception is enabled.
R84 to R87: the instructions that round nothing, whatever FRM holds; the minimum, the maximum, the comparisons and the kind in
each format, with signed zeros and NaNs.
R36: under an FRM of 5, 6 or 7 each of the instructions that round under FRM, AMOFADD among them, raises ILLEGAL before any
effect. -/
def Obligations.FloatResults : Prop :=
  (∀ (s : State) (d a b c : BitVec 6) (w : BitVec 1), (thr s).frm.toNat < 5 →
     let f := scalarFmt w
     let m := (thr s).frm.toNat
     let x := (rg s a).toNat % 2 ^ f.width
     let y := (rg s b).toNat % 2 ^ f.width
     let z := (rg s c).toNat % 2 ^ f.width
     (Issues s [G d, G a, G b] [] →
       Rounds (.fadd d a b w) s d (Fp.add f m x y) ∧ Rounds (.fsub d a b w) s d (Fp.sub f m x y) ∧
       Rounds (.fmul d a b w) s d (Fp.mul f m x y) ∧ Rounds (.fdiv d a b w) s d (Fp.div f m x y)) ∧
     (Issues s [G d, G a] [] → Rounds (.fsqrt d a w) s d (Fp.sqrt f m x)) ∧
     (Issues s [G d, G a, G b, G c] [] → Rounds (.ffma d a b w c) s d (Fp.fma f m x y z))) ∧
  (∀ (s : State) (d a b : BitVec 6) (w : BitVec 1), Issues s [G d, G a, G b] [] →
     let f := scalarFmt w
     let x := (rg s a).toNat % 2 ^ f.width
     let y := (rg s b).toNat % 2 ^ f.width
     let top := 2 ^ (f.width - 1)
     let signed (neg : Bool) : Word := BitVec.ofNat 64 (x % top + if neg then top else 0)
     let truth (r : Bool × BitVec 5) : Nat × BitVec 5 := (if r.1 then 1 else 0, r.2)
     Rounds (.fmin d a b w) s d (Fp.minMax f false x y) ∧
     Rounds (.fmax d a b w) s d (Fp.minMax f true x y) ∧
     Rounds (.feq d a b w) s d (truth (Fp.compare f 0 x y)) ∧
     Rounds (.flt d a b w) s d (truth (Fp.compare f 1 x y)) ∧
     Rounds (.fle d a b w) s d (truth (Fp.compare f 2 x y)) ∧
     exec (.fscpy d a b w) s = gives s d (signed (y / top % 2 == 1)) 4 ∧
     exec (.fsinv d a b w) s = gives s d (signed (y / top % 2 != 1)) 4 ∧
     exec (.fsxor d a b w) s = gives s d (signed ((x / top % 2 == 1) != (y / top % 2 == 1))) 4 ∧
     exec (.fkind d a w) s = gives s d (BitVec.ofNat 64 (Fp.kind f x)) 4) ∧
  (∀ (s : State) (d a b c : BitVec 6) (w : BitVec 1) (z o : BitVec 2), 5 ≤ (thr s).frm.toNat → canIssue (thr s) = true →
     outstanding (thr s) = false →
     ∀ i ∈ [Instr.fadd d a b w, .fsub d a b w, .fmul d a b w, .fdiv d a b w, .fsqrt d a w, .ffma d a b w c, .amofadd d a b z o],
       exec i s = .next (takeTrap s Cause.illegal none i.word)) ∧
  (∀ f ∈ [Fp.fp64, Fp.fp32, Fp.bf16, Fp.fp16], ∀ a b : Nat,
     let x := Fp.decode f a
     let y := Fp.decode f b
     let nv (p : Bool) : BitVec 5 := if p then Fp.NV else 0
     let signals := x.isSig || y.isSig
     let below (x y : Fp.Val) : Prop := FpBelow x y ∨ (FpSame x y ∧ x.sign = true ∧ y.sign = false)
     (x.isNan = false → y.isNan = false →
       (below x y → Fp.minMax f false a b = (a, 0) ∧ Fp.minMax f true a b = (b, 0)) ∧
       (below y x → Fp.minMax f false a b = (b, 0) ∧ Fp.minMax f true a b = (a, 0)) ∧
       (FpSame x y → x.sign = y.sign → ∀ m, Fp.minMax f m a b = (a, 0) ∨ Fp.minMax f m a b = (b, 0)) ∧
       ((Fp.compare f 0 a b).1 = true ↔ FpSame x y) ∧
       ((Fp.compare f 1 a b).1 = true ↔ FpBelow x y) ∧
       ((Fp.compare f 2 a b).1 = true ↔ FpBelow x y ∨ FpSame x y) ∧
       ∀ m < 3, (Fp.compare f m a b).2 = 0) ∧
     (∀ m, (x.isNan = true → y.isNan = false → Fp.minMax f m a b = (b, nv signals)) ∧
       (x.isNan = false → y.isNan = true → Fp.minMax f m a b = (a, nv signals)) ∧
       (x.isNan = true → y.isNan = true → Fp.minMax f m a b = (f.cnan, nv signals))) ∧
     (x.isNan = true ∨ y.isNan = true →
       Fp.compare f 0 a b = (false, nv signals) ∧ Fp.compare f 1 a b = (false, Fp.NV) ∧
       Fp.compare f 2 a b = (false, Fp.NV)) ∧
     let neg : Nat := if a / 2 ^ (f.width - 1) % 2 = 1 then 8 else 0
     let least : ℚ := 2 ^ (f.qmin + f.fb)
     let v := exactVal x
     (x.isNan = true → Fp.kind f a = neg + if x.isSig then 5 else 4) ∧
     (isInf x → Fp.kind f a = neg + 3) ∧
     (isNum x → v = 0 → Fp.kind f a = neg) ∧
     (isNum x → ∀ e : Int, (2 : ℚ) ^ e ≤ |v| → |v| < (2 : ℚ) ^ (e + 1) →
       Fp.kind f a = neg + (if |v| < least then 1 else 2) + (e % 2 ^ 16).toNat * 2 ^ 8))

/-- R88 and R89, with R36, R37 and R40: FCVT delivers the exact source value in the destination format, and under SR the
seed advances once. -/
def Obligations.FloatConversionResults : Prop :=
  ∀ (s : State) (d a : BitVec 6) (r : BitVec 3) (u : BitVec 1) (e f : BitVec 3), Issues s [G d, G a] [] →
    (Instr.fcvt d a r u e f).wf = true →
    let mode := if r = 6 then (thr s).frm.toNat else r.toNat
    let v := cvtSource f.toNat (rg s a)
    (mode < 5 → e.toNat ≤ 1 →
      let x := Fp.toInt (if e = 0 then 32 else 64) mode v
      (trapsOn (thr s) x.2 = false →
        exec (.fcvt d a r u e f) s = gives (raiseFlags s x.2) d (BitVec.ofInt 64 x.1) 4)) ∧
    (mode < 5 → 2 ≤ e.toNat → Rounds (.fcvt d a r u e f) s d (Fp.toFloat (cvtFmt e.toNat) mode (u == 1) v)) ∧
    (mode = 5 → e = 2 ∨ e = 3 ∨ e = 6 ∨ e = 7 →
      let seed := Fp.xorshift (thr s).srseed
      let x := Fp.toFloatSR (cvtFmt e.toNat) (u == 1) seed v
      (trapsOn (thr s) x.2 = false →
        exec (.fcvt d a r u e f) s = gives (updThr (raiseFlags s x.2) fun t => { t with srseed := seed }) d
          (BitVec.ofNat 64 x.1) 4)) ∧
    (mode = 5 → e = 0 ∨ e = 1 ∨ e = 4 ∨ e = 5 →
      exec (.fcvt d a r u e f) s = .next (takeTrap s Cause.illegal none (Instr.fcvt d a r u e f).word)) ∧
    (6 ≤ mode → exec (.fcvt d a r u e f) s = .next (takeTrap s Cause.illegal none (Instr.fcvt d a r u e f).word))

/-- R35, R39 to R41, R83 and R90: in FP64, FP32, BF16 and FP16 a sum, a difference, a product, a quotient, a square root and
a fused product and sum of finite numbers are the exact value rounded once; zeros, infinities and NaNs give the results and
the exceptions that the rules list. R272: VRCP and VRSQ are rounded once, VEXP2 of an integer and VLOG2 of a power of two are
those of the exact value, and the special operands of the five functions give what the table lists; of the other operands of
VEXP2, VLOG2 and VTANH nothing is said here (assumption 35).
R27: an operation with a NaN operand delivers the canonical NaN, and raises NV alone, and exactly when an operand signals.
R37, R39 and R40: a conversion to a floating format delivers its exact source rounded once, saturated where asked; one to an
integer the rounded integer, or the nearest limit with NV; under SR the magnitude is the one below or the next, by the draw.
R38: the generator of stochastic rounding never leaves a nonzero state for zero, and no two states have the same
successor. -/
def Obligations.RoundingRules : Prop :=
  (∀ f ∈ [Fp.fp64, Fp.fp32, Fp.bf16, Fp.fp16], ∀ m < 5, ∀ a b c : Nat,
     let x := Fp.decode f a
     let y := Fp.decode f b
     let z := Fp.decode f c
     let v (u : Fp.Val) : ℝ := (exactVal u : ℝ)
     let nan (sig : Bool) : Nat × BitVec 5 := (f.cnan, if sig then Fp.NV else 0)
     let zero (neg : Bool) : Nat × BitVec 5 := (f.signed neg 0, 0)
     let inf (neg : Bool) : Nat × BitVec 5 := (f.infBits neg, 0)
     let opposite := x.sign != y.sign
     -- finite numbers
     (isNum x → isNum y →
       (v x + v y ≠ 0 → RoundedOnce f m false (v x + v y) (Fp.add f m a b)) ∧
       (v x + v y = 0 → Fp.add f m a b = zero (if v x = 0 ∧ x.sign = y.sign then x.sign else m == 2)) ∧
       (v x - v y ≠ 0 → RoundedOnce f m false (v x - v y) (Fp.sub f m a b)) ∧
       (v x - v y = 0 → Fp.sub f m a b = zero (if v x = 0 ∧ x.sign ≠ y.sign then x.sign else m == 2)) ∧
       (v x * v y ≠ 0 → RoundedOnce f m false (v x * v y) (Fp.mul f m a b)) ∧
       (v x * v y = 0 → Fp.mul f m a b = zero opposite) ∧
       (v x ≠ 0 → v y ≠ 0 → RoundedOnce f m false (v x / v y) (Fp.div f m a b)) ∧
       (v x = 0 → v y ≠ 0 → Fp.div f m a b = zero opposite) ∧
       (v x ≠ 0 → v y = 0 → Fp.div f m a b = (f.infBits opposite, Fp.DZ)) ∧
       (v x = 0 → v y = 0 → Fp.div f m a b = nan true) ∧
       (isNum z →
         (v x * v y + v z ≠ 0 → RoundedOnce f m false (v x * v y + v z) (Fp.fma f m a b c)) ∧
         (v x * v y + v z = 0 →
           Fp.fma f m a b c = zero (if v z = 0 ∧ opposite = z.sign then opposite else m == 2)))) ∧
     (isNum x →
       (0 < v x → RoundedOnce f m false (Real.sqrt (v x)) (Fp.sqrt f m a)) ∧
       (v x = 0 → Fp.sqrt f m a = zero x.sign) ∧
       (v x < 0 → Fp.sqrt f m a = nan true)) ∧
     -- infinities
     (isInf x → isInf y →
       Fp.add f m a b = (if x.sign = y.sign then inf x.sign else nan true) ∧
       Fp.sub f m a b = (if x.sign ≠ y.sign then inf x.sign else nan true) ∧
       Fp.mul f m a b = inf opposite ∧ Fp.div f m a b = nan true) ∧
     (isInf x → isNum y →
       Fp.add f m a b = inf x.sign ∧ Fp.sub f m a b = inf x.sign ∧ Fp.div f m a b = inf opposite ∧
       Fp.mul f m a b = if v y = 0 then nan true else inf opposite) ∧
     (isNum x → isInf y →
       Fp.add f m a b = inf y.sign ∧ Fp.sub f m a b = inf (!y.sign) ∧ Fp.div f m a b = zero opposite ∧
       Fp.mul f m a b = if v x = 0 then nan true else inf opposite) ∧
     (isInf x → Fp.sqrt f m a = if x.sign then nan true else inf false) ∧
     ((isInf x ∧ isNum y ∧ v y = 0) ∨ (isNum x ∧ v x = 0 ∧ isInf y) → Fp.fma f m a b c = nan true) ∧
     ((isInf x ∧ ¬ y.isNan ∧ ¬ (isNum y ∧ v y = 0)) ∨ (isInf y ∧ ¬ x.isNan ∧ ¬ (isNum x ∧ v x = 0)) →
       (isNum z ∨ (isInf z ∧ z.sign = opposite) → Fp.fma f m a b c = inf opposite) ∧
       (isInf z → z.sign ≠ opposite → Fp.fma f m a b c = nan true)) ∧
     (isNum x → isNum y → isInf z → Fp.fma f m a b c = inf z.sign) ∧
     -- NaNs
     (x.isNan || y.isNan →
       let r := nan (x.isSig || y.isSig)
       Fp.add f m a b = r ∧ Fp.sub f m a b = r ∧ Fp.mul f m a b = r ∧ Fp.div f m a b = r ∧
       Fp.fma f m a b c = nan (x.isSig || y.isSig || z.isSig)) ∧
     (x.isNan → Fp.sqrt f m a = nan x.isSig) ∧
     (z.isNan → ¬ (isInf x ∧ isNum y ∧ v y = 0) → ¬ (isNum x ∧ v x = 0 ∧ isInf y) →
       Fp.fma f m a b c = nan (x.isSig || y.isSig || z.isSig))) ∧
  (∀ f ∈ [Fp.fp32, Fp.bf16, Fp.fp16], ∀ a : Nat,
     let x := Fp.decode f a
     let v : ℝ := (exactVal x : ℝ)
     let one := f.bias * 2 ^ f.fb
     (isNum x →
       (v ≠ 0 → RoundedOnce f 0 false (1 / v) (Fp.rcp f a)) ∧
       (0 < v → RoundedOnce f 0 false (1 / Real.sqrt v) (Fp.rsq f a)) ∧
       (v < 0 → Fp.rsq f a = (f.cnan, Fp.NV) ∧ Fp.log2 f a = (f.cnan, Fp.NV)) ∧
       (v = 0 → Fp.rcp f a = (f.infBits x.sign, Fp.DZ) ∧ Fp.rsq f a = (f.infBits x.sign, Fp.DZ) ∧
         Fp.exp2 f a = (one, 0) ∧ Fp.log2 f a = (f.infBits true, Fp.DZ) ∧ Fp.tanh f a = (f.signed x.sign 0, 0)) ∧
       (∀ n : Int, v = n → n ≠ 0 → RoundedOnce f 0 false ((2 : ℝ) ^ n) (Fp.exp2 f a)) ∧
       (∀ n : Int, v = (2 : ℝ) ^ n → n ≠ 0 → RoundedOnce f 0 false n (Fp.log2 f a)) ∧
       (v = 1 → Fp.log2 f a = (0, 0))) ∧
     (isInf x →
       Fp.rcp f a = (f.signed x.sign 0, 0) ∧
       Fp.rsq f a = (if x.sign then (f.cnan, Fp.NV) else (0, 0)) ∧
       Fp.exp2 f a = (if x.sign then (0, 0) else (f.infBits false, 0)) ∧
       Fp.log2 f a = (if x.sign then (f.cnan, Fp.NV) else (f.infBits false, 0)) ∧
       Fp.tanh f a = (f.signed x.sign one, 0)) ∧
     (x.isNan →
       let r : Nat × BitVec 5 := (f.cnan, if x.isSig then Fp.NV else 0)
       Fp.rcp f a = r ∧ Fp.rsq f a = r ∧ Fp.exp2 f a = r ∧ Fp.log2 f a = r ∧ Fp.tanh f a = r)) ∧
  (∀ f ∈ [Fp.fp64, Fp.fp32, Fp.bf16, Fp.fp16, Fp.e5m2, Fp.e4m3], ∀ m < 5, ∀ (sat : Bool) (x : Fp.Val),
     let v : ℝ := (exactVal x : ℝ)
     let r := Fp.toFloat f m sat x
     (isNum x → (v ≠ 0 → RoundedOnce f m sat v r) ∧ (v = 0 → r = (f.signed x.sign 0, 0))) ∧
     (isInf x → (sat = true → r = (f.signed x.sign f.maxBits, 0)) ∧
       (sat = false → r = if f.e4m3 then (f.cnan, Fp.NV) else (f.infBits x.sign, 0))) ∧
     (x.isNan → r = (f.cnan, if x.isSig then Fp.NV else 0))) ∧
  (∀ w ∈ [32, 64], ∀ m < 5, ∀ x : Fp.Val,
     let v : ℝ := (exactVal x : ℝ)
     let lo : Int := -(2 ^ (w - 1))
     let hi : Int := 2 ^ (w - 1) - 1
     (isNum x → ∃ k : Nat, RoundsTo m x.sign |v| k ∧
       let t : Int := if x.sign then -k else k
       (t < lo → Fp.toInt w m x = (lo, Fp.NV)) ∧ (hi < t → Fp.toInt w m x = (hi, Fp.NV)) ∧
       (lo ≤ t → t ≤ hi → (v = t → Fp.toInt w m x = (t, 0)) ∧ (v ≠ t → Fp.toInt w m x = (t, Fp.NX)))) ∧
     (isInf x → Fp.toInt w m x = (if x.sign then lo else hi, Fp.NV)) ∧
     (x.isNan → Fp.toInt w m x = (0, Fp.NV))) ∧
  (∀ f ∈ [Fp.bf16, Fp.fp16, Fp.e5m2, Fp.e4m3], ∀ (sat : Bool) (g : BitVec 32) (x : Fp.Val),
     let v : ℝ := (exactVal x : ℝ)
     let r := Fp.toFloatSR f sat g x
     let top : ℝ := (exactVal (Fp.decode f f.maxBits) : ℝ)
     (¬ isNum x ∨ top < |v| ∨ v = 0 → r = Fp.toFloat f 0 sat x) ∧
     (isNum x → |v| ≤ top → v ≠ 0 → ∃ (e : Int) (k j ku : Nat),
       (2 : ℝ) ^ e ≤ |v| ∧ |v| < (2 : ℝ) ^ (e + 1) ∧
       let u : ℝ := (2 : ℝ) ^ max (e - f.fb) f.qmin
       let frac : Int := ⌊(|v| / u - k) * 2 ^ 24⌋
       k ≤ |v| / u ∧ |v| / u < k + 1 ∧ RoundsTo 0 x.sign (|v| / (2 : ℝ) ^ (e - f.fb)) ku ∧
       j = (if |v| = k * u then k else if (g.toNat % 2 ^ 24 : Nat) < frac then k + 1 else k) ∧
       (∃ m, r.1 = f.signed x.sign m ∧ isNum (Fp.decode f m) ∧ (exactVal (Fp.decode f m) : ℝ) = j * u) ∧
       (|v| = j * u → r.2 = 0) ∧
       (|v| ≠ j * u → r.2 = if ku * (2 : ℝ) ^ (e - f.fb) < (2 : ℝ) ^ (f.qmin + f.fb) then Fp.UF ||| Fp.NX else Fp.NX))) ∧
  ((∀ x : BitVec 32, x ≠ 0 → Fp.xorshift x ≠ 0) ∧ ∀ x y : BitVec 32, Fp.xorshift x = Fp.xorshift y → x = y)

/-! ### Branches, jumps and loops -/

/-- R53, R57 and R91: a branch goes to the PC moved by twice its offset when its condition holds, and on otherwise; the
offset is added to the address part of the PC, in global memory and in the local store, and an odd target, one outside the
address part and one beyond the local store trap with the target as value.
R92 to R94: jumps write the address of the next instruction and go to the target; LOOP raises its counter and jumps
while the counter stays below the bound; a target that traps leaves the registers as they were. That the target given as trap
value is the sum without the carry out of the part is assumption 10, and that the address after an instruction wraps within the
part is assumption 7. -/
def Obligations.BranchAndJumpResults : Prop :=
  (∀ (s : State) (a b : BitVec 6) (o : BitVec 13), isFollower s = false → Issues s [G a, G b] [] →
     let x := rg s a
     let y := rg s b
     let n := x + 1
     let on (p : Prop) [Decidable p] : Out := .next (if p then branchTo s (2 * o.toInt) (goTo s) else nextPc s 4)
     exec (.beq a b o) s = on (x = y) ∧
     exec (.bne a b o) s = on (x ≠ y) ∧
     exec (.blt a b o) s = on (x.toInt < y.toInt) ∧
     exec (.bge a b o) s = on (y.toInt ≤ x.toInt) ∧
     exec (.bltu a b o) s = on (x.toNat < y.toNat) ∧
     exec (.bgeu a b o) s = on (y.toNat ≤ x.toNat) ∧
     exec (.loop a b o) s =
       .next (if n.toNat < y.toNat then branchTo s (2 * o.toInt) (goTo (wg s a n)) else nextPc (wg s a n) 4)) ∧
  (∀ (s : State), isFollower s = false →
     (∀ o : BitVec 25,
       (Issues s [] [] → exec (.j o) s = .next (branchTo s (2 * o.toInt) (goTo s))) ∧
       (Issues s [] [.g 10] →
         exec (.jal o) s = .next (branchTo s (2 * o.toInt) (goTo (wg s 10 (linkAfter s 4)))))) ∧
     (∀ (d a : BitVec 6) (i : BitVec 13), Issues s [G d, G a] [] →
       exec (.jalr d a i) s =
         .next (jumpTo s (rg s a + BitVec.ofInt 64 i.toInt) (goTo (wg s d (linkAfter s 4))))) ∧
     (Issues s [G (10 : BitVec 6)] [] → exec .ret s = .next (jumpTo s (rg s 10) (goTo s))))

/-! ### Loads, stores, copies and atomics -/

/-- R100 and R105: a load from the thread's own local store of bytes that none of its own buffered stores covers writes the
bytes at their homes, extended; no byte of memory changes.
R105 and R107 with R124, in every mode: an address that R97 and R98 accept, bytes that R124 finds, and of mode GLBO the
acquire; the register takes them extended. Where the host's completion carries an error status, ACCESS is raised at the
address (R106). -/
def Obligations.LoadResults : Prop :=
  (∀ (s : State) (d a b : BitVec 6) (z : BitVec 2) (o : BitVec 8) (k : Nat),
     NoVectorMemory s → NoBuffered s → s.splitIssue = false →
     let n := 2 ^ z.toNat
     let v := homeNat s k n
     let signed (n v : Nat) : Word := BitVec.ofInt 64 (if 2 ^ (8 * n - 1) ≤ v then (v : Int) - 2 ^ (8 * n) else v)
     (Issues s [G d, G a] [] → OwnAccess s (rg s a) (o.toInt * n) n k →
       exec (.ld d a z 0 o) s = gives s d (signed n v) 4 ∧
       (z ≠ 3 → exec (.ldu d a z 0 o) s = gives s d (BitVec.ofNat 64 v) 4)) ∧
     (Issues s [G d, G a, G b] [] → OwnAccess s (rg s a) ((rg s b).toInt * n) n k →
       exec (.ldx d a b 0 z) s = gives s d (signed n v) 4 ∧
       (z ≠ 3 → exec (.ldux d a b 0 z) s = gives s d (BitVec.ofNat 64 v) 4)) ∧
     ∀ (e r : BitVec 4) (i : BitVec 2), Issues s [G e, G r] [] →
       (OwnAccess s (rg s (r.setWidth 6)) (4 * i.toNat : Nat) 4 k →
         exec (.ldWCompact e r i) s = gives s (e.setWidth 6) (signed 4 (homeNat s k 4)) 2) ∧
       (OwnAccess s (rg s (r.setWidth 6)) (8 * i.toNat : Nat) 8 k →
         exec (.ldDCompact e r i) s = gives s (e.setWidth 6) (signed 8 (homeNat s k 8)) 2)) ∧
  (∀ (s : State) (d a b : BitVec 6) (z : BitVec 2) (m : BitVec 3) (o : BitVec 8) (e : Nat) (l : Loc) (s1 s2 : State)
     (bs : List Byte),
     NoVectorMemory s → s1.splitIssue = false → parkedAt s1 l.key = false →
     let n := 2 ^ z.toNat
     let need : Need := { r := true }
     let t := if m = 7 then acquire s2 else s2
     loadBytes s1 (m == 7) l.key n = .ok bs s2 →
     let failed : Prop := s2.hostError = true ∧ isHost l.key = true ∧
       ∃ x ∈ places l.key n, youngest (thr s2).uid x (coreAt s2 s2.core).sb = none
     let ends (x : Out) (signed : Bool) : Prop :=
       (¬ failed → x = gives t d (extend signed n (ofLeBytes bs)) 4) ∧
       (failed → x = .next (takeTrap s2 Cause.access none (BitVec.ofNat 64 e)))
     (Issues s [G d, G a] [] → address s (rg s a) (o.toInt * n) n m need = .ok (e, l) s1 →
       ends (exec (.ld d a z m o) s) true ∧ (z ≠ 3 → ends (exec (.ldu d a z m o) s) false)) ∧
     (Issues s [G d, G a, G b] [] → address s (rg s a) ((rg s b).toInt * n) n m need = .ok (e, l) s1 →
       ends (exec (.ldx d a b m z) s) true ∧ (z ≠ 3 → ends (exec (.ldux d a b m z) s) false)))

/-- R97 to R104: a load, a store, a posted store or an atomic, in each mode that it has, traps before any effect, with the
cause and the value of the rules: TAG for a malformed pointer and for an address that leaves the 52 bits; MISALIGN; LSBOUND beyond
the local store granted to the rank that the mode names, and where a rank address has bits above its 32; ACCESS for a rank that the
owner has not, for a sub-bank of the bank below that is not the owner's, and for a page without the permission; PAGE for a page
that the walk does not find, with the fault recorded. That another rank's local store ends at that rank's own LSCAP is
assumption 12. -/
def Obligations.AccessTraps : Prop :=
  ∀ (s : State) (d a b : BitVec 6) (z c : BitVec 2) (m : BitVec 3) (o : BitVec 8), NoVectorMemory s →
    let n : Nat := 2 ^ z.toNat
    let p := rg s a
    let two := [G d, G a]
    let three := [G d, G a, G b]
    let near : Int := o.toInt * n
    let far : Int := (rg s b).toInt * n
    let r : Need := { r := true }
    let w : Need := { w := true }
    let accesses : List (Instr × List RegField × Int × Need) :=
      [(.ld d a z m o, two, near, r), (.ldu d a z m o, two, near, r), (.st d a z m o, two, near, w), (.pst d a z m o, two, near, w),
       (.ldx d a b m z, three, far, r), (.ldux d a b m z, three, far, r), (.stx d a b m z, three, far, w)]
    let atomics : List (Instr × List RegField × Nat) := List.append
      [(.amoadd d a b z c, three, n), (.amoand d a b z c, three, n), (.amoor d a b z c, three, n), (.amoxor d a b z c, three, n),
       (.amomin d a b z c, three, n), (.amomax d a b z c, three, n), (.amoswp d a b z c, three, n), (.cas d a b c z, three, n),
       (.cas2 d a b c, three ++ [.g (d.toNat + 1), .g (b.toNat + 1)], 16)]
      (if (thr s).frm.toNat < 5 then [(.amofadd d a b z c, three, n)] else [])
    let own := (thr s).owner
    let q := (ctx s).rank
    let nr := nrank (owner s)
    let past (rank off : Nat) : Prop := lsLimit s (rankCore (owner s) rank) own ≤ off
    let traps (i : Instr) (cause : BitVec 8) (x : Int) : Prop := exec i s = .next (takeTrap s cause none (BitVec.ofInt 64 x))
    let shape (i : Instr) (e : Int) (n : Nat) : Prop :=
      (wellFormed p = false → exec i s = .next (takeTrap s Cause.tag none p)) ∧
      (wellFormed p = true → e < 0 ∨ 2 ^ 52 ≤ e → exec i s = .next (takeTrap s Cause.tag none p)) ∧
      (wellFormed p = true → 0 ≤ e → e < 2 ^ 52 → e % n ≠ 0 → traps i Cause.misalign e)
    let rank (i : Instr) (e : Int) (x : Nat) : Prop :=
      (nr ≤ x / 2 ^ 22 → traps i Cause.access e) ∧ (x / 2 ^ 22 < nr → past (x / 2 ^ 22) (x % 2 ^ 22) → traps i Cause.lsbound e)
    let global (i : Instr) (e : Int) (need : Need) : Prop :=
      (windowBase ≤ e.toNat → rank i e (e.toNat % 2 ^ 32)) ∧
      (e.toNat < windowBase →
        (walk s own (thr s).sup e.toNat need = .access → traps i Cause.access e) ∧
        ∀ k, walk s own (thr s).sup e.toNat need = .page k →
          exec i s = .next (takeTrap (threadFault s own (thr s).sup e.toNat k) Cause.page none (BitVec.ofInt 64 e)))
    (∀ f ∈ accesses, f.1.wf = true → Issues s f.2.1 [] →
      let i := f.1
      let e : Int := ptrAddr p + f.2.2.1
      let x := e.toNat
      let below := rankCore (owner s) (rankBelow q)
      shape i e n ∧
      (wellFormed p = true → 0 ≤ e → e < 2 ^ 52 → e % n = 0 →
        (m = 0 → past q x → traps i Cause.lsbound e) ∧
        (m = 1 → (lsLimit s s.core own ≤ x → traps i Cause.lsbound e) ∧
          (x < lsLimit s s.core own →
            (∀ u, Tab.find (ctxAt s below own).banks (x / 2 ^ 18) = some u → (subAt s below u).tag ≠ own) → traps i Cause.access e)) ∧
        (m = 2 → (2 ^ 32 ≤ x → traps i Cause.lsbound e) ∧ (x < 2 ^ 32 → rank i e x)) ∧
        (m = 3 → past (4 * (q / 4) + x / 8 % 4) (x / 32 * 8 + x % 8) → traps i Cause.lsbound e) ∧
        (m = 4 → past (16 * (q / 16) + x / 8 % 16) (x / 128 * 8 + x % 8) → traps i Cause.lsbound e) ∧
        (m = 5 → past (64 * (q / 64) + x / 8 % 64) (x / 512 * 8 + x % 8) → traps i Cause.lsbound e) ∧
        (6 ≤ m.toNat → global i e f.2.2.2))) ∧
    ∀ f ∈ atomics, f.1.wf = true → Issues s f.2.1 [] →
      let e : Int := ptrAddr p
      shape f.1 e f.2.2 ∧ (wellFormed p = true → e % f.2.2 = 0 → global f.1 e { r := true, w := true })

/-- R106 and R107: a store of a located operand enters the store buffer, a release store is written through to its home, and
one to host memory stays unacknowledged until the host completes it (R142);
a posted store enters the posted pool (R108). The address is the one that R97 and R98 give.
The frame of an ordinary store to the thread's own local store (R106, R123, R124): no byte of memory changes yet, no
register and no other thread changes; the thread's own loads see the stored bytes at the address stored to, and every other
place as before.
R110: PREF changes nothing but the PC, whatever its address. -/
def Obligations.StoreResults : Prop :=
  (∀ (s : State) (d a b : BitVec 6) (z : BitVec 2) (m : BitVec 3) (o : BitVec 8) (e : Nat) (l : Loc) (s1 s2 : State),
     NoVectorMemory s →
     let n := 2 ^ z.toNat
     let need : Need := { w := true }
     let bytes := leBytes n (rg s d).toNat
     let off := o.toInt * n
     (m ≠ 7 → Issues s [G d, G a] [] → address s (rg s a) off n m need = .ok (e, l) s1 →
       exec (.st d a z m o) s = .next (nextPc (bufferStore s1 l bytes) 4) ∧
       (2 ≤ m.toNat → m.toNat ≤ 5 → exec (.pst d a z m o) s = .next (nextPc (postStore s1 l bytes) 4))) ∧
     (m ≠ 7 → Issues s [G d, G a, G b] [] → address s (rg s a) ((rg s b).toInt * n) n m need = .ok (e, l) s1 →
       exec (.stx d a b m z) s = .next (nextPc (bufferStore s1 l bytes) 4)) ∧
     (parkedAt s1 l.key = false → release s1 = .ok () s2 →
       let w := writeThrough s2 l.key bytes
       let t := { w with hostWrites := w.hostWrites ++ if isHost l.key then [⟨(thr w).uid, (thr w).owner, w.core⟩] else [] }
       (Issues s [G d, G a] [] → address s (rg s a) off n 7 need = .ok (e, l) s1 →
         exec (.st d a z 7 o) s = .next (nextPc t 4)) ∧
       (Issues s [G d, G a, G b] [] → address s (rg s a) ((rg s b).toInt * n) n 7 need = .ok (e, l) s1 →
         exec (.stx d a b 7 z) s = .next (nextPc t 4))) ∧
     ∀ (r q : BitVec 4) (i : BitVec 2), Issues s [G r, G q] [] →
       (address s (rg s (q.setWidth 6)) (4 * i.toNat : Nat) 4 0 need = .ok (e, l) s1 →
         exec (.stWCompact r q i) s = .next (nextPc (bufferStore s1 l (leBytes 4 (rg s (r.setWidth 6)).toNat)) 2)) ∧
       (address s (rg s (q.setWidth 6)) (8 * i.toNat : Nat) 8 0 need = .ok (e, l) s1 →
         exec (.stDCompact r q i) s = .next (nextPc (bufferStore s1 l (leBytes 8 (rg s (r.setWidth 6)).toNat)) 2))) ∧
  (∀ (s : State) (d a : BitVec 6) (z : BitVec 2) (o : BitVec 8) (k : Nat) (t : State),
     NoVectorMemory s → Issues s [G d, G a] [] →
     OwnAccess s (rg s a) (o.toInt * (2 ^ z.toNat : Nat)) (2 ^ z.toNat) k → exec (.st d a z 0 o) s = .next t →
       (∀ x, homeByte t x = homeByte s x) ∧
       (∀ x, youngest (thr s).uid x (coreAt t s.core).sb =
         if k ≤ x ∧ x < k + 2 ^ z.toNat then some ((leBytes (2 ^ z.toNat) (rg s d).toNat).getD (x - k) 0)
         else youngest (thr s).uid x (coreAt s s.core).sb) ∧
       (∀ uid x, uid ≠ (thr s).uid → youngest uid x (coreAt t s.core).sb = youngest uid x (coreAt s s.core).sb) ∧
       thr t = { thr s with pc := pcPlus (thr s).pc 4, st := (thr s).st.goOn, wait := none } ∧
       (∀ c sl, (c ≠ s.core ∨ sl ≠ s.slot) → thrAt t c sl = thrAt s c sl) ∧
       t.owners = s.owners ∧ t.compStacks = s.compStacks ∧ t.xfers = s.xfers ∧ t.sys = s.sys ∧ t.cycle = s.cycle) ∧
  (∀ (s : State) (h a : BitVec 6) (o : BitVec 8), h.toNat < 4 → Issues s [G a] [] →
     exec (.pref h a o) s = .next (nextPc s 4))

/-- R125 and R129: the head entry of a store buffer, and only the head, is performed, in the stack at its home; a posted
store, any one of the pool that no rotation pause parks, at its home, outside a pause of the issuing core's stack. Exactly the stored bytes change.
R125: a store whose home lies outside the stack is performed into the stack's copy, dirty, and into the core's release
buffer: one entry of it holds every byte stored, once, and the thread; the entries that held one of those bytes become one with
it, the others stay; no byte at its home changes.
R127, R142 and R106: an entry of a release buffer is written back to its home, which is acknowledged at once but for host
memory, and the dirty marks of the copied bytes that it wrote last are cleared; a clean copied byte is dropped, and a dirty byte
never; the host's completion acknowledges a write, and one that carries an error status logs a device error record of the
owner and the core as well (its labels are assumption 54).
R119: the reply of a load arrives: the register takes the bytes at their home, extended, and the thread goes on after its
instruction, here a load from outside the stacks' memory with no store of the thread buffered; where the host's completion carries
an error status, the thread takes ACCESS (R106).
R131 and R133: what a release store, an AMO and a successful CAS write at the home: exactly the bytes written change
there, and the copies of the stack that exist take them, clean.
R132: an acquire refills every clean byte of the stack's copies from its home; dirty bytes stay, and memory stays. -/
def Obligations.BufferAndCopyEvents : Prop :=
  (∀ (s : State) (c : Nat) (e : StoreEntry), Inv s → e.lost = false →
     (∀ es, (coreAt s c).sb = e :: es → inStack c e.key = true →
       ∃ t, exec (.performHeadEntry c) s = .next t ∧ (coreAt t c).sb = es ∧
         (∀ x, homeByte t x = storedAt e.key e.bytes x (homeByte s x)) ∧
         (∀ n sl, thrAt t n sl = thrAt s n sl) ∧ t.compStacks = s.compStacks ∧ t.owners = s.owners) ∧
     (∀ n, (coreAt s c).posted[n]? = some e → parkedAt s e.key = false → pausing s (stackOf c) = false →
       ∃ t, exec (.performPostedStore c n) s = .next t ∧ (coreAt t c).posted = (coreAt s c).posted.eraseIdx n ∧
         (∀ x, homeByte t x = storedAt e.key e.bytes x (homeByte s x)) ∧
         (∀ m sl, thrAt t m sl = thrAt s m sl) ∧ t.compStacks = s.compStacks ∧ t.owners = s.owners)) ∧
  (∀ (s : State) (c : Nat) (e : StoreEntry) (es : List StoreEntry), e.lost = false → stackOf c < 4 →
     (coreAt s c).sb = e :: es → inStack c e.key = false →
       let stored (x : Nat) : Prop := e.key ≤ x ∧ x < e.key + e.bytes.length
       let byte (x : Nat) : Byte := e.bytes.getD (x - e.key) 0
       let old := (coreAt s c).rel
       ∃ t, exec (.performHeadEntry c) s = .next t ∧ (coreAt t c).sb = es ∧
         (∀ x, homeByte t x = homeByte s x) ∧
         (∀ x, stored x → copyable x = true →
           Tab.find (stackAt t (stackOf c)).copies x = some ⟨byte x, true, s.nextUid, s.cycle⟩) ∧
         (∀ x, ¬ stored x → Tab.find (stackAt t (stackOf c)).copies x = Tab.find (stackAt s (stackOf c)).copies x) ∧
         (∃ r ∈ (coreAt t c).rel, r.lost = false ∧ e.uid ∈ r.uids ∧
           (∀ x, stored x → ⟨x, byte x, s.nextUid⟩ ∈ r.bytes) ∧
           (∀ u ∈ r.bytes, stored u.key → u = ⟨u.key, byte u.key, s.nextUid⟩) ∧
           (∀ q ∈ (coreAt t c).rel, q ≠ r → q ∈ old ∧ (q.lost = true ∨ ∀ u ∈ q.bytes, ¬ stored u.key)) ∧
           ∀ q ∈ old, q ∈ (coreAt t c).rel ∨
             ((∀ u ∈ q.bytes, stored u.key ∨ u ∈ r.bytes) ∧ ∀ u ∈ q.uids, u ∈ r.uids)) ∧
         ∀ n sl, thrAt t n sl = thrAt s n sl) ∧
  (∀ (s : State) (c n : Nat), Inv s →
     (∀ e, (coreAt s c).rel[n]? = some e → e.lost = false → (∀ b ∈ e.bytes, parkedAt s b.key = false) → stackOf c < 4 →
       ∃ t, exec (.writeBack c n) s = .next t ∧ (coreAt t c).rel = (coreAt s c).rel.eraseIdx n ∧
         (∀ x, homeByte t x = e.bytes.foldl (fun v b => if b.key = x then b.byte else v) (homeByte s x)) ∧
         (∀ x, Tab.find (stackAt t (stackOf c)).copies x = (Tab.find (stackAt s (stackOf c)).copies x).map fun v =>
           if e.bytes.any (fun b => b.key == x && b.ver == v.ver) then { v with dirty := false, since := s.cycle } else v) ∧
         t.hostWrites = s.hostWrites ++ (if e.bytes.any (fun b => isHost b.key) then e.uids.map (⟨·, e.owner, c⟩) else []) ∧
         ∀ m sl, thrAt t m sl = thrAt s m sl) ∧
     (∀ k b, n < 4 → Tab.find (stackAt s n).copies k = some b → b.dirty = false →
       ∃ t, exec (.dropCleanCopy n k) s = .next t ∧ Tab.find (stackAt t n).copies k = none ∧
         (∀ x, x ≠ k → Tab.find (stackAt t n).copies x = Tab.find (stackAt s n).copies x) ∧
         ∀ x, homeByte t x = homeByte s x) ∧
     (∀ k b, Tab.find (stackAt s n).copies k = some b → b.dirty = true → exec (.dropCleanCopy n k) s = .next s) ∧
     (∀ w, s.hostWrites[n]? = some w →
       let t := { s with hostWrites := s.hostWrites.eraseIdx n }
       (s.hostError = false → exec (.hostCompletion n) s = .next t) ∧
       (s.hostError = true →
         exec (.hostCompletion n) s = .next (ownerError t w.owner w.core (rankOf s w.core w.owner))))) ∧
  (∀ (s : State) (c sl : Nat) (i : Instr) (r : MemReq) (sg : Bool), (thrAt s c sl).wait = some (i, .reply r) →
     r.op = .load sg → r.acq = false → 0 < r.n → hostBase ≤ r.key → buffered s c (thrAt s c sl).uid = false →
     pausing s (stackOf c) = false → parkedAt s r.key = false →
       (s.hostError = false ∨ isHost r.key = false → ∃ t, exec (.memoryReply c sl) s = .next t ∧
         thrAt t c sl = { (thrAt s c sl).setG r.rd (extend sg r.n (homeNat s r.key r.n)) with
           pc := pcPlus (thrAt s c sl).pc (BitVec.ofNat 64 i.size), st := (thrAt s c sl).st.goOn, wait := none } ∧
         (∀ x, homeByte t x = homeByte s x) ∧ t.core = s.core ∧ t.slot = s.slot) ∧
       (s.hostError = true → isHost r.key = true →
         exec (.memoryReply c sl) s = .next (onThread s c sl fun s => takeTrap s Cause.access none r.ea))) ∧
  (∀ (s : State) (k : Nat) (bytes : List Byte), Inv s → stackOf s.core < 4 →
     Inv (writeThrough s k bytes) ∧
     (∀ x, homeByte (writeThrough s k bytes) x = storedAt k bytes x (homeByte s x)) ∧
     ∀ x c, Tab.find (stackAt s (stackOf s.core)).copies x = some c →
       Tab.find (stackAt (writeThrough s k bytes) (stackOf s.core)).copies x =
         some (if k ≤ x ∧ x < k + bytes.length then ⟨bytes.getD (x - k) 0, false, 0, s.cycle⟩ else c)) ∧
  (∀ (s : State), stackOf s.core < 4 →
     (∀ x c, Tab.find (stackAt s (stackOf s.core)).copies x = some c →
       Tab.find (stackAt (acquire s) (stackOf s.core)).copies x =
         some (if c.dirty then c else { c with byte := homeByte s x, since := s.cycle })) ∧
     (∀ x, homeByte (acquire s) x = homeByte s x) ∧ ∀ n sl, thrAt (acquire s) n sl = thrAt s n sl)

/-- R113, R114, R131 and R134: an AMO waits for the thread's buffered stores and makes its release, then at the home writes
the new value and returns the old one, and makes its acquire; afterwards no clean copy of the stack is older than what it has
read or written (R128).
R115: an AMO other than ADD and SWP on host memory raises ACCESS, and so does an atomic there that the host completes with
Unsupported Request.
R116 and R131, in every order: compare and swap. It always writes the value read; the store takes place only when the
expected value is found; a release is made first where the home holds the expected value then (assumption 65), and one that
stores nothing makes none (R134).
R117 and R135: a fence of a thread with nothing outstanding completes, and changes no byte of memory and no register; a
full fence of a thread with a buffered or posted store blocks the thread, and it alone. -/
def Obligations.AtomicAndFenceResults : Prop :=
  (∀ (s : State) (d a b : BitVec 6) (z o : BitVec 2) (e : Nat) (l : Loc) (s1 s2 : State),
     NoVectorMemory s → Issues s [G d, G a, G b] [] → 2 ≤ z.toNat → s1.splitIssue = false → NoBuffered s1 →
     address s (rg s a) 0 (2 ^ z.toNat) 6 { r := true, w := true } = .ok (e, l) s1 → parkedAt s1 l.key = false →
     (if o.getLsbD 1 then release s1 = .ok () s2 else s2 = s1) →
     let n := 2 ^ z.toNat
     let old := homeNat s2 l.key n
     let x := (rg s b).toNat % 2 ^ (8 * n)
     let sg (v : Nat) : Int := if 2 ^ (8 * n - 1) ≤ v then (v : Int) - 2 ^ (8 * n) else v
     let t (new : Nat) : State :=
       let s3 := refreshCopies (writeThrough s2 l.key (leBytes n new)) (places l.key n)
       if o.getLsbD 0 then acquire s3 else s3
     let done (new : Nat) : Out := gives (t new) d (BitVec.ofInt 64 (sg old)) 4
     (s2.hostError = false ∨ isHost l.key = false →
       (exec (.amoadd d a b z o) s = done ((old + x) % 2 ^ (8 * n))) ∧
       (exec (.amoswp d a b z o) s = done x)) ∧
     (isHost l.key = false →
       exec (.amoand d a b z o) s = done (old &&& x) ∧
       exec (.amoor d a b z o) s = done (old ||| x) ∧
       exec (.amoxor d a b z o) s = done (old ^^^ x) ∧
       exec (.amomin d a b z o) s = done (if sg x < sg old then x else old) ∧
       exec (.amomax d a b z o) s = done (if sg old < sg x then x else old) ∧
       ((thr s).frm.toNat < 5 →
         let r := Fp.add (if z = 2 then Fp.fp32 else Fp.fp64) (thr s).frm.toNat old x
         (trapsOn (thr s) r.2 = false →
           exec (.amofadd d a b z o) s = gives (raiseFlags (t r.1) r.2) d (BitVec.ofNat 64 old) 4) ∧
         (trapsOn (thr s) r.2 = true →
           exec (.amofadd d a b z o) s = .next (takeTrap (raiseFlags (t r.1) r.2) Cause.arith none (r.2.setWidth 64))))) ∧
     (isHost l.key = true →
       (∀ i ∈ [Instr.amoand d a b z o, .amoor d a b z o, .amoxor d a b z o, .amomin d a b z o, .amomax d a b z o],
         exec i s = .next (takeTrap s1 Cause.access none (BitVec.ofNat 64 e))) ∧
       ((thr s).frm.toNat < 5 → exec (.amofadd d a b z o) s = .next (takeTrap s1 Cause.access none (BitVec.ofNat 64 e))) ∧
       (s2.hostError = true → ∀ i ∈ [Instr.amoadd d a b z o, .amoswp d a b z o],
         exec i s = .next (takeTrap s2 Cause.access none (BitVec.ofNat 64 e))))) ∧
  (∀ (s : State) (d a b : BitVec 6) (z o : BitVec 2) (e : Nat) (l : Loc) (s1 s2 : State),
     NoVectorMemory s → 2 ≤ z.toNat → s1.splitIssue = false → NoBuffered s1 → parkedAt s1 l.key = false →
     let sync (n : Nat) (t : State) : State :=
       let t := refreshCopies t (places l.key n)
       if o.getLsbD 0 then acquire t else t
     let fails : Prop := s2.hostError = true ∧ isHost l.key = true
     let refused : Out := .next (takeTrap s2 Cause.access none (BitVec.ofNat 64 e))
     let released (hit : Prop) : Prop :=
       (o.getLsbD 1 = true ∧ hit → release s1 = .ok () s2) ∧ (¬ (o.getLsbD 1 = true ∧ hit) → s2 = s1)
     (Issues s [G d, G a, G b] [] → address s (rg s a) 0 (2 ^ z.toNat) 6 { r := true, w := true } = .ok (e, l) s1 →
       let n := 2 ^ z.toNat
       let hit (t : State) : Prop := homeNat t l.key n = (rg s d).toNat % 2 ^ (8 * n)
       released (hit s1) →
       let old := homeNat s2 l.key n
       let v : Word := BitVec.ofInt 64 (if 2 ^ (8 * n - 1) ≤ old then (old : Int) - 2 ^ (8 * n) else old)
       (fails → exec (.cas d a b o z) s = refused) ∧
       (¬ fails → hit s2 →
         exec (.cas d a b o z) s = gives (sync n (writeThrough s2 l.key (leBytes n (rg s b).toNat))) d v 4) ∧
       (¬ fails → ¬ hit s2 → exec (.cas d a b o z) s = gives (sync n s2) d v 4)) ∧
     (d.getLsbD 0 = false → b.getLsbD 0 = false →
       Issues s [G d, G a, G b, .g (d.toNat + 1), .g (b.toNat + 1)] [] →
       address s (rg s a) 0 16 6 { r := true, w := true } = .ok (e, l) s1 →
       let g := (thr s).getG
       let lo (t : State) : Word := BitVec.ofNat 64 (homeNat t l.key 8)
       let hi (t : State) : Word := BitVec.ofNat 64 (homeNat t (l.key + 8) 8)
       let hit (t : State) : Prop := lo t = g d.toNat ∧ hi t = g (d.toNat + 1)
       released (hit s1) →
       let done (t : State) : Out := .next (nextPc (wgn (wgn t d.toNat (lo s2)) (d.toNat + 1) (hi s2)) 4)
       (fails → exec (.cas2 d a b o) s = refused) ∧
       (¬ fails → hit s2 →
         exec (.cas2 d a b o) s = done (sync 16 (writeThrough s2 l.key
           (leBytes 8 (g b.toNat).toNat ++ leBytes 8 (g (b.toNat + 1)).toNat)))) ∧
       (¬ fails → ¬ hit s2 → exec (.cas2 d a b o) s = done (sync 16 s2)))) ∧
  (∀ (s : State) (c : BitVec 3) (k : BitVec 2), k ≠ 3 → NoVectorMemory s → Issues s [] [] →
     (NoBuffered s → postedOut s s.core (thr s).uid = false → waitEngines s = .ok () s →
       (coreAt s s.core).rel.any (fun e => e.uids.contains (thr s).uid) = false →
       s.hostWrites.any (fun w => w.uid == (thr s).uid) = false →
       ∃ t, exec (.fence c k) s = .next t ∧ (∀ x, homeByte t x = homeByte s x) ∧
         thr t = { thr s with pc := pcPlus (thr s).pc 4, st := (thr s).st.goOn, wait := none }) ∧
     (k = 0 → buffered s s.core (thr s).uid = true ∨ postedOut s s.core (thr s).uid = true →
       exec (.fence c k) s = .next (block s (.fence c k) .retry)))

/-! ### Vector instructions -/

/-- R270: the integer operations of lanes of 8, 16, 32 or 64 bits, on every lane alike.
R270: VDOT4 adds to each 32-bit lane of the destination the four products of the signed bytes of the lane, wrapping.
R276: broadcasts, moves between general and vector registers, permutations, slides and selection.
R277: reduction by the fixed pairwise tree into lane 0, every other lane zero; an integer sum and a signed maximum are
those of all the lanes. That an enabled exception leaves the results written and the ring entry faulted is assumption 33. -/
def Obligations.VectorIntegerResults : Prop :=
  (∀ (s : State) (d a b : BitVec 6) (z : BitVec 2), VecIssues s [V d, V a, V b] →
     let w := 8 * 2 ^ z.toNat
     let sg (x : Nat) : Int := if x < 2 ^ (w - 1) then x else (x : Int) - 2 ^ w
     let wrap (x : Int) : Nat := (x % 2 ^ w).toNat
     let sat (x : Int) : Nat := wrap (max (-(2 ^ (w - 1))) (min (2 ^ (w - 1) - 1) x))
     ∀ p ∈ ([(.vadd d a b z, fun x y => (x + y) % 2 ^ w),
             (.vsub d a b z, fun x y => wrap ((x : Int) - y)),
             (.vmul d a b z, fun x y => x * y % 2 ^ w),
             (.vmulh d a b z, fun x y => wrap (sg x * sg y / 2 ^ w)),
             (.vand d a b z, fun x y => x &&& y),
             (.vor d a b z, fun x y => x ||| y),
             (.vxor d a b z, fun x y => x ^^^ y),
             (.vsll d a b z, fun x y => x * 2 ^ (y % w) % 2 ^ w),
             (.vsrl d a b z, fun x y => x / 2 ^ (y % w)),
             (.vsra d a b z, fun x y => wrap (sg x / 2 ^ (y % w))),
             (.vmin d a b z, fun x y => wrap (min (sg x) (sg y))),
             (.vmax d a b z, fun x y => wrap (max (sg x) (sg y))),
             (.vminu d a b z, fun x y => min x y),
             (.vmaxu d a b z, fun x y => max x y),
             (.vadds d a b z, fun x y => sat (sg x + sg y)),
             (.vsubs d a b z, fun x y => sat (sg x - sg y)),
             (.vabsd d a b z, fun x y => (sg x - sg y).natAbs)] : List (Instr × (Nat → Nat → Nat))),
       VecLanes p.1 s d w 0 fun k => p.2 (lane w (rv s a) k) (lane w (rv s b) k)) ∧
  (∀ (s : State) (d a b : BitVec 6), VecIssues s [V d, V a, V b] →
     let byte (v : Vec) (k j : Nat) : Int := ((v.extractLsb' (32 * k + 8 * j) 8 : BitVec 8)).toInt
     let term (k j : Nat) : Int := byte (rv s a) k j * byte (rv s b) k j
     VecLanes (.vdot4 d a b) s d 32 0 fun k =>
       (((lane 32 (rv s d) k : Int) + term k 0 + term k 1 + term k 2 + term k 3) % 2 ^ 32).toNat) ∧
  (∀ (s : State) (d a b : BitVec 6) (z m : BitVec 2),
     let w := 8 * 2 ^ z.toNat
     let n := 512 / w
     (VecIssues s [V d, G a] → VecLanes (.vbcast d a z) s d w 0 fun _ => (rg s a).toNat % 2 ^ w) ∧
     (VecIssues s [V d, G a, G b] → VecLanes (.vmovgv d a b z) s d w 0 fun k =>
       if k = (rg s b).toNat % n then (rg s a).toNat % 2 ^ w else lane w (rv s d) k) ∧
     (VecIssues s [G d, V a, G b] → VecGives (.vmovvg d a b z) s
       (fun t => wg t d (BitVec.ofNat 64 (lane w (rv s a) ((rg s b).toNat % n)))) 0) ∧
     (VecIssues s [V d, V a, G b] → VecLanes (.vslide d a b z) s d w 0 fun k =>
       let j := (k : Int) + (rg s b).toInt
       if 0 ≤ j ∧ j < (n : Int) then lane w (rv s a) j.toNat else 0) ∧
     (VecIssues s [V d, V a, V b] →
       (VecLanes (.vperm d a b) s d 8 0 fun k =>
         let i := lane 8 (rv s b) k
         if 128 ≤ i then 0 else lane 8 (rv s a) (i % 64)) ∧
       VecLanes (.vsel d a b z m) s d w 0 fun k =>
         if ((thr s).getM m.toNat).getLsbD k then lane w (rv s a) k else lane w (rv s b) k)) ∧
  (∀ (s : State) (d a : BitVec 6) (z : BitVec 2), VecIssues s [V d, V a] →
     let w := 8 * 2 ^ z.toNat
     let xs := (List.range (512 / w)).map (lane w (rv s a))
     let f := if z = 2 then Fp.fp32 else Fp.bf16
     (VecLanes (.vred d a z 0) s d w 0 fun k => if k = 0 then xs.sum % 2 ^ w else 0) ∧
     (∃ x ∈ xs, (∀ y ∈ xs, sLane w y ≤ sLane w x) ∧ VecLanes (.vred d a z 3) s d w 0 fun k => if k = 0 then x else 0) ∧
     (z = 1 ∨ z = 2 →
       (let r := treeUp (Fp.minMax f true) (Nat.log2 (512 / w)) xs
        VecLanes (.vred d a z 2) s d w r.2 fun k => if k = 0 then r.1 % 2 ^ w else 0) ∧
       ((thr s).frm.toNat < 5 →
         let r := treeUp (Fp.add f (thr s).frm.toNat) (Nat.log2 (512 / w)) xs
         VecLanes (.vred d a z 1) s d w r.2 fun k => if k = 0 then r.1 % 2 ^ w else 0)))

/-- R36, R43, R271 and R272: the floating operations of lanes, each lane as the scalar operation of its format, the
exceptions of all lanes together. Those that round under FRM raise ILLEGAL before any effect where it holds 5, 6 or 7, and a
conversion where the mode it would use is none that R36 allows it. That an enabled exception leaves the results written and
the ring entry faulted is assumption 33.
R36, R37, R273 and R274: VCVT converts the lanes of a pair in ascending order and zeroes the rest of the destination;
VQNT and VDQNT convert sixteen lanes with the power of two of the scale byte. SRSEED moves once per lane under SR. -/
def Obligations.VectorFloatResults : Prop :=
  (∀ (s : State) (d a b c : BitVec 6) (t : BitVec 2), t ≠ 3 →
     let f := match t.toNat with | 0 => Fp.fp32 | 1 => Fp.bf16 | _ => Fp.fp16
     let w := f.width
     let m := (thr s).frm.toNat
     let n := 512 / w
     let holds (i : Instr) (r : Nat → Nat × BitVec 5) : Prop := VecLanes i s d w (laneFlags n fun k => (r k).2) fun k => (r k).1 % 2 ^ w
     let x (k : Nat) := lane w (rv s a) k
     let y (k : Nat) := lane w (rv s b) k
     (VecIssues s [V d, V a, V b] →
       holds (.vfmin d a b t) (fun k => Fp.minMax f false (x k) (y k)) ∧
       holds (.vfmax d a b t) (fun k => Fp.minMax f true (x k) (y k)) ∧
       (m < 5 →
         holds (.vfadd d a b t) (fun k => Fp.add f m (x k) (y k)) ∧ holds (.vfsub d a b t) (fun k => Fp.sub f m (x k) (y k)) ∧
         holds (.vfmul d a b t) (fun k => Fp.mul f m (x k) (y k)) ∧ holds (.vfdiv d a b t) (fun k => Fp.div f m (x k) (y k)))) ∧
     (VecIssues s [V d, V a] →
       VecLanes (.vfabs d a t) s d w 0 (fun k => x k % 2 ^ (w - 1)) ∧
       VecLanes (.vfneg d a t) s d w 0 (fun k => (x k + 2 ^ (w - 1)) % 2 ^ w) ∧
       holds (.vrcp d a t) (fun k => Fp.rcp f (x k)) ∧ holds (.vrsq d a t) (fun k => Fp.rsq f (x k)) ∧
       holds (.vexp2 d a t) (fun k => Fp.exp2 f (x k)) ∧ holds (.vlog2 d a t) (fun k => Fp.log2 f (x k)) ∧
       holds (.vtanh d a t) (fun k => Fp.tanh f (x k))) ∧
     (VecIssues s [V d, V a, V b, V c] → m < 5 → t ≠ 2 →
       holds (.vfma d a b (t.extractLsb' 0 1) c) (fun k => Fp.fma f m (x k) (y k) (lane w (rv s c) k)))) ∧
  (∀ (s : State) (d a b : BitVec 6) (r : BitVec 3) (u k : BitVec 1) (p : BitVec 4),
     let mode := if r = 6 then (thr s).frm.toNat else r.toNat
     let converts (i : Instr) (t : LaneType) (mode : Nat) (sat : Bool) (vs : List Fp.Val) : Prop :=
       let out := deliverLanes t mode sat (thr s).srseed vs
       ∃ v : Vec, (∀ j < 512 / t.bits, lane t.bits v j = (out.1.getD j (0, 0)).1 % 2 ^ t.bits) ∧
         VecGives i s (fun s => wv (updThr s fun t => { t with srseed := out.2 }) d v)
           (laneFlags vs.length fun j => (out.1.getD j (0, 0)).2)
     (VecIssues s [V d, V a] → (Instr.vcvt d a r u p).wf = true → (mode < 5 ∨ (mode = 5 ∧ srPair p = true)) →
       let src := (cvtPair p.toNat).1
       let dst := (cvtPair p.toNat).2
       converts (.vcvt d a r u p) dst mode (u == 1)
         ((List.range (512 / max src.bits dst.bits)).map fun j => laneValue src (lane src.bits (rv s a) j))) ∧
     (VecIssues s [V d, V a, G b] →
       let byte := (rg s b).toNat % 256
       ((Instr.vqnt d a b k r).wf = true → (mode < 5 ∨ (mode = 5 ∧ k = 1)) →
         converts (.vqnt d a b k r) (if k = 0 then .int 8 else .fp Fp.e4m3) mode true
           ((List.range 16).map fun j => scaled byte (127 - byte) (Fp.decode Fp.fp32 (lane 32 (rv s a) j)))) ∧
       converts (.vdqnt d a b k) (.fp Fp.fp32) 0 false
         ((List.range 16).map fun j =>
           scaled byte ((byte : Int) - 127) (laneValue (if k = 0 then .int 8 else .fp Fp.e4m3) (lane 8 (rv s a) j))))) ∧
  (∀ (s : State) (d a b c : BitVec 6) (t z : BitVec 2) (f u k : BitVec 1) (r : BitVec 3) (p : BitVec 4),
     canIssue (thr s) = true → outstanding (thr s) = false →
     let illegal (i : Instr) : Prop := exec i s = .next (takeTrap s Cause.illegal none i.word)
     let mode := if r = 6 then (thr s).frm.toNat else r.toNat
     (5 ≤ (thr s).frm.toNat → ∀ i ∈ [Instr.vfadd d a b t, .vfsub d a b t, .vfmul d a b t, .vfdiv d a b t, .vfma d a b f c,
       .vred d a z 1], illegal i) ∧
     (¬ (mode < 5 ∨ (mode = 5 ∧ srPair p = true)) → illegal (.vcvt d a r u p)) ∧
     (¬ (mode < 5 ∨ (mode = 5 ∧ k = 1)) → illegal (.vqnt d a b k r)))

/-- R278: comparisons into mask registers, one bit a lane and zeros above, and the mask instructions. That an enabled exception
leaves the result written and the ring entry faulted is assumption 33. -/
def Obligations.MaskResults : Prop :=
  ∀ (s : State) (d a b : BitVec 6) (m : BitVec 3) (t : BitVec 4),
    let writes (i : Instr) (n : Nat) (x : Word) (fl : BitVec 5) : Prop := VecGives i s (fun s => updThr s fun t => t.setM n x) fl
    let x := (thr s).getM a.toNat
    let y := (thr s).getM b.toNat
    (VecIssues s [] → d.toNat < 8 → a.toNat < 8 →
      (b.toNat < 8 → writes (.mand d a b) d.toNat (x &&& y) 0 ∧ writes (.mor d a b) d.toNat (x ||| y) 0 ∧
        writes (.mxor d a b) d.toNat (x ^^^ y) 0) ∧
      writes (.mnot d a) d.toNat (~~~x) 0) ∧
    (VecIssues s [G a] → d.toNat < 8 → writes (.mset d a) d.toNat (rg s a) 0) ∧
    (VecIssues s [G d] → a.toNat < 8 →
      VecGives (.mcnt d a 1) s (fun s => wg s d x) 0 ∧
      VecGives (.mcnt d a 0) s (fun s => wg s d (BitVec.ofNat 64 ((List.range 64).filter fun i => x.getLsbD i).length)) 0) ∧
    (VecIssues s [V a, V b] → t.toNat < 4 →
      let w := 8 * 2 ^ t.toNat
      let u (k : Nat) := lane w (rv s a) k
      let v (k : Nat) := lane w (rv s b) k
      ∀ p ∈ ([(0, fun k => u k = v k), (1, fun k => u k ≠ v k), (2, fun k => sLane w (u k) < sLane w (v k)),
              (3, fun k => sLane w (u k) ≤ sLane w (v k)), (4, fun k => u k < v k), (5, fun k => u k ≤ v k)]
              : List (BitVec 3 × (Nat → Prop))),
        ∃ q : Word, (∀ k < 64, q.getLsbD k = true ↔ k < 512 / w ∧ p.2 k) ∧ writes (.vcmp m p.1 a b t) m.toNat q 0) ∧
    (VecIssues s [V a, V b] → 4 ≤ t.toNat → t.toNat ≤ 6 →
      let f := match t.toNat with | 4 => Fp.fp32 | 5 => Fp.bf16 | _ => Fp.fp16
      let n := 512 / f.width
      let cmp (op k : Nat) := Fp.compare f op (lane f.width (rv s a) k) (lane f.width (rv s b) k)
      ∀ p ∈ ([(0, fun k => cmp 0 k), (1, fun k => (!(cmp 0 k).1, (cmp 0 k).2)), (2, fun k => cmp 1 k), (3, fun k => cmp 2 k)]
              : List (BitVec 3 × (Nat → Bool × BitVec 5))),
        ∃ q : Word, (∀ k < 64, q.getLsbD k = (decide (k < n) && (p.2 k).1)) ∧
          writes (.vcmp m p.1 a b t) m.toNat q (laneFlags n fun k => (p.2 k).2))

/-- R267, R268 and R269: the vector loads from the thread's own local store. A lane whose bit of m0 is set is not accessed and
keeps its value; the others take the elements at their addresses.
R267, R268 and R269: the vector stores to the thread's own local store enter the store buffer, element by element in
ascending order, the addresses being those computed from the base, the stride and the index vector. -/
def Obligations.VectorMemoryResults : Prop :=
  (∀ (s : State) (d a b : BitVec 6) (z : BitVec 2) (o : BitVec 8) (k : Nat) (at' : Nat → Nat), NoBuffered s →
     let p := rg s a
     let n := 2 ^ z.toNat
     let w := 8 * n
     let off (i : Nat) := ((thr s).getM 0).getLsbD i
     let mixed (i : Nat) : Nat := if off i then lane w (rv s d) i else homeNat s (at' i) n
     let reach (delta : Nat → Int) : Prop := ∀ i < 64 / n, off i = false → OwnAccess s p (delta i) n (at' i)
     (VecIssues s [V d, G a] → OwnAccess s p (o.toInt * 64) 64 k →
       VecLanes (.ldv d a 0 o) s d 64 0 fun j => homeNat s (k + 8 * j) 8) ∧
     (elemTag p n = true →
       (VecIssues s [V d, G a] → OwnAccess s p 0 n k → VecLanes (.vldb d a z 0) s d w 0 fun _ => homeNat s k n) ∧
       (VecIssues s [V d, G a, G b] → reach (fun i => i * (rg s b).toInt) → VecLanes (.vlds d a b z 0) s d w 0 mixed) ∧
       (VecIssues s [V d, G a, V b] → reach (fun i => sLane w (lane w (rv s b) i) * n) →
         VecLanes (.vgath d a b z 0) s d w 0 mixed))) ∧
  (∀ (s : State) (d a b : BitVec 6) (z : BitVec 2) (o : BitVec 8) (k : Nat) (at' : Nat → Nat),
     let p := rg s a
     let n := 2 ^ z.toNat
     let w := 8 * n
     let on := (List.range (64 / n)).filter fun i => !((thr s).getM 0).getLsbD i
     let reach (delta : Nat → Int) : Prop := ∀ i ∈ on, OwnAccess s p (delta i) n (at' i)
     let store (n key i : Nat) (t : State) : State := bufferStore t ⟨key, none⟩ (leBytes n (lane (8 * n) (rv s d) i))
     (VecIssues s [V d, G a] → OwnAccess s p (o.toInt * 64) 64 k →
       VecGives (.stv d a 0 o) s (fun t => (List.range 8).foldl (fun t j => store 8 (k + 8 * j) j t) t) 0) ∧
     (elemTag p n = true →
       (VecIssues s [V d, G a, G b] → reach (fun i => i * (rg s b).toInt) →
         VecGives (.vsts d a b z 0) s (fun t => on.foldl (fun t i => store n (at' i) i t) t) 0) ∧
       (VecIssues s [V d, G a, V b] → reach (fun i => sLane w (lane w (rv s b) i) * n) →
         VecGives (.vscat d a b z 0) s (fun t => on.foldl (fun t i => store n (at' i) i t) t) 0)))

/-- R30 to R33 and R275: VECFD of a block in the thread's own local store writes the lanes that R32 decodes, each exactly, and
reports a decode fault of the header or of the stream as cause 0x3F; VECFE rounds the lanes to E5M3, builds the block that the
rule describes and puts its doublewords into the store buffer. A pointer that is not ECF8 with the block length of k is TAG, an
address that is no multiple of 8 MISALIGN. In every mode the same holds of the bytes and places that the mode's checks give.
That an enabled exception leaves the block written and the ring entry faulted is assumption 33, and which lanes of VECFE lie
beyond 61,440 is assumption 34.
R157 and R158: the vector unit completes a thread's dispatched instructions in the order of their sequence numbers; a
fault of one is pending as a late fault, and every later one is cancelled. The current thread stays the current one, and in a
rotation pause of the stack nothing completes (R344). -/
def Obligations.VectorBlocksAndCompletion : Prop :=
  (∀ (s : State) (d a : BitVec 6) (k : BitVec 1) (at' : Nat → Nat), VecIssues s [V d, G a] →
     let p := rg s a
     let ea := ptrAddr p
     let n := if k = 0 then 16 else 32
     let f := if k = 0 then Fp.fp32 else Fp.bf16
     let w := f.width
     let s1 := (dispatchSeq s 0).2
     let value (cause : BitVec 8) : Word := BitVec.ofNat 64 (cause.toNat * 2 ^ 52 + ea)
     let tagged : Prop := wellFormed p = true ∧ ptrFmt p = 0x14 ∧ ptrBlen p = if k = 0 then 4 else 5
     let exact (xs : List Nat) (v : Vec) : Prop := ∀ j < n,
       let x := Fp.decode Fp.e5m3 (xs.getD j 0)
       let y := Fp.decode f (lane w v j)
       isNum y ∧ exactVal y = exactVal x ∧ y.sign = x.sign
     let own (len : Nat) : Prop := ∀ j < len / 8, OwnAccess s p (8 * j) 8 (at' j)
     let held (len : Nat) : List Byte := (List.range (len / 8)).flatMap fun j => homeBytes s (at' j) 8
     let rounded (r : Nat → Nat × BitVec 5) : Prop := ∀ j < n, EcfRounded (Fp.decode f (lane w (rv s d) j)) (r j)
     let flags (r : Nat → Nat × BitVec 5) : BitVec 5 := laneFlags n fun j => (r j).2
     let word (b : List Byte) (j : Nat) : List Byte := (b.drop (8 * j)).take 8
     (∀ m : BitVec 3, m = 0 ∨ m = 2 ∨ m = 6 ∨ m = 7 →
       (¬tagged → VecFaults (.vecfd d a k m) s s1 Cause.vecfault (value Cause.tag) ∧
         VecFaults (.vecfe d a k m) s s1 Cause.vecfault (value Cause.tag)) ∧
       (tagged → ea % 8 ≠ 0 → VecFaults (.vecfd d a k m) s s1 Cause.vecfault (value Cause.misalign) ∧
         VecFaults (.vecfe d a k m) s s1 Cause.vecfault (value Cause.misalign))) ∧
     (tagged → ea % 8 = 0 → NoBuffered s → own 8 →
       let len := ecfLength n (held 8)
       (¬ecfHeader n (held 8) → VecFaults (.vecfd d a k 0) s s1 Cause.vecfault (value 0x3F)) ∧
       (own len → (∃ xs, EcfDecodes n (held len) xs) →
         ∃ v xs, EcfDecodes n (held len) xs ∧ exact xs v ∧ VecGives (.vecfd d a k 0) s (fun t => wv t d v) 0) ∧
       (own len → (¬∃ xs, EcfDecodes n (held len) xs) → VecFaults (.vecfd d a k 0) s s1 Cause.vecfault (value 0x3F))) ∧
     (tagged → ea % 8 = 0 → ∃ r b, rounded r ∧ EcfBlockOf n ((List.range n).map fun j => (r j).1) b ∧
       (own b.length → VecGives (.vecfe d a k 0) s
         (fun t => (List.range (b.length / 8)).foldl (fun t j => bufferStore t ⟨at' j, none⟩ (word b j)) t) (flags r)) ∧
       ∀ m : BitVec 3, m = 0 ∨ m = 2 ∨ m = 6 ∨ m = 7 →
         (∀ ls t u, locBlock s1 m { w := true } ea 0 (b.length / 8) = .ok ls t →
           (if m = 7 then release t else .ok () t) = .ok () u →
           (thr u).vq = [] → (thr u).v = (thr s).v →
           VecGives (.vecfe d a k m) s (fun _ => ls.foldl (fun t l => bufferStore t l.2 (word b l.1)) u) (flags r)) ∧
         ∀ c v t, locBlock s1 m { w := true } ea 0 (b.length / 8) = .trap c v t → (thr t).vq = [] →
           VecFaults (.vecfe d a k m) s t c v) ∧
     (tagged → ea % 8 = 0 → ∀ m : BitVec 3, m = 0 ∨ m = 2 ∨ m = 6 ∨ m = 7 →
       (∀ h t, blockBytes s1 m ea 0 1 = .ok h t → (thr t).vq = [] →
         (¬ecfHeader n h → VecFaults (.vecfd d a k m) s t Cause.vecfault (value 0x3F)) ∧
         (ecfHeader n h →
           (∀ rest u, blockBytes t m ea 1 (ecfLength n h / 8 - 1) = .ok rest u → (thr u).vq = [] →
             ((∃ xs, EcfDecodes n (h ++ rest) xs) → ∃ v xs, EcfDecodes n (h ++ rest) xs ∧ exact xs v ∧
               VecGives (.vecfd d a k m) s (fun _ => wv (if m = 7 then acquire u else u) d v) 0) ∧
             ((¬∃ xs, EcfDecodes n (h ++ rest) xs) → VecFaults (.vecfd d a k m) s u Cause.vecfault (value 0x3F))) ∧
           ∀ c v u, blockBytes t m ea 1 (ecfLength n h / 8 - 1) = .trap c v u → (thr u).vq = [] →
             VecFaults (.vecfd d a k m) s u c v)) ∧
       ∀ c v t, blockBytes s1 m ea 0 1 = .trap c v t → (thr t).vq = [] → VecFaults (.vecfd d a k m) s t c v)) ∧
  (∀ (s : State) (c sl : Nat) (e : VDisp) (es : List VDisp), (thrAt s c sl).vq = e :: es →
     pausing s (stackOf c) = false →
     let here := updThr { s with core := c, slot := sl } fun t => { t with vq := es }
     (∀ fl u, vecBody e here = .ok fl u → trapsOn (thr u) fl = false →
       exec (.vectorCompletion c sl) s =
         .next { updThr (raiseFlags u fl) (fun t => ringEnd t e.seq 1 0) with core := s.core, slot := s.slot }) ∧
     (∀ cause v u, vecBody e here = .trap cause v u →
       ∃ t, exec (.vectorCompletion c sl) s = .next t ∧ t.core = s.core ∧ t.slot = s.slot ∧
         ((u.core = c ∧ u.slot = sl) → (thrAt t c sl).vq = [] ∧
           (thrAt t c sl).late = (thrAt u c sl).late ++ [⟨e.seq, cause, v⟩] ∧ (thrAt t c sl).pc = (thrAt u c sl).pc)))

/-! ### Gangs and the exchange -/

/-- R279: GANG with a size code from 1 to 3 forms a gang of 2, 4 or 8 neighbouring ranks when every other member's core has
room for a follower and holds no gang: each follower is a ready thread of the leader's kernel with its registers, at the next
instruction, and every member's g[rd] holds its index. Another size code writes −2, a member without room −1.
R280 and R281: UNGANG of a leader whose followers have completed their instructions ends every follower and leaves the
leader in no gang; of a thread in no gang it changes nothing.
R282: GBCAST copies the leader's register; GSTAT gives the gang's word, or the value that the last GANGBRK kept.
R283: a participant of an exchange waits until all have arrived; the last to arrive completes it, and chunk j of its
result is its own chunk of participant j's vector. -/
def Obligations.GangAndExchangeResults : Prop :=
  (∀ (s : State) (d a : BitVec 6), d ≠ 0 → Issues s [G d, G a] [] → isControl s.core = false → (thr s).gang = none →
     idleUnits s s.core (thr s) = true →
     let w := rg s a
     let size := 2 ^ w.toNat
     let q := (ctx s).rank
     let others := ((List.range size).map fun i => size * (q / size) + i).filter fun r => r != q
     let core (r : Nat) := rankCore (owner s) r
     let room (r : Nat) : Prop := holdsGang s (core r) = false ∧ (roomFor s (core r) (thr s).wsz (thr s).vsz).isSome = true
     (w = 0 ∨ 3 < w.toNat → exec (.gang d a) s = gives s d (BitVec.ofInt 64 (-2)) 4) ∧
     (1 ≤ w.toNat → w.toNat ≤ 3 → (∃ r ∈ others, ¬ room r) → exec (.gang d a) s = gives s d (BitVec.ofInt 64 (-1)) 4) ∧
     (1 ≤ w.toNat → w.toNat ≤ 3 → (∀ r ∈ others, room r ∧ core r ≠ s.core) →
       (∀ r ∈ others, ∀ u ∈ others, core r = core u → r = u) →
       ∃ t, exec (.gang d a) s = .next t ∧ rg t d = BitVec.ofNat 64 (q % size) ∧
         (thr t).gang = some ⟨s.core, s.slot, size, q % size⟩ ∧ (thr t).pc = pcPlus (thr s).pc 4 ∧
         ∀ r ∈ others, ∃ sl, let f := thrAt t (core r) sl
           f.st = .ready ∧ f.gang = some ⟨s.core, s.slot, size, r % size⟩ ∧ f.pc = pcPlus (thr s).pc 4 ∧
           f.kid = (thr s).kid ∧ f.owner = (thr s).owner ∧ f.getG d.toNat = BitVec.ofNat 64 (r % size) ∧
           (∀ n, n ≠ d.toNat → f.getG n = (thr s).getG n) ∧ (∀ n, f.getV n = (thr s).getV n))) ∧
  (∀ (s : State), Issues s [] [] → isControl s.core = false →
     ((thr s).gang = none → followers s s.core s.slot = [] → exec .ungang s = .next (nextPc s 4)) ∧
     ((thr s).gang.isSome = true → isFollower s = false → followerWaits s = false →
       (∀ p ∈ followers s s.core s.slot, (thrAt s p.1 p.2).gangTrap = none) →
       ∃ t, exec .ungang s = .next t ∧ (thr t).gang = none ∧ (thr t).pc = pcPlus (thr s).pc 4 ∧
         ∀ p ∈ followers s s.core s.slot, (thrAt t p.1 p.2).st = .free)) ∧
  (∀ (s : State) (d a : BitVec 6), isControl s.core = false →
     (Issues s [G d, G a] [] → hazard (gangLeader s) [G a] = false →
       exec (.gbcast d a 0) s = gives s d ((gangLeader s).getG a.toNat) 4) ∧
     (Issues s [V d, V a] [] → (thr s).vq = [] → (gangLeader s).vq = [] →
       exec (.gbcast d a 1) s = .next (nextPc (wv s d ((gangLeader s).getV a.toNat)) 4)) ∧
     (Issues s [G d, G a] [] →
       (rg s a = 0 → (thr s).gang = none → exec (.gstat d a) s = gives s d 0 4) ∧
       (∀ g, rg s a = 0 → (thr s).gang = some g → g.index < 8 → g.size < 256 →
         exec (.gstat d a) s = gives s d (BitVec.ofNat 64 (2 ^ 63 + g.index * 256 + g.size)) 4) ∧
       (rg s a = 1 → exec (.gstat d a) s = gives s d (thr s).gstat 4))) ∧
  (∀ (s : State) (d a : BitVec 6) (sc : BitVec 2) (p j n : Nat), sc ≠ 3 → Issues s [V d, V a] [] →
     (sc ≠ 0 → (thr s).gang = none) → exchanging (thr s) = false → exchange s sc = some (p, j, n) →
     idleUnits s s.core (thr s) = true → 0 < p → p ≤ 16 → (isControl s.core = false) →
     let me : XArrival := { part := j, core := s.core, slot := s.slot, uid := (thr s).uid, val := rv s a, dest := d.toNat }
     let all := Tab.get [] (owner s).xbars n ++ [me]
     let round := firstArrivals p all
     (round.length < p → exec (.xchg d a sc) s =
       .next (block (updOwnerAt s (thr s).owner fun w => { w with xbars := Tab.set all w.xbars n }) (.xchg d a sc) .exchange)) ∧
     (round.length = p → me ∈ round → (∀ x ∈ round, x ≠ me → (x.core ≠ s.core ∨ x.slot ≠ s.slot) ∧ x.uid ≠ me.uid) →
       ∃ t, exec (.xchg d a sc) s = .next t ∧ (thr t).pc = pcPlus (thr s).pc 4 ∧ (thr t).st = (thr s).st.goOn ∧
         (∀ k < p, lane (512 / p) (rv t d) k = lane (512 / p) (round.getD k me).val j) ∧
         ∀ m, m ≠ d.toNat → (thr t).getV m = (thr s).getV m))

/-! ### Queue registers and streams -/

/-- R168 to R170: pops and peeks of a queue register that is bound to a source and has an element for the thread, no other
thread having waited longer to pop or to peek; the tries write a status as well, and do not wait.
R168 to R171: a push to a queue register bound as a queue of the producer's slot, or to an open out-port, is a release,
and then appends the element while fewer than sixteen are queued; a full queue blocks the thread.
R168 and R170: QBIND binds an Unbound queue register to a valid descriptor, empty, for the issuer's kernel, and releases
one that nothing holds; that a descriptor of kind 0 releases it whatever its other bits is assumption 69. QSTAT reads the
binding and the number of elements.
R169: a QUEUE trap holds its reason in bits 15 to 8 and the queue register in bits 3 to 0: an Unbound register has reason
1, a pop from a queue that only feeds reason 2, and a pop by a thread that the binding does not name reason 3. -/
def Obligations.QueueResults : Prop :=
  (∀ (s : State) (d a : BitVec 6) (n : BitVec 4) (e : Word) (es : List Word),
     let q := queue s n
     let o := (thr s).owner
     bindKind q.desc ∈ [1, 2, 3, 4, 6] → bindAny q.desc = true ∨ s.slot = bindCons q.desc → reserved s n.toNat = 0 →
     (∀ p ∈ (coreAt s s.core).threads, ∀ d', p.2.owner = o → p.2.st = .blocked → p.2.wait = some (.qpeek d' n, .retry) →
       waitsBefore s p.2 = true) →
     let popped := updQueue s s.core o n.toNat fun q => { q with elems := es }
     (Issues s [G d] [] → q.elems = e :: es →
       (q.pending = [] → exec (.qpop d n) s = gives popped d e 4) ∧ exec (.qpeek d n) s = gives s d e 4) ∧
     (Issues s [G d] [] → q.elems = [] →
       exec (.qpop d n) s = .next (block s (.qpop d n) .retry) ∧ exec (.qpeek d n) s = .next (block s (.qpeek d n) .retry)) ∧
     (Issues s [G d, G a] [] → d = 0 ∨ d ≠ a →
       (q.elems = e :: es →
         (q.pending = [] → exec (.qtry d a n) s = gives (wg popped d e) a 1 4) ∧ exec (.qtryp d a n) s = gives (wg s d e) a 1 4) ∧
       (q.elems = [] → exec (.qtry d a n) s = gives s a 0 4 ∧ exec (.qtryp d a n) s = gives s a 0 4)) ∧
     ∀ c : BitVec 4, Issues s [G c] [] → q.elems = e :: es → q.pending = [] →
       exec (.qpopCompact c n) s = .next (nextPc (wgn popped c.toNat e) 2)) ∧
  (∀ (s s1 : State) (n : BitVec 4), NoVectorMemory s →
     let b := (queue s n).desc
     let o := (thr s).owner
     bindKind b = 1 ∨ (bindKind b = 7 ∧ (portAt (ctx s) true (bindPort b)).st = .opened) → s.slot = bindProd b →
     release s = .ok () s1 →
     (∀ a : BitVec 6, Issues s [G a] [] →
       ((queue s1 n).elems.length < 16 → exec (.qpush a n) s = .next (nextPc (putElem s1 s.core o n.toNat (rg s a)) 4)) ∧
       (16 ≤ (queue s1 n).elems.length → exec (.qpush a n) s = .next (block s1 (.qpush a n) .retry))) ∧
     (∀ a : BitVec 4, Issues s [G a] [] → (queue s1 n).elems.length < 16 →
       exec (.qpushCompact n a) s = .next (nextPc (putElem s1 s.core o n.toNat ((thr s).getG a.toNat)) 2)) ∧
     ∀ x : Word, (queueAt (putElem s1 s.core o n.toNat x) s.core o n.toNat).elems = (queueAt s1 s.core o n.toNat).elems ++ [x]) ∧
  (∀ (s : State) (n : BitVec 4),
     let q := queue s n
     let o := (thr s).owner
     (∀ a : BitVec 6, Issues s [G a] [] →
       (bindKind (rg s a) ≠ 0 → bindKind q.desc = 0 → badBinding (ctx s) (rg s a) = false →
         exec (.qbind a n) s =
           .next (nextPc (updQueue s s.core o n.toNat fun _ => { desc := rg s a, kid := (thr s).kid }) 4)) ∧
       (bindKind (rg s a) = 0 → (bindKind q.desc = 0 ∨ holdsQueue s n = false) →
         exec (.qbind a n) s = .next (nextPc (updQueue s s.core o n.toNat fun _ => {}) 4))) ∧
     (∀ d : BitVec 6, Issues s [G d] [] →
       (bindKind q.desc = 0 → exec (.qstat d n) s = gives s d 0 4) ∧
       (bindKind q.desc ≠ 0 → q.elems.length ≤ 16 → ∃ r, exec (.qstat d n) s = gives s d r 4 ∧ field r 0 3 = bindKind q.desc ∧
         field r 5 5 = q.elems.length ∧ field r 10 4 = bindProd q.desc ∧ field r 14 4 = bindCons q.desc ∧
         r.getLsbD 18 = bindAny q.desc ∧ field r 22 2 = bindPort q.desc))) ∧
  (∀ (s : State) (d : BitVec 6) (n : BitVec 4), Issues s [G d] [] →
     let b := (queue s n).desc
     let trapped (reason : Nat) : Prop := ∀ i ∈ [Instr.qpop d n, .qpeek d n],
       exec i s = .next (takeTrap s Cause.queue none (BitVec.ofNat 64 (256 * reason + n.toNat)))
     (bindKind b = 0 → trapped 1) ∧ (bindKind b = 5 ∨ bindKind b = 7 → trapped 2) ∧
     (bindKind b ∈ [1, 2, 3, 4, 6] → bindAny b = false → s.slot ≠ bindCons b → trapped 3))

/-- R184 and R185: SOPEN on a Closed out-port with a queue, towards a rank of the owner: the stream opens when the in-port is
Closed and has a queue, and is rejected with 2 when it has no queue. SCLOSE makes an Open out-port Closing; SSTAT reads a
port.
R184 and R185, with no rotation pause of either end's stack (R348): the head flit that reaches a free in-port with a queue
opens the stream and completes the waiting SOPEN, whose thread is Ready;
a stream word moves from the out-queue to the in-queue while that has room, both ports counting it; the marker closes both
ports once every word has left, and sets the in-queue's closed bit. That an out-port counts the words that have left its queue is the
model's choice (assumption 16). -/
def Obligations.StreamResults : Prop :=
  (∀ (s : State) (d a : BitVec 6) (p : BitVec 3),
     let o := (thr s).owner
     let w := rg s a
     let rank := w.toNat % 2 ^ 10
     let port := w.toNat / 2 ^ 10
     let c := rankCore (owner s) rank
     (d ≠ 0 → p.toNat < 4 → Issues s [G d, G a] [] → awaitsStream (thr s) = none → s.splitIssue = false → w.toNat < 2 ^ 12 →
       streamHeld s s.core c = false →
       rank < nrank (owner s) → (portAt (ctx s) true p.toNat).st = .closed → (portQueue (ctx s) true p.toNat).isSome = true →
       ((portQueue (ctxAt s c o) false port).isSome = true → (portAt (ctxAt s c o) false port).st = .closed →
         ∃ t, exec (.sopen d a p) s = .next t ∧ rg t d = 0 ∧ (thr t).pc = pcPlus (thr s).pc 4 ∧
           portAt (ctx t) true p.toNat = { st := .opened, rank := rank, port := port, count := 0 } ∧
           portAt (ctxAt t c o) false port = { st := .opened, rank := rankOf s s.core o, port := p.toNat, count := 0 }) ∧
       ((portQueue (ctxAt s c o) false port) = none →
         ∃ t, exec (.sopen d a p) s = .next t ∧ rg t d = 2 ∧ (portAt (ctx t) true p.toNat).st = .closed)) ∧
     (p.toNat < 4 → Issues s [] [] → (portAt (ctx s) true p.toNat).st = .opened →
       exec (.sclose p) s = .next (nextPc (updOut s s.core o p.toNat fun k => { k with st := .closing }) 4)) ∧
     (p.toNat < 4 → Issues s [] [] → (portAt (ctx s) true p.toNat).st ≠ .opened →
       exec (.sclose p) s = .next (takeTrap s Cause.stream none (BitVec.ofNat 64 (3 * 256 + p.toNat)))) ∧
     (Issues s [G d] [] →
       let k := portAt (ctx s) (decide (p.toNat < 4)) (p.toNat % 4)
       k.rank < 1024 → k.port < 4 → (portQueue (ctx s) (decide (p.toNat < 4)) (p.toNat % 4)).getD 0 < 16 →
       ∃ r, exec (.sstat d p) s = gives s d r 4 ∧ field r 0 2 = k.st.code ∧ field r 32 10 = k.rank ∧ field r 42 2 = k.port ∧
         field r 16 16 = k.count.toNat)) ∧
  (∀ (s : State) (c p : Nat),
     let o := (coreAt s c).active
     let out := portAt (ctxAt s c o) true p
     let dc := rankCore (ownerAt s o) out.rank
     streamHeld s c dc = false →
     (∀ sl t d a k b, (coreAt s c).threads.find? (fun t => t.2.owner == o && t.2.st == .blocked &&
         (match t.2.wait with | some (.sopen _ _ p', .stream _) => p'.toNat == p | _ => false)) = some (sl, t) →
       thrAt s c sl = t → t.wait = some (.sopen d a k, .stream b) → d ≠ 0 → k.toNat = p →
       (portQueue (ctxAt s dc o) false out.port).isSome = true → (portAt (ctxAt s dc o) false out.port).st = .closed →
       ∃ u, exec (.headFlit c p) s = .next u ∧ (thrAt u c sl).st = .ready ∧ (thrAt u c sl).pc = pcPlus t.pc 4 ∧
         (thrAt u c sl).getG d.toNat = 0 ∧ (portAt (ctxAt u c o) true p).st = .opened ∧
         (portAt (ctxAt u dc o) false out.port).st = .opened ∧ u.core = s.core ∧ u.slot = s.slot) ∧
     (∀ q r w ws, portQueue (ctxAt s c o) true p = some q → portQueue (ctxAt s dc o) false out.port = some r →
       (c ≠ dc ∨ q ≠ r) → (queueAt s c o q).elems = w :: ws → out.st = .opened ∨ out.st = .closing →
       (queueAt s dc o r).elems.length < 16 →
       ∃ u, exec (.streamWord c p) s = .next u ∧ (queueAt u c o q).elems = ws ∧
         (queueAt u dc o r).elems = (queueAt s dc o r).elems ++ [w] ∧
         (portAt (ctxAt u c o) true p).count = out.count + 1 ∧
         (portAt (ctxAt u dc o) false out.port).count = (portAt (ctxAt s dc o) false out.port).count + 1) ∧
     (∀ q r, portQueue (ctxAt s c o) true p = some q → portQueue (ctxAt s dc o) false out.port = some r →
       out.st = .closing → out.lost = false → (queueAt s c o q).elems = [] →
       ∃ u, exec (.marker c p) s = .next u ∧ (portAt (ctxAt u c o) true p).st = .closed ∧
         (portAt (ctxAt u dc o) false out.port).st = .closed ∧ (queueAt u dc o r).closed = true))

/-! ### Messages -/

/-- R139, R174, R177 and R182: a message to a mailbox of the sender's owner that is Defined, not Spilled and holds a message
already with room for one more is, after the release, written at the tail of the receive queue: the header, zero, the payload
from the sender's registers and zeros; the sender's counter rises and its register takes status 0. No earlier message of the
core to that rank is still in flight, and no rotation pause holds the rank's stack: R130 and R347 keep the message in flight
otherwise, its sender waiting.
R169 and R177: a descriptor with an invalid field raises QUEUE with reason 12 and the mailbox; a rank that the owner
does not hold raises ACCESS; a reply to a reply raises QUEUE. Nothing is sent.
R176 and R177: the fields of a header, each in its place. -/
def Obligations.MessageSendResults : Prop :=
  (∀ (n : BitVec 16) (o len rclass rmbx cls mbx rank : Nat) (x r : Bool), o < 2 ^ 8 → len < 4 → rclass < 2 ^ 4 → rmbx < 8 →
     cls < 2 ^ 4 → mbx < 8 → rank < 2 ^ 10 →
     (header n o x len rclass rmbx r cls mbx rank).toNat = n.toNat * 2 ^ 48 + o * 2 ^ 40 + (if x then 2 ^ 36 else 0) +
       len * 2 ^ 32 + rclass * 2 ^ 28 + rmbx * 2 ^ 25 + (if r then 2 ^ 24 else 0) + cls * 2 ^ 16 + mbx * 2 ^ 13 + rank) ∧
  (∀ (s s1 : State) (d a : BitVec 6) (key : Nat), Inv s → d ≠ 0 → NoVectorMemory s → release s = .ok () s1 → s1.splitIssue = false →
     let w := rg s d
     let o := (thr s).owner
     let earlier (r : Nat) : Bool := s1.flights.any fun f => f.core == s.core && f.owner == o && f.rank == r
     let reaches (r k : Nat) : Prop :=
       let c := rankCore (owner s) r
       let b := mbxAt s1 c o k
       earlier r = false ∧ pausing s1 (stackOf c) = false ∧ b.defined = true ∧ (ownerAt s o).stopped = false ∧ k ≠ 0 ∧ b.spilled = false ∧ 0 < b.count ∧ b.count < 2 ^ b.k ∧
         lsPlace s1 c o (b.base + 128 * ((b.head + b.count) % 2 ^ b.k)) = some key
     let sent (i : Instr) (r k n : Nat) (h : Word) : Prop :=
       let c := rankCore (owner s) r
       ∃ t, exec i s = .next t ∧ rg t d = 0 ∧ (thr t).pc = pcPlus (thr s).pc 4 ∧ (ctx t).msgCtr = (ctx s).msgCtr + 1 ∧
         (mbxAt t c o k).count = (mbxAt s1 c o k).count + 1 ∧
         readEntry t key = ⟨h, (List.range 8).map fun j => if j < n then (thr s).getG (a.toNat + j) else 0⟩
     let q := (ctx s).rank
     (∀ p ∈ [(8, Instr.send d a), (4, .send4 d a), (1, .send1 d a)],
       Issues s [G d, G a, .g (a.toNat + p.1 - 1)] ((List.range p.1).map fun k => .g (a.toNat + k)) →
       badDesc (p.1 == 1) w = false → w.getLsbD 24 = false → (field w 32 8 = 0 ∨ field w 32 8 = o) →
       field w 0 10 < nrank (owner s) → reaches (field w 0 10) (field w 13 3) →
       sent p.2 (field w 0 10) (field w 13 3) p.1
         (header (ctx s).msgCtr o false (lenCode p.1) (field w 28 4) (field w 25 3) false (field w 16 4) (field w 13 3) q)) ∧
     (Issues s [G d, G a, .g (a.toNat + 3)] ((List.range 4).map fun k => .g (a.toNat + k)) →
       w.getLsbD 24 = false → field w 40 8 = o → field w 0 10 < nrank (owner s) →
       reaches (field w 0 10) (field w 25 3) →
       sent (.reply d a) (field w 0 10) (field w 25 3) 4
         (header (ctx s).msgCtr o false 1 0 0 true (field w 28 4) (field w 25 3) q))) ∧
  (∀ (s : State) (d a : BitVec 6), NoVectorMemory s →
     let w := rg s d
     (∀ p ∈ [(8, Instr.send d a), (4, .send4 d a), (1, .send1 d a)],
       Issues s [G d, G a, .g (a.toNat + p.1 - 1)] ((List.range p.1).map fun k => .g (a.toNat + k)) →
       (field w 40 24 ≠ 0 ∨ field w 10 3 ≠ 0 ∨ (w.getLsbD 24 = false ∧ field w 20 4 ≠ 0) ∨ (w.getLsbD 24 = true ∧
           (p.1 ≠ 1 ∨ field w 25 7 ≠ 0 ∨ field w 13 7 ≠ 0)) →
         exec p.2 s = .next (takeTrap s Cause.queue none (BitVec.ofNat 64 (2 ^ 16 + 12 * 256 + field w 13 3)))) ∧
       (badDesc (p.1 == 1) w = false → field w 32 8 = 0 → nrank (owner s) ≤ field w 0 10 →
         exec p.2 s = .next (takeTrap s Cause.access none w))) ∧
     (Issues s [G d, G a, .g (a.toNat + 3)] ((List.range 4).map fun k => .g (a.toNat + k)) → w.getLsbD 24 = true →
       exec (.reply d a) s = .next (takeTrap s Cause.queue none (BitVec.ofNat 64 (2 ^ 16 + 12 * 256 + field w 25 3)))))

/-- R156, R173, R175, R177 and R181, outside a rotation pause (R344, R347): the first message in flight on its channel
arrives, and its status starts back to its sender. An event gives its word and the event bit to the thread in the slot. A
message for a mailbox that is Undefined, for mailbox 0 from an owner, for a closed mailbox from another owner, or for a stopped
owner has status 3 and leaves mailbox and pond alone; one that can be dispatched at once, ahead of the other mailboxes' heads,
starts its handler and has status 0; one whose queue holds messages and has room is appended with status 0; one whose queue is
full, or whose mailbox is Spilled, goes to the pond with status 1, the mailbox becoming Spilled and MBXOVF pending when it was
not; and one for which the pond has no room has status 2 and changes neither.
The status completes the sender's instruction; the head pond entry moves to a queue with room; and a head is dispatched into a
thread of its class with the payload and the header in its registers. -/
def Obligations.MessageEvents : Prop :=
  ∀ (s : State),
    (∀ n f, s.flights[n]? = some f → firstOnChannel s f = true → f.rank < nrank (ownerAt s f.owner) →
      let o := f.owner
      let k := f.mbx
      let c := rankCore (ownerAt s o) f.rank
      let b := mbxAt s c o k
      let x := ctxAt s c o
      pausing s (stackOf c) = false →
      let arrives (status : BitVec 2) (p : State → Prop) : Prop :=
        ∃ t, exec (.messageArrival n) s = .next t ∧ t.flights = s.flights.filter (fun g => g.id != f.id) ∧ p t ∧
          ((thrAt s f.core f.slot).st ≠ .free → (thrAt s f.core f.slot).uid = f.uid →
            ∀ i, (thrAt s f.core f.slot).wait = some (i, .status f.id none) →
              (thrAt t f.core f.slot).wait = some (i, .status f.id (some status)))
      let head (j : Nat) : Option Msg := if j = k then some f.msg else headMsg s c o j
      let taken : Prop := b.defined = true ∧ (ownerAt s o).stopped = false ∧
        (if k = 0 then f.srcOwner = 0 else f.srcOwner = o ∨ x.mbxopen.getLsbD k = true)
      let full : Prop := b.spilled = true ∨ 2 ^ b.k ≤ b.count
      (∀ sl, f.event = some sl → (thrAt s c sl).st ≠ .free → (thrAt s c sl).owner = f.srcOwner →
        arrives 0 fun t => (thrAt t c sl).evt = true ∧ (thrAt t c sl).evword = f.msg.payload.headD 0) ∧
      (f.event = none → ¬taken → arrives 3 fun t => mbxAt t c o k = b ∧ (ctxAt t c o).pond = x.pond) ∧
      (∀ q sl gb vb, f.event = none → taken → ¬full → b.count = 0 → chooseMailbox s c o head = some k →
        mayDispatch s c o k f.msg = some (q, sl, gb, vb) →
        arrives 0 fun t => (mbxAt t c o k).count = 0 ∧ (thrAt t c sl).st = .ready ∧ (thrAt t c sl).pc = q.entry ∧
          (thrAt t c sl).kid = q.kid ∧ (thrAt t c sl).getG 9 = f.msg.header) ∧
      (∀ key, Inv s → f.event = none → taken → ¬full → 0 < b.count → f.msg.payload.length ≤ 8 →
        lsPlace s c o (b.base + 128 * ((b.head + b.count) % 2 ^ b.k)) = some key →
        arrives 0 fun t => (mbxAt t c o k).count = b.count + 1 ∧ (readEntry t key).header = f.msg.header ∧
          ∀ j < 8, (readEntry t key).payload.getD j 0 = f.msg.payload.getD j 0) ∧
      (∀ key, f.event = none → taken → full → pondSpan x < pondSize x → pondKey s o x x.pondTail { w := true } = some key →
        arrives 1 fun t => (ctxAt t c o).pond = x.pond ++ [(x.pondTail, k)] ∧ (mbxAt t c o k).spilled = true ∧
          (mbxAt t c o k).count = b.count ∧
          (ctxAt t c o).ovf = x.ovf ++ if b.spilled then [] else [ovfValue o k (x.pond.length + 1)]) ∧
      (f.event = none → taken → full → pondSize x ≤ pondSpan x →
        arrives 2 fun t => mbxAt t c o k = b ∧ (ctxAt t c o).pond = x.pond)) ∧
    (∀ c sl i id st, (thrAt s c sl).wait = some (i, .status id (some st)) → pausing s (stackOf c) = false →
      ∃ t, exec (.messageStatus c sl) s = .next t ∧ t.core = s.core ∧ t.slot = s.slot ∧
        thrAt t c sl = { (thrAt s c sl).setG (sendDest i).toNat (st.setWidth 64) with
          pc := pcPlus (thrAt s c sl).pc (BitVec.ofNat 64 i.size), st := (thrAt s c sl).st.goOn, wait := none }) ∧
    (∀ c o i k rest key, (ctxAt s c o).pond = (i, k) :: rest → (mbxAt s c o k).defined = true →
      (mbxAt s c o k).count < 2 ^ (mbxAt s c o k).k → pondKey s o (ctxAt s c o) i { r := true } = some key →
      pausing s (stackOf c) = false →
      ∃ t, exec (.pondMove c o) s = .next t ∧ (ctxAt t c o).pond = rest ∧
        (mbxAt t c o k).count = (mbxAt s c o k).count + 1 ∧
        ((rest.any fun p => p.2 == k) = false → (mbxAt t c o k).spilled = false)) ∧
    ∀ c k m b sl gb vb, nextMailbox s c (coreAt s c).active = some k → headMsg s c (coreAt s c).active k = some m →
      mayDispatch s c (coreAt s c).active k m = some (b, sl, gb, vb) → pausing s (stackOf c) = false →
      ∃ t, exec (.dispatch c) s = .next t ∧
        (mbxAt t c (coreAt s c).active k).count = (mbxAt s c (coreAt s c).active k).count - 1 ∧
        let h := thrAt t c sl
        h.st = .ready ∧ h.pc = b.entry ∧ h.owner = (coreAt s c).active ∧ h.kid = b.kid ∧ h.sup = false ∧
          h.mbx = some (k, b.exclusive) ∧ h.getG 9 = m.header ∧
          ∀ j < 8, h.getG (j + 1) = payloadWord m b.words b.types j

/-- R179, R180 and R182: MBXDEF, BIND and UNBIND change the mailbox or the class binding from a descriptor in the issuer's own
local store, and a kernel that so loses a class binding may end (R189); RECV takes the head of a pull class into nine registers.
R60 and R169: the QUEUE traps of the four, in the order of each rule after the address checks: an Undefined mailbox reason 8,
an invalid descriptor reason 10, mailbox 0 in user mode reason 9, and MBXDEF of a mailbox that holds messages reason 11. -/
def Obligations.MailboxResults : Prop :=
  (∀ (s : State) (a d : BitVec 6) (b : BitVec 3) (c : BitVec 4) (k : Nat), isControl s.core = false → NoVectorMemory s →
    NoBuffered s →
    let word (i : Nat) : Word := BitVec.ofNat 64 (homeNat s (k + 8 * i) 8)
    let defined := (mbxAt s s.core (thr s).owner b.toNat).defined
    let user : Prop := b = 0 ∧ (thr s).sup = false
    let traps (i : Instr) (reason : Nat) : Prop :=
      exec i s = .next (takeTrap s Cause.queue none (BitVec.ofNat 64 (2 ^ 16 + reason * 2 ^ 8 + b.toNat)))
    (Issues s [G a] [] →
      (a = 0 → (user → traps (.mbxdef a b) 9) ∧ (¬ user → holdsMessages s b = true → traps (.mbxdef a b) 11)) ∧
      (a ≠ 0 → OwnAccess s (rg s a) 0 16 k →
        let fits : Prop := (word 0).toNat % 128 = 0 ∧ 4 ≤ (word 1).toNat ∧ (word 1).toNat ≤ 12 ∧
          (word 0).toNat + 128 * 2 ^ (word 1).toNat ≤ lsLimit s s.core (thr s).owner
        (user → traps (.mbxdef a b) 9) ∧ (¬ user → ¬ fits → traps (.mbxdef a b) 10) ∧
        (¬ user → fits → holdsMessages s b = true → traps (.mbxdef a b) 11)) ∧
      (OwnAccess s (rg s a) 0 32 k →
        let bad := badClass [word 0, word 1, word 2, word 3]
        (defined = false → traps (.bind a b c) 8) ∧ (defined = true → bad = true → traps (.bind a b c) 10) ∧
        (defined = true → bad = false → user → traps (.bind a b c) 9))) ∧
    (Issues s [] [] → (defined = false → traps (.unbind b c) 8) ∧ (defined = true → user → traps (.unbind b c) 9)) ∧
    (Issues s [G d, .g (d.toNat + 8)] ((List.range 9).map fun k => .g (d.toNat + k)) →
      (defined = false → traps (.recv d b) 8) ∧ (defined = true → user → traps (.recv d b) 9))) ∧
  ∀ (s : State) (a : BitVec 6) (b : BitVec 3) (c : BitVec 4) (k : Nat), isControl s.core = false → NoVectorMemory s →
    NoBuffered s → b ≠ 0 ∨ (thr s).sup = true →
    let o := (thr s).owner
    let word (i : Nat) : Word := BitVec.ofNat 64 (homeNat s (k + 8 * i) 8)
    let m := mbxAt s s.core o b.toNat
    (Issues s [G a] [] → holdsMessages s b = false →
      (a = 0 → exec (.mbxdef a b) s = .next (nextPc (settleKids (updCtx s fun x =>
          { x with mbxs := Tab.del x.mbxs b.toNat, classes := x.classes.filter fun c => c.1 / 16 != b.toNat })
        (boundKids s fun n => n / 16 == b.toNat)) 4)) ∧
      (a ≠ 0 → OwnAccess s (rg s a) 0 16 k → (word 0).toNat % 128 = 0 → 4 ≤ (word 1).toNat → (word 1).toNat ≤ 12 →
        (word 0).toNat + 128 * 2 ^ (word 1).toNat ≤ lsLimit s s.core o →
        exec (.mbxdef a b) s = .next (nextPc (updMbx s s.core o b.toNat fun _ =>
          { defined := true, base := (word 0).toNat, k := (word 1).toNat, kid := (thr s).kid }) 4))) ∧
    (Issues s [G a] [] → m.defined = true → OwnAccess s (rg s a) 0 32 k → badClass [word 0, word 1, word 2, word 3] = false →
      let bound : ClassBind := ⟨word 0, word 1, word 2, (thr s).kid⟩
      let n := 16 * b.toNat + c.toNat
      exec (.bind a b c) s = .next (nextPc (settleKids (updCtx s fun x => { x with classes := Tab.set bound x.classes n })
        (boundKids s fun i => i == n)) 4)) ∧
    (Issues s [] [] → m.defined = true → (∀ q j, classAt s s.core o b.toNat c.toNat = some q → kernelAt s o q.kid = some j →
        j.st ≠ .closing) →
      ∃ t, exec (.unbind b c) s = .next t ∧ (thr t).pc = pcPlus (thr s).pc 4 ∧ classAt t s.core o b.toNat c.toNat = none ∧
        ∀ i j, j < 16 → c.toNat ≠ j ∨ i ≠ b.toNat → classAt t s.core o i j = classAt s s.core o i j) ∧
    (∀ (d : BitVec 6) (h : Msg) (q : ClassBind),
      Issues s [G d, .g (d.toNat + 8)] ((List.range 9).map fun k => .g (d.toNat + k)) → m.defined = true →
      headMsg s s.core o b.toNat = some h → classAt s s.core o b.toNat (hdrClass h.header) = some q → q.entry = 0 →
      ∃ t, exec (.recv d b) s = .next t ∧ (thr t).pc = pcPlus (thr s).pc 4 ∧
        (mbxAt t s.core o b.toNat).count = m.count - 1 ∧ (thr t).getG (d.toNat + 8) = h.header ∧
        ∀ j < 8, d.toNat + j ≠ 0 → (thr t).getG (d.toNat + j) = payloadWord h q.words q.types j)

/-! ### Threads and kernels -/

/-- R146 and R57: DONE of a user-mode thread in no gang, with no dispatch pending and no late fault to take, ends it: its
slot, window and vector run are free; its stores stay in the buffers. In supervisor mode DONE raises PRIV (R67).
R147 and R148: SUSPEND stores the continuation record, word 0 last, at its home, and ends the thread, where no store of the
core is left in the buffer and each move of the record follows at once. The record is in the thread's own local store.
R149 and R100: RESUMEC claims a record with a valid word 0: the record's word 0 is zero at its home and a new thread of the
kernel runs at the code address with g1 to g7 from the doublewords at ea + 8 to ea + 56, each where the mode locates it, and the
record's word in g8; a word 0 of zero, an invalid one, or no room, writes 3, 2 or 1 and starts nothing.
That the buffer drains within SUSPEND's move is assumption 20, that the record of SUSPEND lies contiguous is assumption 18, and
that a set bit 0 of word 0 is dropped from the PC is assumption 66. -/
def Obligations.ThreadLife : Prop :=
  (∀ (s : State), Issues s [] [] → isControl s.core = false →
     ((thr s).sup = false → (thr s).gang = none → idleUnits s s.core (thr s) = true → dueLate (thr s) = none →
       exec .done s = .next (endThread s s.core s.slot) ∧ exec .doneCompact s = .next (endThread s s.core s.slot) ∧
       (thrAt (endThread s s.core s.slot) s.core s.slot).st = .free ∧
       (coreAt (endThread s s.core s.slot) s.core).sb = (coreAt s s.core).sb ∧
       (coreAt (endThread s s.core s.slot) s.core).rel = (coreAt s s.core).rel) ∧
     ((thr s).sup = true → exec .done s = .next (takeTrap s Cause.priv none Instr.done.word) ∧
       exec .doneCompact s = .next (takeTrap s Cause.priv none Instr.doneCompact.word))) ∧
  (∀ (s s1 : State) (a : BitVec 6) (k : Nat), Inv s → Issues s [G a] [] → isControl s.core = false → NoVectorMemory s →
     (thr s).sup = false → (thr s).gang = none → idleUnits s s.core (thr s) = true → dueLate (thr s) = none →
     release s = .ok () s1 → (coreAt s1 s.core).sb = [] → s1.splitIssue = false → OwnAccess s (rg s a) 0 64 k →
     let pc := pcPlus (thr s).pc 4
     ∃ u, exec (.suspend a) s = .next (endThread u s.core s.slot) ∧ thr u = thr s ∧
       homeNat u k 8 = (if pc.getLsbD 63 then 2 ^ 63 else 0) + (thr s).prio.toNat * 2 ^ 54 + (thr s).wsz.toNat * 2 ^ 52 +
         pc.toNat % 2 ^ 52 ∧
       (∀ i < 7, homeNat u (k + 8 * (i + 1)) 8 = ((thr s).getG (i + 1)).toNat) ∧
       ∀ x, x < k ∨ k + 64 ≤ x → homeByte u x = homeByte s1 x) ∧
  (∀ (s s1 : State) (d a : BitVec 6) (m : BitVec 3) (e : Nat) (l : Loc) (ls : Nat → Loc), Inv s → Issues s [G d, G a] [] → isControl s.core = false →
     NoVectorMemory s → (thr s).gang = none → (Instr.resumec d a m).wf = true →
     address s (rg s a) 0 64 m { r := true, w := true } = .ok (e, l) s1 →
     (∀ i < 7, locate s1 m (e + 8 * (i + 1)) { r := true } = .ok (ls i) s1) →
     let w := BitVec.ofNat 64 (homeNat s1 l.key 8)
     let valid : Prop := field w 52 2 ≠ 3 ∧ (w.getLsbD 63 = false ∨ field w 22 30 = 0)
     (w = 0 → exec (.resumec d a m) s = gives s1 d 3 4) ∧
     (w ≠ 0 → ¬ valid → exec (.resumec d a m) s = gives s1 d 2 4) ∧
     (w ≠ 0 → valid → roomFor s1 s.core (w.extractLsb' 52 2) 0 = none → exec (.resumec d a m) s = gives s1 d 1 4) ∧
     (∀ sl gb vb, w ≠ 0 → valid → roomFor s1 s.core (w.extractLsb' 52 2) 0 = some (sl, gb, vb) → sl ≠ s.slot → d ≠ 0 →
       w.getLsbD 62 = false → wrapping s (thr s).owner (thr s).kid = false →
       ∃ t, exec (.resumec d a m) s = .next t ∧ rg t d = 0 ∧ (thr t).pc = pcPlus (thr s).pc 4 ∧ homeNat t l.key 8 = 0 ∧
         let n := thrAt t s.core sl
         n.st = .ready ∧ n.owner = (thr s).owner ∧ n.kid = (thr s).kid ∧ n.sup = false ∧
           n.pc = BitVec.ofNat 64 ((if w.getLsbD 63 then 2 ^ 63 else 0) + 2 * field w 1 51) ∧ n.getG 8 = w ∧
           ∀ i < 7, n.getG (i + 1) = BitVec.ofNat 64 (homeNat s1 (ls i).key 8))) ∧
  (∀ (s s1 : State) (d a : BitVec 6) (m : BitVec 3) (e : Nat) (l : Loc) (n : Nat) (c : BitVec 8) (v : Word),
     Issues s [G d, G a] [] → isControl s.core = false → NoVectorMemory s → (thr s).gang = none →
     (Instr.resumec d a m).wf = true → address s (rg s a) 0 64 m { r := true, w := true } = .ok (e, l) s1 → n < 7 →
     (∀ i < n, ∃ l, locate s1 m (e + 8 * (i + 1)) { r := true } = .ok l s1) →
     locate s1 m (e + 8 * (n + 1)) { r := true } = .trap c v s1 →
     exec (.resumec d a m) s = .next (takeTrap s1 c none v))

/-- R195: KLAUNCH in supervisor mode starts the thread of a task record: entry, budget, arguments in g1 to g4, the kernel index,
count and KID in g5 to g7; a malformed record writes 2, a kernel not running 4, no room 1. In user mode it raises PRIV.
R207, R208 and R209: KSTAT reads the status of a kernel; DLGET sets the kernel's remaining duration where g[ra] is not zero and
reads its slack, DLINE − TIME − rem − p; BUDGET reads the thread's budget, which a user-mode thread that has one can shorten
and never lengthen, and one set to zero is due at the next boundary (assumption 19).
R189, R193 and R205: WRAPDONE writes the kernel's flag once, with the value 1 or 2 that g[ra] holds and 3 for every other, makes
the kernel Closing, frees every other thread of it, in a slot or with its owner swapped out, and ends the thread. That the others
are freed in the same step is the model's choice (assumption 38). -/
def Obligations.KernelResults : Prop :=
  (∀ (s : State) (d a : BitVec 6),
     let w (i : Nat) : Word := (thr s).getG (a.toNat + i)
     let o := (thr s).owner
     let kid := field (w 1) 0 32
     let ok : Prop := field (w 1) 53 11 = 0 ∧ field (w 2) 19 45 = 0 ∧ field (w 2) 0 2 ≠ 3 ∧ codeAddress (w 0) = true
     let runs : Prop := kstate s o kid = some .running ∨ kstate s o kid = some .wrappingUp
     let room := roomFor s s.core ((w 2).extractLsb' 0 2) ((w 2).extractLsb' 2 2)
     ((thr s).sup = false → canIssue (thr s) = true → outstanding (thr s) = false →
       exec (.klaunch d a) s = .next (takeTrap s Cause.priv none (Instr.klaunch d a).word)) ∧
     ((thr s).sup = true → Issues s [G d, G a, .g (a.toNat + 7)] ((List.range 8).map fun k => .g (a.toNat + k)) →
       (¬ ok → exec (.klaunch d a) s = gives s d 2 4) ∧
       (ok → ¬ runs → exec (.klaunch d a) s = gives s d 4 4) ∧
       (ok → runs → room = none → exec (.klaunch d a) s = gives s d 1 4) ∧
       ∀ sl gb vb, ok → kstate s o kid = some .running → room = some (sl, gb, vb) → sl ≠ s.slot → d ≠ 0 →
         ∃ t, exec (.klaunch d a) s = .next t ∧ rg t d = 0 ∧ (thr t).pc = pcPlus (thr s).pc 4 ∧
           let n := thrAt t s.core sl
           n.st = .ready ∧ n.pc = w 0 ∧ n.sup = false ∧ n.owner = o ∧ n.kid = kid ∧ n.prio = (w 2).extractLsb' 4 8 ∧
             n.budget = (w 3).toNat % 2 ^ 48 ∧ (∀ i < 4, n.getG (i + 1) = w (i + 4)) ∧
             n.getG 5 = BitVec.ofNat 64 (field (w 1) 32 10) ∧ n.getG 6 = BitVec.ofNat 64 (field (w 1) 42 11) ∧
             n.getG 7 = BitVec.ofNat 64 kid)) ∧
  (∀ (s : State) (d a : BitVec 6), Issues s [G d, G a] [] →
     let o := (thr s).owner
     let kid := if rg s a = 0 then (thr s).kid else (rg s a).toNat
     (kernelAt s o kid = none → exec (.kstat d a) s = gives s d 0 4) ∧
     (∀ k, kernelAt s o kid = some k → kid < 2 ^ 32 → k.cause < 2 ^ 8 → k.flag < 2 ^ 8 →
       exec (.kstat d a) s = gives s d (BitVec.ofNat 64 (kid * 2 ^ 32 + k.cause * 2 ^ 16 + k.flag * 2 ^ 8 + k.st.code)) 4) ∧
     (rg s a = 0 → kernelAt s o (thr s).kid = none → exec (.dlget d a) s = gives s d (BitVec.ofNat 64 (2 ^ 63 - 1)) 4) ∧
     (∀ k, kernelAt s o (thr s).kid = some k →
       let set := (rg s a).toNat
       let t := if rg s a = 0 then s else updKernel s o (thr s).kid fun k => { k with rem := some (set, timeNow s) }
       let rem : Nat :=
         if rg s a ≠ 0 then set
         else match k.rem with
           | some (r, at') => r - (timeNow s - at')
           | none => if k.st = .placing ∨ k.st = .queued then k.expected else k.expected - (timeNow s - k.placed)
       let left : Int := (k.dline : Int) - timeNow s - rem
       let due : Prop := ∃ g ∈ k.groups, let n := stackOf (rankCore (ownerAt s o) (16 * g))
         (stackAt s n).rotEn = true ∧ ((rotNext s n).toNat : Int) < (k.dline : Int) - rem
       (k.hasDeadline = false → exec (.dlget d a) s = gives t d (BitVec.ofNat 64 (2 ^ 63 - 1)) 4) ∧
       (k.hasDeadline = true → ¬ due → exec (.dlget d a) s = gives t d (BitVec.ofInt 64 left) 4) ∧
       (k.hasDeadline = true → due → exec (.dlget d a) s = gives t d (BitVec.ofInt 64 (left - 8000)) 4)) ∧
     (let before : Word := BitVec.ofNat 64 ((if (thr s).budgetEn then 2 ^ 63 else 0) + (thr s).budget)
      let n := (rg s a).toNat % 2 ^ 48
      let n := if (thr s).sup = false ∧ (thr s).budgetEn = true then min (thr s).budget n else n
      (thr s).budget < 2 ^ 48 →
      exec (.budget d a) s = gives (if rg s a = 0 then s else updThr s fun t =>
        { t with budgetEn := true, budget := n, budgetDue := n == 0 }) d before 4)) ∧
  (∀ (s s1 : State) (a : BitVec 6), Issues s [G a] [] → NoVectorMemory s → (thr s).sup = false → (thr s).gang = none →
     NoBuffered s → postedOut s s.core (thr s).uid = false → release s = .ok () s1 →
     let w := (rg s a).toNat
     let x := closeKernel s1 (thr s).owner (thr s).kid (thr s).uid (if w = 1 ∨ w = 2 then w else 3)
     idleUnits x s.core (thr x) = true → dueLate (thr x) = none → (thr x).gang = none →
     exec (.wrapdone a) s = .next (endThread x s.core s.slot) ∧
       ∀ k, kernelAt s1 (thr s).owner (thr s).kid = some k → k.live = true →
         let o := (thr s).owner
         let kid := (thr s).kid
         let v := if w = 1 ∨ w = 2 then w else 3
         (kernelAt x o kid).map Kernel.st = some .closing ∧
         (k.flag = 0 → (kernelAt x o kid).map Kernel.flag = some v ∧
           ∀ key, Inv s1 → kid < 2 ^ 32 → userPlace s1 o (ptrAddr k.flagAddr) { w := true } = some key →
             homeNat x key 8 = kid * 2 ^ 32 + v) ∧
         (k.flag ≠ 0 → (kernelAt x o kid).map Kernel.flag = some k.flag) ∧
         (∀ c sl, (thrAt x c sl).st ≠ .free → ofKernel o kid (thrAt x c sl) = true → (thrAt x c sl).uid = (thr s).uid) ∧
         ∀ c sl, let t := Tab.get {} (Tab.get [] (coreAt x c).shadow o) sl
           t.st ≠ .free → ofKernel o kid t = true → t.uid = (thr s).uid)

/-- R210: RFORK parks the forker in a join cell and starts one task on each core recruited, in the order of the rule, with its
slice of the range, the argument, the handle and its number in g1 to g5. A range of zero writes 3 into g8, a kernel wrapping
up 2, and no free cell 1, and the thread goes on.
R211: JOIN ends the task; of the last task of a fork the slot is the forker's again, which goes on after its RFORK with
g1 to g7 as parked and the number of tasks in g8. A handle that names no cell raises ACCESS. -/
def Obligations.ForkAndJoinResults : Prop :=
  (∀ (s s1 : State) (a : BitVec 6), Issues s [G a, .g (a.toNat + 4)] ((List.range 5).map fun k => .g (a.toNat + k)) →
     NoVectorMemory s → (thr s).gang = none →
     let ops := (List.range 5).map fun k => (thr s).getG (a.toNat + k)
     let o := (thr s).owner
     let kid := (thr s).kid
     let rank := (ctx s).rank
     let count := (ops.getD 1 0).toNat
     let w3 := ops.getD 3 0
     let g8 (n : Word) : Out := .next (nextPc (wgn s 8 n) 4)
     badFork ops = false →
     (wrapping s o kid = true → exec (.rfork a) s = g8 2) ∧
     (wrapping s o kid = false → count = 0 → exec (.rfork a) s = g8 3) ∧
     (wrapping s o kid = false → count ≠ 0 → freeCell (owner s) (rank / 16) = none → exec (.rfork a) s = g8 1) ∧
     (∀ cell, wrapping s o kid = false → count ≠ 0 → freeCell (owner s) (rank / 16) = some cell →
       idleUnits s s.core (thr s) = true → dueLate (thr s) = none → release s = .ok () s1 →
       let core (r : Nat) := rankCore (owner s) r
       let parkedState := freeSlot s1 s.core s.slot
       let free := (forkOrder rank).filter fun r => (Tab.find (coreAt s1 (core r)).ctxs o).isSome &&
         (roomFor parkedState (core r) (w3.extractLsb' 10 2) (w3.extractLsb' 12 2)).isSome
       let most := min ((count + (ops.getD 2 0).toNat - 1) / (ops.getD 2 0).toNat) free.length
       let n := if field w3 0 10 = 0 then most else min most (field w3 0 10)
       0 < n → (∀ r ∈ free, ∀ q ∈ free, core r = core q → r = q) →
       ∃ t, exec (.rfork a) s = .next t ∧
         Tab.find (ownerAt t o).joins cell = some
           { core := s.core, kid := kid, pending := n, total := n, pc := pcPlus (thr s).pc 4, regs := parked (thr s),
             wsz := (thr s).wsz, prio := (thr s).prio, discarded := false, waits := false } ∧
         ∀ j < n, ∃ sl, let f := thrAt t (core (free.getD j 0)) sl
           f.st = .ready ∧ f.kid = kid ∧ f.owner = o ∧ f.pc = ops.getD 0 0 ∧
             f.getG 1 = BitVec.ofNat 64 (sliceOf count n j).1 ∧
             f.getG 2 = BitVec.ofNat 64 ((sliceOf count n j).1 + (sliceOf count n j).2) ∧ f.getG 3 = ops.getD 4 0 ∧
             f.getG 4 = Config.joinHandle cell ∧ f.getG 5 = BitVec.ofNat 64 j)) ∧
  (∀ (s s1 : State) (a : BitVec 6), Issues s [G a] [] → NoVectorMemory s → (thr s).gang = none →
     let o := (thr s).owner
     let kid := (thr s).kid
     (cellNamed (owner s) (rg s a) = none → exec (.join a) s = .next (takeTrap s Cause.access none (rg s a))) ∧
     (∀ n j, cellNamed (owner s) (rg s a) = some (n, j) → j.discarded = false → idleUnits s s.core (thr s) = true →
       dueLate (thr s) = none → release s = .ok () s1 →
       (1 < j.pending → ∃ u, exec (.join a) s = .next (settleKernel u o kid) ∧ (thrAt u s.core s.slot).st = .free ∧
         Tab.find (ownerAt u o).joins n = some { j with pending := j.pending - 1 }) ∧
       (j.pending = 1 → j.regs.length = 7 → j.total < 2 ^ 64 →
         ∃ u, exec (.join a) s = .next (settleKernel u o kid) ∧ Tab.find (ownerAt u o).joins n = none ∧
           let f := thrAt u s.core s.slot
           (f.st = .ready ∨ f.st = .starting) ∧ f.pc = j.pc ∧ f.kid = j.kid ∧ f.owner = o ∧
             f.getG 8 = BitVec.ofNat 64 j.total ∧ ∀ i < 7, f.getG (i + 1) = j.regs.getD i 0)))

/-- R187, R188, R190, R192 and R201: ATTACH checks the control block's privileged words and begins at its read index; a ready
slot is consumed, its record Placing under the next KID or Rejected, and a slot that is neither ready nor old faults the ring;
a Closed kernel's list is considered once, its record one depth deeper, and a list that cannot be read makes an error record.
That a rejected record takes the next KID (assumption 22), and that one event consumes one record, read at its home in the owner's
user space (assumption 23), are the model's choices. -/
def Obligations.LaunchEvents : Prop :=
  ∀ (s : State) (o r : Nat),
    let w := ownerAt s o
    let few : Prop := (w.kernels.filter fun k => k.2.over).length < 4096
    let next := w.nextKid
    let record (ring depth : Nat) (ws : List Word) : Kernel :=
      { st := .placing, record := ws.drop 1, ring := ring, depth := depth, order := s.nextUid, entered := timeNow s }
    (∀ qcb s32 s40 ws, (Tab.find s.owners o).isSome = true → userWords s o qcb 8 = some ws →
      let w32 := ws.getD 4 0
      let w40 := ws.getD 5 0
      let good := w32.toNat == s32 && w40.toNat == s40 && ringWordsFit s o w32 w40 (ws.getD 6 0) (ws.getD 7 0)
      ∃ t, exec (.attach o qcb s32 s40) s = .next t ∧
        Tab.find (ownerAt t o).cmdRings (ringNumber w qcb) = some
          { qcb := qcb, base := field w32 12 40 * 4096, n := field w32 0 4, ceil := field w40 8 8, host := w40.getLsbD 16
            running := good, r := (ws.getD 1 0).toNat } ∧
        ∀ k, Inv s → userPlace s o (qcb + 16) { w := true } = some k → homeNat t k 8 = if good then 1 else 258) ∧
    (∀ q ws, Tab.find w.cmdRings r = some q → q.running = true → w.stopped = false →
      userWords s o (q.base + 128 * (q.r % 2 ^ q.n)) 16 = some ws →
      ∀ i ∈ [Instr.doorbell o r, .ringPoll o r],
        ((ws.getD 0 0).toNat = (q.r + 1) % 2 ^ 64 → ∃ t, exec i s = .next t ∧
          (Tab.find (ownerAt t o).cmdRings r).map CmdRing.r = some ((q.r + 1) % 2 ^ 64) ∧
          (ownerAt t o).nextKid = (if next + 1 = 2 ^ 32 then 1 else next + 1) ∧
          (rejection s o (record r 0 ws) q.ceil = none → kernelAt t o next = some (record r 0 ws)) ∧
          (∀ e, few → rejection s o (record r 0 ws) q.ceil = some e →
            (kernelAt t o next).map (fun k => (k.st, k.cause, k.detail)) = some (.rejected, e.1, e.2))) ∧
        ((ws.getD 0 0).toNat = (q.r + 1 + 2 ^ 64 - 2 ^ q.n) % 2 ^ 64 → (ws.getD 0 0).toNat ≠ (q.r + 1) % 2 ^ 64 →
          exec i s = .next s) ∧
        ((ws.getD 0 0).toNat ≠ (q.r + 1) % 2 ^ 64 → (ws.getD 0 0).toNat ≠ (q.r + 1 + 2 ^ 64 - 2 ^ q.n) % 2 ^ 64 →
          ∃ t, exec i s = .next t ∧ Tab.find (ownerAt t o).cmdRings r = some { q with running := false })) ∧
    (∀ k, kernelAt s o r = some k → k.st = .closed → k.listDone = false →
      (k.listAddr = 0 → exec (.successorList o r) s = .next (updKernel s o r fun k => { k with listDone := true })) ∧
      (k.listAddr ≠ 0 → k.listAddr.toNat % 128 = 0 → k.listAddr.toNat < 2 ^ 52 → userWords s o k.listAddr.toNat 16 = none →
        ∃ t, exec (.successorList o r) s = .next t ∧ t.sys.errs.length = s.sys.errs.length + 1 ∧
          (kernelAt t o r).map Kernel.listDone = some true) ∧
      ∀ ws rec, k.listAddr ≠ 0 → k.listAddr.toNat % 128 = 0 → k.listAddr.toNat < 2 ^ 52 →
        userWords s o k.listAddr.toNat 16 = some ws → k.flag = 1 → badHeader ws = false → field (ws.getD 0 0) 0 5 = 1 →
        userWords s o (k.listAddr.toNat + 128) 16 = some rec → next ≠ r →
        rejection s o (record k.ring (k.depth + 1) rec) (((Tab.find w.cmdRings k.ring).map CmdRing.ceil).getD 0) = none →
        ∃ t, exec (.successorList o r) s = .next t ∧ kernelAt t o next = some (record k.ring (k.depth + 1) rec) ∧
          (kernelAt t o r).map Kernel.listDone = some true)

/-- R194, R312, R313 and R314: a pass is due when a kernel has entered Placing, a group has become Free or usable or the groups
have changed since the last one, or 1 ms after it; otherwise the event changes nothing. A pass over an owner with one kernel in Placing
that fits places it on the groups of fit, whole: it is Running, with a task record held for every rank of its groups; one that
does not fit stays. fit takes the lowest groups of the lowest position that holds enough for up to four, and for more the
lowest whole positions first, then the rest by that rule among the other positions; it fails when too few are found. That a
group no longer usable asks for no pass, and a task record that is refused is lost, are the model's choices (assumption 75).
R204 and R206: at its deadline a Running kernel becomes WrappingUp with its wrap-up budget, and one still Placing is Closed
with INVALID, cause 0x23; when the budget has run out it is Killed with INVALID, cause 0x20. -/
def Obligations.PlacementAndDeadlineEvents : Prop :=
  (∀ (s : State) (o kid p : Nat) (k : Kernel), (Tab.find s.owners o).isSome = true → (ownerAt s o).stopped = false →
     kernelAt s o kid = some k → placingOrder s o = [(kid, p, k)] →
     let positions := (ownerAt s o).grants.length
     let last := (ownerAt s o).pass
     let asked : Prop := kid ∉ last.kids ∨ last.groups ≠ 4 * positions ∨ last.done + 3300000 ≤ s.cycle ∨
       (∃ g ∈ usable s o, g ∉ last.usable) ∨
       ∃ g < 4 * positions, (∀ p ∈ (ownerAt s o).kernels, p.2.live = true → g ∉ p.2.groups) ∧ g ∉ last.free
     (¬asked → exec (.placementPass o) s = .next s) ∧
     (∀ gs, asked → fit k.ngroups positions (usable s o) = some gs →
       ∃ t, exec (.placementPass o) s = .next t ∧
         (kernelAt t o kid).map (fun k => (k.st, k.groups, k.placed, k.tasks)) =
           some (.running, gs, timeNow s, (gs.map fun g => (List.range 16).map fun i => 16 * g + i).flatten)) ∧
     (asked → fit k.ngroups positions (usable s o) = none →
       ∃ t, exec (.placementPass o) s = .next t ∧ (ownerAt t o).kernels = (ownerAt s o).kernels)) ∧
  (∀ (n positions : Nat) (u : List Nat), 0 < n → u.Pairwise (· < ·) → (∀ g ∈ u, g < 4 * positions) →
     let held (p : Nat) : List Nat := u.filter fun g => g / 4 == p
     -- the n lowest groups of the lowest position outside `ps` that holds so many
     let few (n : Nat) (ps gs : List Nat) : Prop := ∃ q < positions, q ∉ ps ∧ n ≤ (held q).length ∧ gs = (held q).take n ∧
       ∀ p < q, p ∉ ps → (held p).length < n
     -- the lowest positions with all four groups
     let whole (ps : List Nat) : Prop := ps.Pairwise (· < ·) ∧ (∀ p ∈ ps, (held p).length = 4) ∧
       ∀ p < positions, (held p).length = 4 → p ∉ ps → ∀ q ∈ ps, q < p
     (n ≤ 4 → (∀ gs, fit n positions u = some gs → few n [] gs) ∧
       (fit n positions u = none → ∀ p < positions, (held p).length < n)) ∧
     (4 < n → (∀ gs, fit n positions u = some gs → gs.Pairwise (· < ·) ∧ ∃ ps rest, whole ps ∧ ps.length = n / 4 ∧
         (if n % 4 = 0 then rest = [] else few (n % 4) ps rest) ∧ ∀ g, g ∈ gs ↔ (g ∈ u ∧ g / 4 ∈ ps) ∨ g ∈ rest) ∧
       (fit n positions u = none → ∀ ps, whole ps → ps.length = n / 4 →
         n % 4 ≠ 0 ∧ ∀ p < positions, p ∉ ps → (held p).length < n % 4))) ∧
  (∀ (s : State) (o kid : Nat) (k : Kernel), kernelAt s o kid = some k → k.flag = 0 →
     ((ownerAt s o).kernels.filter fun k => k.2.over).length < 4096 →
     let is (i : Instr) (st : KState) (cause : Nat) : Prop :=
       ∃ t, exec i s = .next t ∧ (kernelAt t o kid).map (fun k => (k.st, k.flag, k.cause)) = some (st, 3, cause)
     (k.hasDeadline = true → k.dline ≤ timeNow s →
       (k.st = .running → ∃ t, exec (.deadlineExpiry o kid) s = .next t ∧
         kernelAt t o kid = some { k with st := .wrappingUp, wrapLeft := k.wrapBudget }) ∧
       (k.st = .placing → is (.deadlineExpiry o kid) .closed 0x23)) ∧
     (k.hasDeadline = false ∨ timeNow s < k.dline → exec (.deadlineExpiry o kid) s = .next s) ∧
     (k.st = .wrappingUp → k.wrapLeft = 0 → is (.wrapupBudgetExpiry o kid) .killed 0x20) ∧
     (k.st = .wrappingUp → k.wrapLeft ≠ 0 → exec (.wrapupBudgetExpiry o kid) s = .next s))

/-! ### Transfers, barriers and shape records -/

/-- R295 and R296: XFER and XMCAST copy the parameter block, here from the issuer's own local store, and check it; a valid
request makes the release, takes the context's next number and is Queued while the streamer has room and no earlier request of
the core is on its way there (R130), which g[rd] says; an invalid one raises XFERFAULT with its reason.
R301, R302 and R304: XWAIT waits while more transfers of the thread are outstanding than it allows, then raises XFERFAULT
for a Faulted one that nothing has reported, or writes their number; XSTAT reads a transfer; XFREE combines a receiver's free.
R300: XRET returns from a transfer handler, and outside one is ILLEGAL. -/
def Obligations.TransferResults : Prop :=
  (∀ (s s1 : State) (d a : BitVec 6) (k : Nat), d ≠ 0 → Issues s [G d, G a] [] → NoVectorMemory s → NoBuffered s →
     OwnAccess s (rg s a) 0 64 k → copied (thr s) = none → answered (thr s) = none →
     let block := (List.range 8).map fun i => BitVec.ofNat 64 (homeNat s (k + 8 * i) 8)
     let o := (thr s).owner
     ∀ mcast : Bool,
       let i := if mcast then Instr.xmcast d a else .xfer d a
       let r (num : BitVec 16) : XferReq := { num := num, owner := o, core := s.core, uid := (thr s).uid, slot := s.slot,
                                              sup := (thr s).sup, mcast := mcast, block := block }
       (∀ e, xferFault s (r 0) = some e → exec i s = .next (takeTrap s Cause.xferfault none (BitVec.ofNat 64 e))) ∧
       (xferFault s (r 0) = none → xfersOut s (thr s).uid < 64 → release s = .ok () s1 → s1.splitIssue = false →
         (s1.xflights.all fun g => g.req.core != s.core || g.streamer != streamerOf s1 (r (ctx s1).xferCtr)) = true →
         (ctx s1).xovfReqs = [] → holdsWrite s1 s.core o = false → onChip s1 (streamerOf s1 (r (ctx s1).xferCtr)) < 32 →
         streamerPaused s1 (streamerOf s1 (r (ctx s1).xferCtr)) = false →
         ∃ t, exec i s = .next t ∧ rg t d = BitVec.ofNat 64 (ctx s1).xferCtr.toNat ∧ (thr t).pc = pcPlus (thr s).pc 4 ∧
           (ctx t).xferCtr = (ctx s1).xferCtr + 1 ∧
           t.xfers = s1.xfers ++ [{ req := r (ctx s1).xferCtr, st := .queued,
                                    streamer := streamerOf s1 (r (ctx s1).xferCtr) }])) ∧
  (∀ (s s1 : State) (d a : BitVec 6),
     let n := xfersOut s (thr s).uid
     (Issues s [G d, G a] [] →
       ((rg s a).toNat < n → exec (.xwait d a) s = .next (block s (.xwait d a) .retry)) ∧
       (n ≤ (rg s a).toNat → unreported s (thr s).uid = none → exec (.xwait d a) s = gives s d (BitVec.ofNat 64 n) 4) ∧
       (∀ x, n ≤ (rg s a).toNat → unreported s (thr s).uid = some x → x.reason < 2 ^ 16 →
         ∃ t, exec (.xwait d a) s =
           .next (takeTrap t Cause.xferfault none (BitVec.ofNat 64 (x.req.num.toNat * 2 ^ 16 + x.reason))) ∧ thr t = thr s) ∧
       ((s.xfers.find? fun x => x.req.num == (rg s a).setWidth 16 && x.req.owner == (thr s).owner && x.req.core == s.core) =
           none → exec (.xstat d a) s = gives s d (BitVec.ofNat 64 (n * 2 ^ 32)) 4) ∧
       (∀ x, (s.xfers.find? fun x => x.req.num == (rg s a).setWidth 16 && x.req.owner == (thr s).owner &&
           x.req.core == s.core) = some x → x.req.mcast = false →
         exec (.xstat d a) s = gives s d (BitVec.ofNat 64 (n * 2 ^ 32 + x.st.code)) 4)) ∧
     (Issues s [G a] [] → NoVectorMemory s →
       (nrank (owner s) ≤ field (rg s a) 16 10 → exec (.xfree a) s = .next (takeTrap s Cause.access none (rg s a))) ∧
       (field (rg s a) 16 10 < nrank (owner s) → release s = .ok () s1 →
         exec (.xfree a) s = .next (nextPc (combineFree s1 (rg s a)) 4))) ∧
     (Issues s [] [] →
       ((thr s).xferid.getLsbD 63 = false → exec .xret s = .next (takeTrap s Cause.illegal none Instr.xret.word)) ∧
       ((thr s).xferid.getLsbD 63 = true →
         exec .xret s = .next (jumpTo s (thr s).xepc
           (goTo (updThr s fun t => { t with xferid := BitVec.ofNat 64 (t.xferid.toNat % 2 ^ 63) }))))))

/-- R293 and R297: a Queued transfer that may run copies its words, each once: every destination word takes the source word
as it was, where no destination word is a source word too nor moves a page that a side of the copy is translated through, and no
other byte changes. R140 and R293: each word is also read once and written at each destination in a move of its own, in any
order; that the event of R297 makes all of a transfer's moves at once and moves apart are asked for one by one is the model's
choice (assumption 44).
R295, R296, R298, R303 and R330: a request reaches its streamer and the answer completes the issuer's instruction; a
streamer with a free entry takes the next spilled request, its block as the ring holds it (assumption 45), and a head that cannot
be read is held by its core, the intake from its owner pausing; a transfer whose words are done ends, with the issuer's event bit,
whatever irq holds (assumption 45), also while its owner is swapped out (R350), and interrupt; a tile's frees reach the sender; and
a held request tries its walk again. Of these none happens in a rotation pause of the stack it concerns (R347). -/
def Obligations.TransferEvents : Prop :=
  (∀ (s : State) (n : Nat) (x : Xfer) (src : Nat → Nat → Nat) (dst : Nat → Nat → Nat → Nat), Inv s → s.hostError = false →
     s.xfers[n]? = some x → mayRun s x = true →
     let r := x.req
     let word (i j : Nat) : Prop := i < r.rows ∧ j < r.len / 8
     let dest (k : Nat) : Prop := ∃ i j, word i j ∧ ∃ q ∈ r.dests, k = dst i j q
     let outside (k : Nat) : Prop := ∀ d, dest d → k < d ∨ d + 8 ≤ k
     let located (u : State) : Prop := ∀ i j, word i j →
       sidePlace u r r.sglb (r.w 1) (field (r.w 1) 22 10) (i * r.sstride + 8 * j) { r := true } = .inl (src i j) ∧
       ∀ q ∈ r.dests, sidePlace u r (r.dglb && !r.mcast) (r.w 2) q (i * r.dstride + 8 * j) { w := true } = .inl (dst i j q)
     located s →
     (∀ u : State, u.owners = s.owners → (∀ c o, ctxAt u c o = ctxAt s c o) →
       (∀ k, outside k → homeByte u k = homeByte s k) → located u) →
     (∀ i j, word i j → src i j % 8 = 0 ∧ ¬dest (src i j) ∧ ∀ q ∈ r.dests, dst i j q % 8 = 0) →
     (∀ i j i' j', word i j → word i' j' → ∀ q ∈ r.dests, ∀ q' ∈ r.dests, dst i j q = dst i' j' q' → i = i' ∧ j = j') →
     ∃ t, exec (.transferStart n) s = .next t ∧
       (t.xfers[n]?).map (fun y => (y.req, y.st, y.reason, y.todo)) = some (r, .running, x.reason, []) ∧
       (∀ i j, word i j → ∀ q ∈ r.dests, homeBytes t (dst i j q) 8 = homeBytes s (src i j) 8) ∧
       (∀ k, outside k → homeByte t k = homeByte s k) ∧ ∀ c sl, thrAt t c sl = thrAt s c sl) ∧
  (∀ (s : State) (n k j : Nat) (x : Xfer) (w : XWord) (key : Nat), s.xfers[n]? = some x → x.st = .running → x.paused s = false →
     x.todo[k]? = some w → s.hostError = false →
     let r := x.req
     (w.val = none →
       sidePlace s r r.sglb (r.w 1) (field (r.w 1) 22 10) (w.row * r.sstride + w.off) { r := true } = .inl key →
       ∃ t, runMove (.transferWord n k j) s = .next t ∧ t.xfers = s.xfers.set n
           { x with todo := x.todo.set k { w with val := some (BitVec.ofNat 64 (homeNat s key 8)) } } ∧
         ∀ a, homeByte t a = homeByte s a) ∧
     (∀ v q, Inv s → w.val = some v → w.left[j]? = some q →
       sidePlace s r (r.dglb && !r.mcast) (r.w 2) q (w.row * r.dstride + w.off) { w := true } = .inl key → key % 8 = 0 →
       ∃ t, runMove (.transferWord n k j) s = .next t ∧ homeNat t key 8 = v.toNat ∧
         (∀ a, a < key ∨ key + 8 ≤ a → homeByte t a = homeByte s a) ∧
         let rest := w.left.eraseIdx j
         t.xfers = s.xfers.set n { x with todo := if rest = [] then x.todo.eraseIdx k else x.todo.set k { w with left := rest } })) ∧
  (∀ (s : State) (n : Nat),
     (∀ f d a, s.xflights[n]? = some f →
       ((s.xflights.take n).any fun g => g.req.core == f.req.core && g.streamer == f.streamer) = false →
       (ctxAt s f.req.core f.req.owner).xovfReqs = [] → holdsWrite s f.req.core f.req.owner = false →
       onChip s f.streamer < 32 → d ≠ 0 → streamerPaused s f.streamer = false → pausing s (stackOf f.req.core) = false →
       let t := thrAt s f.req.core f.slot
       t.st = .blocked → t.uid = f.req.uid →
       t.wait = some (.xfer d a, .answer f.id none) ∨ t.wait = some (.xmcast d a, .answer f.id none) →
       ∃ t, exec (.transferRequest n) s = .next t ∧ t.xflights = s.xflights.filter (fun g => g.id != f.id) ∧
         t.xfers = s.xfers ++ [{ req := f.req, st := .queued, streamer := f.streamer }] ∧
         (thrAt t f.req.core f.slot).st = .ready ∧
         (thrAt t f.req.core f.slot).getG d.toNat = BitVec.ofNat 64 f.req.num.toNat) ∧
     (∀ st p k r rest, onChip s st < 32 → streamerPaused s st = false →
       ((intakeOrder s st).find? fun p => (headPlace s p).isSome) = some p →
       (∀ q ∈ (intakeOrder s st).takeWhile fun p => (headPlace s p).isNone, q.2 ≠ p.2) → headPlace s p = some k → (ctxAt s p.1 p.2).xovfReqs = (st, r) :: rest →
       ∃ t, exec (.xovfIntake st) s = .next t ∧ (ctxAt t p.1 p.2).xovfReqs = rest ∧
         ∀ (j : Nat) (x : Xfer), s.xfers[j]? = some x → sameXfer x.req r = true → x.st = .spilled →
           (t.xfers[j]?).map (fun y => (y.st, y.req.block)) =
             some (.queued, (List.range 8).map fun i => BitVec.ofNat 64 (homeNat s (k + 8 * i) 8))) ∧
     (∀ st p r rest, onChip s st < 32 → streamerPaused s st = false → intakeOrder s st = [p] → headPlace s p = none →
       (ctxAt s p.1 p.2).xovfReqs = (st, r) :: rest → (coreAt s p.1).xhold = none →
       ∃ t, exec (.xovfIntake st) s = .next t ∧ (coreAt t p.1).xhold = some ⟨p.2, st, r, true⟩ ∧
         (ctxAt t p.1 p.2).xovfReqs = (st, r) :: rest ∧ ∀ q ∈ intakeOrder t st, q.2 ≠ p.2) ∧
     (∀ x, s.xfers[n]? = some x → pausing s (stackOf x.req.core) = false → x.st = .running → x.todo = [] → x.reason = 0 → x.req.notify = false → x.req.ring = false →
       x.req.mcast = false → (boundQueue (ctxAt s x.req.core x.req.owner) fun d => bindKind d == 3) = none →
       let irqs : List Irq := if x.req.irq then
         [{ xferid := BitVec.ofNat 64 (x.req.tag * 2 ^ 32 + x.req.num.toNat), entry := x.req.w 5, user := x.req.w 6 }] else []
       let told (before after : Thread) : Prop := before.st ≠ .free → before.uid = x.req.uid →
         after.evt = true ∧ after.irqs = before.irqs ++ irqs
       ∃ t, exec (.transferCompletion n) s = .next t ∧ t.xfers = s.xfers.eraseIdx n ∧
         (∀ sl, told (thrAt s x.req.core sl) (thrAt t x.req.core sl)) ∧
         ∀ o sl, told (Tab.get {} (Tab.get [] (coreAt s x.req.core).shadow o) sl)
           (Tab.get {} (Tab.get [] (coreAt t x.req.core).shadow o) sl)) ∧
     (∀ x o tile, s.xfers[n]? = some x → pausing s (stackOf x.req.core) = false → x.req.mcast = true → x.req.owner = o → x.req.tilesOf.contains tile = true →
       x.tiles.contains tile = false → (x.req.ranks.all fun q => q / 4 != tile || x.freed.contains q) = true →
       (x.st ≠ .awaitingFree →
         exec (.freeIncrement o n tile) s = .next { s with xfers := s.xfers.set n { x with tiles := x.tiles ++ [tile] } }) ∧
       (x.st = .awaitingFree → (x.req.tilesOf.all fun u => u == tile || x.tiles.contains u) = true →
         ∃ t, exec (.freeIncrement o n tile) s = .next t ∧ t.xfers = s.xfers.eraseIdx n ∧
           ∀ sl, (thrAt s x.req.core sl).st ≠ .free → (thrAt s x.req.core sl).uid = x.req.uid →
             (thrAt t x.req.core sl).evt = true)) ∧
     ∀ stack c h key, stackOf c = stack → (coreAt s c).xhold = some h → h.req.core = c → h.req.owner = h.owner →
       ((s.cores.filter fun k => stackOf k.1 == stack && k.2.xhold.isSome).map Prod.fst) = [c] →
       holdOpen s c h = false ∨ (∃ e, Tab.find (stackAt s stack).faults n = some e ∧ e.sup = true ∧ e.owner = h.owner) →
       let x := ctxAt s c h.owner
       (h.read = false → areaPlace s h.owner (xovfAddr x x.xovfReqs.length) { w := true } = some key →
         ∃ t, exec (.faultRetry stack n) s = .next t ∧ (coreAt t c).xhold = none ∧
           (ctxAt t c h.owner).xovfReqs = x.xovfReqs ++ [(h.streamer, h.req)]) ∧
       (h.read = true → areaPlace s h.owner (xovfAddr x 0) { r := true } = some key →
         ∃ t, exec (.faultRetry stack n) s = .next t ∧ (coreAt t c).xhold = none ∧
           (ctxAt t c h.owner).xovfReqs = x.xovfReqs))

/-- R284, R287, R288 and R133: BARINIT, BARARR and BARARW at a cell of the issuer's rank or at a memory barrier, with the
release that each makes: the barrier after the step, the register, and the BARRIER traps.
R288 and R128: BARWAIT waits until the phase before its token has ended, and then acquires; BARTEST reads the barrier at once,
and where the phase has not ended the stack's clean copies of word 0 are no older than what it has read.
R288: what an arrival does at a barrier. A count of zero traps with 6; an arrival for the phase counts, and the last one
ends the phase and promotes the arrivals for the next, which may end as well; one for the next phase is counted apart; any
other traps with 4, and one more than the count with 5. The counter keeps the 16 bits it has (R7). -/
def Obligations.BarrierResults : Prop :=
  (∀ (s s1 s2 : State) (d a : BitVec 6) (l : BitVec 2) (i : BitVec 4) (r : BarRef), barrierFields i l a = true →
     Issues s (if l = 3 then [G d, G a] else [G d]) [] → NoVectorMemory s → arrivedAt (thr s) = none →
     barRef s a l i { r := true, w := true } = .ok r s1 → release s1 = .ok () s2 →
     let o := (thr s).owner
     let n := (rg s d).toNat
     let t : BitVec 32 := BitVec.ofNat 32 n
     let s0 := match r with | .mem _ => s2 | .cell _ => s1
     let b := (readBar s0 o r).cell
     let trapped (i' : Instr) (u : State) (reason : Nat) : Prop := exec i' s =
       .next (takeTrap u Cause.barrier none (BitVec.ofNat 64 (reason + l.toNat * 2 ^ 8 + i.toNat * 2 ^ 10)))
     (b.cur = 0 → b.nxt = 0 → anyWaits s0 o r = false →
       (n ≤ barLimit l →
         exec (.barinit d a l i) s = gives (writeBar s0 o r { b with c := n } true) d (BitVec.ofNat 64 b.p.toNat) 4) ∧
       (barLimit l < n → trapped (.barinit d a l i) s0 2)) ∧
     (b.cur ≠ 0 ∨ b.nxt ≠ 0 ∨ anyWaits s0 o r = true → trapped (.barinit d a l i) s0 3) ∧
     (∀ e, arriveBar (readBar s2 o r) (l == 3) t = .inl e → e < 8 → trapped (.bararr d a l i) s2 e ∧ trapped (.bararw d a l i) s2 e) ∧
     (∀ c, arriveBar (readBar s2 o r) (l == 3) t = .inr c →
       let s3 := writeBar s2 o r c false
       let next : Word := BitVec.ofNat 64 ((n + 1) % 2 ^ 32)
       exec (.bararr d a l i) s = gives s3 d next 4 ∧
       (barDone (readBar s3 o r).cell (t + 1) = true → exec (.bararw d a l i) s = gives (acquire s3) d next 4) ∧
       (barDone (readBar s3 o r).cell (t + 1) = false →
         exec (.bararw d a l i) s = .next (block s3 (.bararw d a l i) (match r with
           | .mem k => .arrived k (some (xlatNow s3 (ptrAddr (rg s3 a))))
           | .cell _ => .arrived 0 none))))) ∧
  (∀ (s s1 : State) (d a : BitVec 6) (l : BitVec 2) (i : BitVec 4) (r : BarRef), barrierFields i l a = true →
     Issues s (if l = 3 then [G d, G a] else [G d]) [] → NoVectorMemory s → barRef s a l i { r := true } = .ok r s1 →
     let b := (readBar s1 (thr s).owner r).cell
     let t : BitVec 32 := BitVec.ofNat 32 (rg s d).toNat
     let ended : Prop := (b.p - t).toNat < 2 ^ 31
     (ended → exec (.barwait d a l i) s = gives (acquire s1) d (BitVec.ofNat 64 b.p.toNat) 4) ∧
     (¬ ended → exec (.barwait d a l i) s = .next (block s1 (.barwait d a l i) .retry)) ∧
     (NoBuffered s1 → b.cur < 2 ^ 16 → b.nxt < 2 ^ 16 →
       let w : Word := BitVec.ofNat 64 (b.p.toNat + b.cur * 2 ^ 32 + b.nxt * 2 ^ 48)
       (ended → exec (.bartest d a l i) s = gives (acquire s1) d w 4) ∧
       (¬ ended → exec (.bartest d a l i) s =
         gives (match r with | .mem k => refreshCopies s1 (places k 8) | .cell _ => s1) d w 4))) ∧
  (∀ (b : BarCell) (t : BitVec 32),
     let arrive := arriveBar ⟨b, true⟩ false t
     (b.c = 0 → arrive = .inl 6) ∧
     (b.c ≠ 0 → t = b.p → b.cur + 1 = 2 ^ 16 → arrive = .inr { b with cur := 0 }) ∧
     (b.c ≠ 0 → t = b.p → b.cur + 1 < 2 ^ 16 →
       (b.cur + 1 ≠ b.c → arrive = .inr { b with cur := b.cur + 1 }) ∧
       (b.cur + 1 = b.c → b.nxt ≠ b.c → arrive = .inr { b with p := b.p + 1, cur := b.nxt, nxt := 0 }) ∧
       (b.cur + 1 = b.c → b.nxt = b.c → arrive = .inr { b with p := b.p + 2, cur := 0, nxt := 0 })) ∧
     (b.c ≠ 0 → t = b.p + 1 → b.cur ≠ b.c →
       (b.nxt = b.c → arrive = .inl 5) ∧ (b.nxt ≠ b.c → arrive = .inr { b with nxt := b.nxt + 1 })) ∧
     (b.c ≠ 0 → t ≠ b.p → t ≠ b.p + 1 → arrive = .inl 4))

/-- R198: the slices of a dimension's extent, or of a fork's range, follow one another without gap or overlap and cover it,
and no two differ in length by more than one.
R196, R199 and R200: the shape instructions read the record of the kernel's shape set on the core; SHSLICE writes the pointer of
the thread's slice, with the format and the block length of the record and the address base + start 0 × w + the sum of start d ×
stride d, and the start and length of each dimension, zero for an unused one; no record raises SHAPE with reason 6. SHFENCE fences the owner
and empties its entries of the record cache. -/
def Obligations.ShapeResults : Prop :=
  (∀ (e n : Nat), 0 < n →
     (sliceOf e n 0).1 = 0 ∧
     (∀ c, c + 1 < n → (sliceOf e n c).1 + (sliceOf e n c).2 = (sliceOf e n (c + 1)).1) ∧
     (sliceOf e n (n - 1)).1 + (sliceOf e n (n - 1)).2 = e ∧
     ∀ c, c < n → (sliceOf e n c).2 = e / n ∨ (sliceOf e n c).2 = e / n + 1) ∧
  (∀ (s s1 : State) (d a : BitVec 6) (n : BitVec 3) (x : ShapeSet) (r : ShapeWords), NoVectorMemory s →
     let none6 (i : Instr) : Prop := exec i s = .next (takeTrap s Cause.shape none (BitVec.ofNat 64 (6 + n.toNat * 256)))
     (shapeSet s = some x → n.toNat < x.nshape →
       (record s x n = .ok r s1 →
         (Issues s [G d, G a] [] → (rg s a).toNat < 24 → exec (.shget d a n) s = gives s1 d (r.getD (rg s a).toNat 0) 4) ∧
         (Issues s [G d, .g (d.toNat + 4)] ((List.range 5).map fun k => .g (d.toNat + k)) →
           (x.pointer = true → shContradiction r (thr s).kcount = none) →
           ∃ t, exec (.shslice d n) s = .next t ∧ (thr t).pc = pcPlus (thr s).pc 4 ∧
             let w0 := r.getD 0 0
             let extent (j : Nat) : Nat := (r.getD (2 + j) 0).toNat % 2 ^ 32
             let split (j : Nat) : Nat := (r.getD (10 + j) 0).toNat % 2 ^ 11
             let stride (j : Nat) : Nat := (r.getD (5 + j) 0).toNat % 2 ^ 52
             let below (j : Nat) : Nat := ((List.range j).map split).prod
             let part (j : Nat) : Nat × Nat :=
               if field w0 10 2 < j then (0, 0)
               else if w0.getLsbD 13 then (0, extent j)
               else sliceOf (extent j) (split j) ((thr s).kindex / below j % split j)
             let f := field w0 0 6
             let w := if f = 0x18 ∨ f = 0x19 ∨ f = 0x14 then 1 else fmtBits f / 8
             let at' := (r.getD 1 0).toNat % 2 ^ 52 + (part 0).1 * w + (part 1).1 * stride 1 + (part 2).1 * stride 2 +
               (part 3).1 * stride 3
             (d ≠ 0 → (thr t).getG d.toNat = BitVec.ofNat 64 (f * 2 ^ 58 + field w0 6 4 * 2 ^ 54 + at' % 2 ^ 52)) ∧
             ∀ j < 4, (part j).2 < 2 ^ 32 →
               (thr t).getG (d.toNat + 1 + j) = BitVec.ofNat 64 ((part j).1 * 2 ^ 32 + (part j).2))) ∧
       (Issues s [G d] [] → x.pointer = false → x.addr + 192 * n.toNat < 2 ^ 52 →
         exec (.shrec d n) s = gives s d (BitVec.ofNat 64 (2 ^ 63 + (x.addr + 192 * n.toNat))) 4)) ∧
     (shapeSet s = none →
       (Issues s [G d, G a] [] → none6 (.shget d a n)) ∧
       (Issues s [G d, .g (d.toNat + 4)] ((List.range 5).map fun k => .g (d.toNat + k)) → none6 (.shslice d n)) ∧
       (Issues s [G d] [] → exec (.shrec d n) s = gives s d 0 4)) ∧
     (Issues s [] [] → fence s 0 4 = .ok () s1 → exec .shfence s = .next (nextPc (updCore s1 s.core fun k =>
       { k with recs := k.recs.filter fun e => e.owner != (thr s).owner }) 4)))

/-! ### The arcade -/

/-- R355: the states of an arcade port; the collectives with participants elsewhere end with code 2 when the last port that
carries beats is lost, and no other does; the loss of a route beyond this module ends one the same way.
R357, R358, R362 and R363: CREG registers a buffer under the lowest free handle; CPOST appends a post with the next
sequence number; CSTAT reads a registration; CDEREG frees one without outstanding posts; what they refuse raises COLL with its
reason.
R356, R359, R360, R361 and R363: registrations of other modules settle a pending name, whose outstanding posts end when it
fails; a deregistration fails it with code 4; a collective starts when every participant has posted, and not before, and ends
with its result in the buffer and its post ended, or Failed with its code; while it runs the arcade reads each word of the
contribution, and performs each word of the result, by itself. The name has one registration on this module.
R49, R50, R359: participants whose ops differ fail with code 1; a gather joins the segments; a reduction takes each element by
itself: integer sums wrap, floating sums are exact and rounded once, maxima and minima are those of FMAX and FMIN, block sums
are combined in index order, and one that cannot be ends with code 3. The sign of a zero floating sum, minus when every term is
minus zero, is that of R45's sum.
That a refused arrival fails the registration with code 5, that the posts after the one that failed end with code 4, that a lost
route also fails a collective not yet started, once a participant here has posted, and that the words of a contribution are read
only while the collective runs are the model's choices (assumption 46). -/
def Obligations.ArcadeResults : Prop :=
  (∀ (s : State) (p n : Nat),
     let q := arcPort s p
     let sets (e : Instr) (x : ArcPort) : Prop := exec e s = .next (updPort s p fun _ => x)
     (p < 24 → q.st = .down → sets (.portTraining p) { st := .training, since := s.cycle }) ∧
     (q.st = .training → n = 8 → s.cycle - q.since < trainingLimit → sets (.trainingEnd p n) { q with st := .up, lanes := 8 }) ∧
     (q.st = .training → 4 ≤ n → n < 8 → s.cycle - q.since < trainingLimit →
       sets (.trainingEnd p n) { q with st := .degraded, lanes := n }) ∧
     (q.st = .training → n < 4 → sets (.trainingEnd p n) {}) ∧
     (q.st = .training → n ≤ 8 → trainingLimit ≤ s.cycle - q.since → sets (.trainingEnd p n) {}) ∧
     (let loses (e : Instr) (x : ArcPort) : Prop := exec e s = .next (loseRoutes (updPort s p fun _ => x))
      (q.works = true → 4 < q.lanes → loses (.laneFailure p) { q with st := .degraded, lanes := q.lanes - 1 }) ∧
      (q.works = true → q.lanes ≤ 4 → loses (.laneFailure p) {}) ∧
      (q.works = true → loses (.portStop p) {})) ∧
     ((s.sys.ports.any fun q => q.2.works) = true → loseRoutes s = s) ∧
     (∀ o h r x c, (s.sys.ports.any fun q => q.2.works) = false → (s.owners.flatMap fun w => w.2.regs.map fun g => (w.1, g)) = [(o, h, r)] →
       Tab.find (ownerAt s o).regs h = some r → r.st = .ready ∨ r.st = .running → r.posts = [x] →
       (∃ y ∈ s.remotes, y.dom = r.dom ∧ y.name = r.name) →
       arriveBar (readBar s 0 (.mem r.bar)) true x.token = .inr c →
       Tab.find (ownerAt (loseRoutes s) o).regs h = some
         { r with st := .failed, code := 2, posts := [], lastS := x.s, run := none, got := [], done := [] })) ∧
  (∀ (s s1 : State) (d a : BitVec 6) (k h : Nat),
     let o := (thr s).owner
     let w := rg s a
     let coll (i : Instr) (reason : Nat) : Prop := exec i s = .next (takeTrap s Cause.coll none (BitVec.ofNat 64 reason))
     (Issues s [G d, G a] [] → NoVectorMemory s → NoBuffered s → OwnAccess s w 0 64 k → d ≠ 0 →
       let ws := (List.range 8).map fun i => BitVec.ofNat 64 (homeNat s (k + 8 * i) 8)
       let n := field (ws.getD 2 0) 0 32
       let m := field (ws.getD 3 0) 16 8 + 1
       let addr := field (ws.getD 1 0) 0 52
       let span := if (ws.getD 3 0).getLsbD 24 then m * n else n
       ((owner s).dom = 0 → coll (.creg d a) 7) ∧
       ((owner s).dom ≠ 0 → badDescriptor ws = true → coll (.creg d a) 1) ∧
       ∀ pages bar, (owner s).dom ≠ 0 → badDescriptor ws = false →
         spanPages s o ((addr % 4096 + span + 4095) / 4096) (addr / 4096 * 4096) = some pages →
         collPage s o (field (ws.getD 4 0) 0 52) 1 = some bar → freeHandle (owner s) = some h → regCount s < 4096 →
         ((localRegs s (owner s).dom.toNat (ws.getD 0 0).toNat).any fun x => x.2.2.index == field (ws.getD 3 0) 8 8) = false →
         ∃ t, exec (.creg d a) s = .next t ∧ rg t d = BitVec.ofNat 64 h ∧ (thr t).pc = pcPlus (thr s).pc 4 ∧
           ∃ r, Tab.find (ownerAt t o).regs h = some r ∧ r.len = n ∧ r.count = m ∧ r.addr = addr ∧ r.pages = pages ∧
             r.bar = bar ∧ r.kind = field (ws.getD 3 0) 0 3 ∧ r.posts = []) ∧
     (Issues s [G d, G a] [] → NoVectorMemory s → field w 10 22 = 0 →
       let op := field w 8 2
       (Tab.find (owner s).regs (field w 0 8) = none → coll (.cpost d a) 5) ∧
       ∀ r, Tab.find (owner s).regs (field w 0 8) = some r → (r.gather = true ↔ op = 3) → ¬ (r.kind = 5 ∧ (op = 1 ∨ op = 2)) →
         r.posts.length < 16 → r.st ≠ .failed → release s = .ok () s1 →
         exec (.cpost d a) s = gives (updReg s1 o (field w 0 8) fun r =>
           { r with posts := r.posts ++ [⟨r.next, op, BitVec.ofNat 32 (w.toNat / 2 ^ 32)⟩], next := r.next + 1 }) d
           (BitVec.ofNat 64 r.next.toNat) 4) ∧
     (Issues s [G d, G a] [] → NoVectorMemory s → field w 10 22 = 0 →
       ∀ r, Tab.find (owner s).regs (field w 0 8) = some r → (r.gather = true ↔ field w 8 2 = 3) →
         ¬ (r.kind = 5 ∧ (field w 8 2 = 1 ∨ field w 8 2 = 2)) → r.posts.length < 16 → r.st = .failed → release s = .ok () s1 →
         ∃ t, exec (.cpost d a) s = .next t ∧ (thr t).pc = pcPlus (thr s).pc 4 ∧
           (Tab.find (ownerAt t o).regs (field w 0 8)).map Registration.posts = some []) ∧
     (Issues s [G d, G a] [] →
       (Tab.find (owner s).regs (field w 0 8) = none → exec (.cstat d a) s = gives s d 0 4) ∧
       ∀ r, Tab.find (owner s).regs (field w 0 8) = some r → r.posts.length < 2 ^ 8 → r.code < 2 ^ 8 →
         exec (.cstat d a) s = gives s d
           (BitVec.ofNat 64 (r.lastS.toNat * 2 ^ 32 + r.posts.length * 2 ^ 16 + r.code * 2 ^ 8 + r.st.code)) 4) ∧
     (Issues s [G a] [] →
       (Tab.find (owner s).regs (field w 0 8) = none → coll (.cdereg a) 5) ∧
       ∀ r, Tab.find (owner s).regs (field w 0 8) = some r →
         (r.posts ≠ [] → coll (.cdereg a) 6) ∧
         (r.posts = [] → exec (.cdereg a) s = .next (nextPc (deregister s o (field w 0 8)) 4)))) ∧
  (∀ (s : State) (o h : Nat) (r : Registration), Inv s → Tab.find (ownerAt s o).regs h = some r →
     localRegs s r.dom r.name = [(o, h, r)] →
     let buffered (k : Nat) : Word := (Tab.find r.got k).getD (BitVec.ofNat 64 (ofLeBytes (readBuffer s r (r.start + 8 * k) 8)))
     let contributed (remote : List RemotePost) (xs : List (Nat × List Byte)) : Prop :=
       xs.length = r.count ∧ ∀ i < r.count, xs[i]? =
         if i = r.index then r.posts.head?.map fun p =>
           (p.op, ((List.range (r.len / 8)).map fun k => leBytes 8 (buffered k).toNat).flatten)
         else (remote.find? fun q => q.index == i).map fun q => (q.op, q.bytes)
     (∀ p : Participant, p.dom = r.dom → p.name = r.name → r.st = .pending → r.posts.length ≤ 16 →
       let ps := participants s r.dom r.name ++ [p]
       r.count ≤ ps.length →
       ∃ t, exec (.participantRegistration p) s = .next t ∧ t.remotes = s.remotes ++ [p] ∧
         (agree r ps = true → Tab.find (ownerAt t o).regs h = some { r with st := .ready }) ∧
         (agree r ps = false → ∃ x, Tab.find (ownerAt t o).regs h = some x ∧ x.st = .failed ∧ x.posts = [] ∧ x.run = none ∧
           (x.code = 1 ∨ (x.code = 5 ∧ r.posts ≠ [])))) ∧
     (∀ p ∈ s.remotes, p.dom = r.dom → p.name = r.name → r.posts = [] →
       ∃ t, exec (.participantDeregistration r.dom r.name p.index) s = .next t ∧
         t.remotes = s.remotes.filter (fun q => !(q.dom == r.dom && q.name == r.name && q.index == p.index)) ∧
         Tab.find (ownerAt t o).regs h = some { r with st := .failed, code := 4, run := none }) ∧
     (let far : Prop := ∃ y ∈ s.remotes, y.dom = r.dom ∧ y.name = r.name
      let posted (remote : List RemotePost) (i : Nat) : Prop :=
        if i = r.index then r.posts ≠ [] else (∃ y ∈ s.remotes, y.dom = r.dom ∧ y.name = r.name ∧ y.index = i) ∧
          ∃ q, (remote.find? fun q => q.index == i) = some q ∧ q.bytes.length = r.len
      (∀ remote, r.st = .ready → (∀ i < r.count, posted remote i) →
        exec (.collectiveStart o h remote) s =
          .next (updReg s o h fun r => { r with st := .running, run := some remote })) ∧
      (∀ remote i, i < r.count → ¬ posted remote i → exec (.collectiveStart o h remote) s = .next s) ∧
      (∀ x c, far → r.st = .ready ∨ r.st = .running → r.posts = [x] →
        arriveBar (readBar s 0 (.mem r.bar)) true x.token = .inr c →
        ∃ t, exec (.collectiveEnd o h true) s = .next t ∧ homeNat t r.bar 8 = (barWord c).toNat ∧
          Tab.find (ownerAt t o).regs h = some
            { r with st := .failed, code := 2, posts := [], lastS := x.s, run := none, got := [], done := [] }) ∧
      (¬ far → exec (.collectiveEnd o h true) s = .next s)) ∧
     (∀ remote xs code bytes p c, r.st = .running → r.run = some remote → r.posts = [p] → contributed remote xs →
       outcomeOf r xs = (code, bytes) → code ≠ 0 → routeLost s r = false →
       arriveBar (readBar s 0 (.mem r.bar)) true p.token = .inr c →
       ∃ t, exec (.collectiveEnd o h false) s = .next t ∧ homeNat t r.bar 8 = (barWord c).toNat ∧
         Tab.find (ownerAt t o).regs h = some
           { r with st := .failed, code := code, posts := [], lastS := p.s, run := none, got := [], done := [] }) ∧
     (∀ k remote, r.run = some remote → 8 * k < r.len → Tab.find r.got k = none →
       runMove (.collectiveWord o h k false) s =
         .next (updReg s o h fun r => { r with got := Tab.set (buffered k) r.got k })) ∧
     (∀ k, r.run = none → ∀ write, runMove (.collectiveWord o h k write) s = .next s) ∧
     (∀ k remote xs bytes, r.st = .running → r.run = some remote → contributed remote xs → outcomeOf r xs = (0, bytes) →
       0 < r.count → (∀ j, 8 * j < r.len → (Tab.find r.got j).isSome = true) → r.len % 16 = 0 → (∀ x ∈ xs, x.2.length = r.len) →
       8 * k + 8 ≤ bytes.length → r.done.contains k = false →
       ∃ t, runMove (.collectiveWord o h k true) s = .next t ∧ Tab.find (ownerAt t o).regs h = some { r with done := k :: r.done } ∧
         (∀ i < 8, homeByte t (r.key (8 * k) + i) = bytes.getD (8 * k + i) 0) ∧
         ∀ a, a < r.key (8 * k) ∨ r.key (8 * k) + 8 ≤ a → homeByte t a = homeByte s a) ∧
     (∀ remote xs bytes p ps c, r.st = .running → r.run = some remote → r.posts = p :: ps → contributed remote xs →
       outcomeOf r xs = (0, bytes) → routeLost s r = false → r.done = [] →
       r.addr % 8 = 0 → bytes.length % 8 = 0 →
       (∀ i < bytes.length, ∀ j < bytes.length, r.key i = r.key j → i = j) →
       (∀ i < bytes.length, r.key i < r.bar ∨ r.bar + 16 ≤ r.key i) →
       arriveBar (readBar s 0 (.mem r.bar)) true p.token = .inr c →
       ∃ t, exec (.collectiveEnd o h false) s = .next t ∧
         Tab.find (ownerAt t o).regs h = some
           { r with st := .ready, posts := ps, lastS := p.s, run := none, got := [], done := [] } ∧
         (∀ i < bytes.length, homeByte t (r.key i) = bytes.getD i 0) ∧
         homeNat t r.bar 8 = (barWord c).toNat)) ∧
  (∀ (r : Registration) (op : Nat) (xs : List (Nat × List Byte)), xs ≠ [] →
     ((∃ x ∈ xs, ∃ y ∈ xs, x.1 ≠ y.1) → outcomeOf r xs = (1, [])) ∧
     ((∀ x ∈ xs, x.1 = op) →
       (r.gather = true → outcomeOf r xs = (0, (xs.map Prod.snd).flatten)) ∧
       (r.gather = false →
         let w := [4, 8, 4, 2, 2, 16].getD r.kind 16
         let element (i : Nat) : Option (List Byte) := reduceElem r.kind op (xs.map fun x => (x.2.drop (w * i)).take w)
         r.len % w = 0 → (∀ x ∈ xs, x.2.length = r.len) →
         ((∃ i < r.len / w, element i = none) → outcomeOf r xs = (3, [])) ∧
         ((∀ i < r.len / w, element i ≠ none) → ∃ bytes, outcomeOf r xs = (0, bytes) ∧ bytes.length = r.len ∧
           ∀ i < r.len / w, some ((bytes.drop (w * i)).take w) = element i)))) ∧
  (∀ (kind : Nat) (x : List Byte) (xs : List (List Byte)),
     let w := [4, 8, 4, 2, 2, 16].getD kind 16
     (∀ y ∈ x :: xs, y.length = w) →
     (kind ≤ 1 →
       let value (y : List Byte) : Int := (BitVec.ofNat (8 * w) (ofLeBytes y)).toInt
       (∃ b, reduceElem kind 0 (x :: xs) = some b ∧ b.length = w ∧
         ofLeBytes b = ((x :: xs).map ofLeBytes).sum % 2 ^ (8 * w)) ∧
       (∃ b ∈ x :: xs, reduceElem kind 1 (x :: xs) = some b ∧ ∀ y ∈ x :: xs, value y ≤ value b) ∧
       (∃ b ∈ x :: xs, reduceElem kind 2 (x :: xs) = some b ∧ ∀ y ∈ x :: xs, value b ≤ value y)) ∧
     (2 ≤ kind → kind ≤ 4 →
       let f := if kind = 2 then Fp.fp32 else if kind = 3 then Fp.bf16 else Fp.fp16
       let vs := (x :: xs).map fun y => Fp.decode f (ofLeBytes y)
       let total : ℝ := (((vs.map exactVal).sum : ℚ) : ℝ)
       let both : Prop := (∃ v ∈ vs, isInf v ∧ v.sign = true) ∧ ∃ v ∈ vs, isInf v ∧ v.sign = false
       (∃ n, reduceElem kind 0 (x :: xs) = some (leBytes w n) ∧
         ((∃ v ∈ vs, v.isNan = true) ∨ both → n = f.cnan) ∧
         ((∀ v ∈ vs, v.isNan = false) → ¬ both → ∀ v ∈ vs, isInf v → n = f.infBits v.sign) ∧
         ((∀ v ∈ vs, isNum v) →
           (total ≠ 0 → ∃ fl, RoundedOnce f 0 false total (n, fl)) ∧
           (total = 0 → (∀ v ∈ vs, exactVal v = 0 ∧ v.sign = true) → n = f.signed true 0) ∧
           (total = 0 → (∃ v ∈ vs, ¬ (exactVal v = 0 ∧ v.sign = true)) → n = 0))) ∧
       ∀ most : Bool, reduceElem kind (if most then 1 else 2) (x :: xs) =
         some (leBytes w (xs.foldl (fun a y => (Fp.minMax f most a (ofLeBytes y)).1) (ofLeBytes x)))) ∧
     (kind = 5 → ∀ op, reduceElem kind op (x :: xs) =
       (xs.foldl (fun acc y => match acc, blockEntry y with
         | some a, some b => combine a b
         | _, _ => none) (blockEntry x)).map fun r =>
           leBytes 8 (BitVec.ofInt 64 r.1).toNat ++ leBytes 8 (BitVec.ofInt 16 r.2).toNat)) ∧
  (∀ b : List Byte, b.length = 16 →
     let hi := ofLeBytes (b.drop 8)
     (2 ^ 16 ≤ hi → blockEntry b = none) ∧
     (hi < 2 ^ 16 → blockEntry b =
       some ((BitVec.ofNat 64 (ofLeBytes (b.take 8))).toInt, (BitVec.ofNat 16 hi).toInt))) ∧
  (∀ t1 e1 t2 e2 q : Int, e1 ≤ e2 → RneQuotient t1 (e2 - e1).toNat q →
     let t := q + t2
     let beyond : Prop := 2 ^ 63 ≤ t ∨ t < -(2 ^ 63)
     combine (t2, e2) (t1, e1) = combine (t1, e1) (t2, e2) ∧
     (¬ beyond → combine (t1, e1) (t2, e2) = if 32767 < e2 then none else some (t, e2)) ∧
     (beyond → ∀ half, RneQuotient t 1 half →
       combine (t1, e1) (t2, e2) = if 32767 < e2 + 1 then none else some (half, e2 + 1)))

/-! ### Traps, system instructions and CSRs -/

/-- R151, of a thread in no gang: where the trap goes, what is saved and what stays. The delegated trap saves PC, value and
cause in the U registers and goes to UTVEC; one that strikes in supervisor mode with TSTAT.in set holds the slot, the trap
CSRs keep their values and an error record is made; every other saves in the T registers, sets TSTAT.pm to the mode and
TSTAT.in, and enters supervisor mode at TVEC. A wait ends, its slot Ready (R143); a late fault holds back the later ones until the
handler's return, which counts the traps taken within it in its mode (R158). -/
def Obligations.TrapDelivery : Prop :=
  ∀ (s : State) (c : BitVec 8) (late : Option (BitVec 16)) (x : Word), (thr s).gang = none →
    let t := thr s
    let s' := takeTrap s c late x
    let u := thr s'
    let lateBit : Word := if late.isSome then 1 else 0
    let seq : Word := (late.getD 0).setWidth 64
    let own : Prop := t.sup = false ∧ (owner s).udeleg.getLsbD c.toNat = true ∧ t.ucause.getLsbD 63 = false ∧ t.utvec ≠ 0
    (own → u = { t with
      uepc := t.pc, utval := x, pc := t.utvec, st := t.st.goOn, wait := none, lateUser := t.lateUser || late.isSome
      userDepth := if t.lateUser then t.userDepth + 1 else 0
      ucause := (1 : Word) <<< 63 ||| seq <<< 16 ||| lateBit <<< 8 ||| c.setWidth 64 }) ∧
    (¬ own → t.sup = true ∧ t.tin = true →
      u = { t with st := .held, wait := none, dbgHeld := false } ∧ s'.sys.errs.length = s.sys.errs.length + 1) ∧
    (¬ own → ¬ (t.sup = true ∧ t.tin = true) → u = { t with
      tepc := t.pc, tval := x, pc := (coreAt s s.core).tvec, tpm := t.sup, tin := true, sup := true, st := t.st.goOn
      wait := none, lateSup := t.lateSup || late.isSome, lateDepth := if t.lateSup then t.lateDepth + 1 else 0
      tcause := lateBit <<< 8 ||| c.setWidth 64, tseq := lateBit <<< 16 ||| seq }) ∧
    (∀ k, homeByte s' k = homeByte s k) ∧ (∀ n sl, (n ≠ s.core ∨ sl ≠ s.slot) → thrAt s' n sl = thrAt s n sl)

/-- R62 and R67, in the order of R60: a supervisor instruction in user mode raises PRIV with its word, before its registers
are looked at. For every instruction that names registers: where it raises neither ILLEGAL nor PRIV, the first of its fields, in
the order rd, ra, rb, rc and then the registers that its own rule checks besides, that lies beyond the allocation raises REGBOUND,
with its number, and with bit 8 set for a vector register. -/
def Obligations.PrivilegeAndRegisterChecks : Prop :=
  ∀ (s : State) (d a : BitVec 6), canIssue (thr s) = true → outstanding (thr s) = false → (thr s).gang = none →
    ((thr s).sup = false → isControl s.core = false →
      ∀ i ∈ [Instr.halt, .tret, .tlbinv, .bkclr, .ownset, .mspill, .mfill, .rothold, .msplit a, .ctxsave d a, .ctxload d a,
             .klaunch d a],
        exec i s = .next (takeTrap s Cause.priv none i.word)) ∧
    ((thr s).sup = true → isControl s.core = false →
      ∀ i ∈ [Instr.ownset, .done, .suspend a, .wrapdone a], exec i s = .next (takeTrap s Cause.priv none i.word)) ∧
    (isControl s.core = true → ∀ i ∈ [Instr.gang d a, .mpush d a, .done, .recv d 0, .mspill],
      exec i s = .next (takeTrap s Cause.illegal none i.word)) ∧
    ∀ (i : Instr) (before after : List RegField) (f : RegField) (n : Nat), regFields i = before ++ f :: after →
      (∀ g ∈ before, beyondAlloc (thr s) g = none) → beyondAlloc (thr s) f = some n →
      exec i s ≠ .next (takeTrap s Cause.illegal none i.word) → exec i s ≠ .next (takeTrap s Cause.priv none i.word) →
      exec i s = .next (takeTrap s Cause.regbound none (BitVec.ofNat 64 n))

/-- R58, R153 to R155, R158 and R159: NOP, SEQSYNC, the traps that TRAP and BREAK raise with the PC after them, the returns UTRET
and TRET, whose target is checked as that of a jump, HALT, and the ILLEGAL of a word that no encoding assigns.
R54: a halfword that cannot be fetched raises LSBOUND beyond the local store, and PAGE or ACCESS in global memory as a load would,
X needed; for the second halfword the PC is the instruction's and the value the address of that halfword. A PC that has not
the form of R52 raises ACCESS at the fetch, which is the model's choice (assumption 25); that the second halfword's address wraps
within its part is assumption 7. -/
def Obligations.SystemInstructionResults : Prop :=
  ∀ (s : State),
    let t := thr s
    let at' (n : Word) : State := updThr s fun t => { t with pc := pcPlus t.pc n }
    (Issues s [] [] →
      exec .nop s = .next (nextPc s 4) ∧
      (idleUnits s s.core t = true → exec .seqsync s = .next (nextPc s 4)) ∧
      (idleUnits s s.core t = false → exec .seqsync s = .next (block s .seqsync .retry)) ∧
      (∀ c : BitVec 10,
        exec (.trap c) s = .next (takeTrap (at' 4) Cause.trap none (c.setWidth 64)) ∧
        (halts s t.owner = false → exec (.brk c) s = .next (takeTrap (at' 4) Cause.brk none (c.setWidth 64))) ∧
        (halts s t.owner = true →
          exec (.brk c) s = .next (updThr s fun t => { t with pc := pcPlus t.pc 4, st := .held, wait := none, dbgHeld := true }))) ∧
      (halts s t.owner = false → exec .brkCompact s = .next (takeTrap (at' 2) Cause.brk none 0)) ∧
      (halts s t.owner = true →
        exec .brkCompact s = .next (updThr s fun t => { t with pc := pcPlus t.pc 2, st := .held, wait := none, dbgHeld := true })) ∧
      (t.ucause.getLsbD 63 = false → exec .utret s = .next (takeTrap s Cause.illegal none Instr.utret.word)) ∧
      (t.ucause.getLsbD 63 = true →
        exec .utret s = .next (jumpTo s t.uepc (goTo (updThr s fun t => { t with
          ucause := BitVec.ofNat 64 (t.ucause.toNat % 2 ^ 63), lateUser := t.lateUser && t.userDepth != 0
          userDepth := t.userDepth - 1 })))) ∧
      (t.sup = true →
        exec .tret s = .next (jumpTo s t.tepc (goTo (updThr s fun t => { t with
          sup := t.tpm, tin := false, lateSup := t.lateSup && t.lateDepth != 0, lateDepth := t.lateDepth - 1 })))) ∧
      (t.sup = true →
        exec .halt s = .next (updThr s fun t => { t with pc := pcPlus t.pc 4, st := .held, wait := none, dbgHeld := false }))) ∧
    (canIssue t = true → t.st ≠ .blocked →
      (∀ w : BitVec 32, exec (.unassignedEncoding w) s = .next (takeTrap s Cause.illegal none (w.setWidth 64))) ∧
      (let pc := t.pc
       let own := t.owner
       let x : Need := { x := true }
       let near (a : Word) : Prop := a.getLsbD 63 = true ∧ a.toNat < 2 ^ 63 + 2 ^ 22
       let far (a : Word) : Prop := a.toNat < windowBase
       -- the fetch of the halfword at `a` faults with `c`
       let stops (u : State) (a : Word) (c : BitVec 8) (w : State) : Prop :=
         (near a ∧ lsLimit u u.core own ≤ a.toNat % 2 ^ 22 ∧ c = Cause.lsbound ∧ w = u) ∨
         (windowBase ≤ a.toNat ∧ a.toNat < 2 ^ 52 ∧ w = u ∧
           let r := a.toNat % 2 ^ 32
           (nrank (owner u) ≤ r / 2 ^ 22 ∧ c = Cause.access) ∨
           (r / 2 ^ 22 < nrank (owner u) ∧ lsLimit u (rankCore (owner u) (r / 2 ^ 22)) own ≤ r % 2 ^ 22 ∧ c = Cause.lsbound)) ∨
         (far a ∧ walk u own t.sup a.toNat x = .access ∧ c = Cause.access ∧ w = u) ∨
         (far a ∧ ∃ k, walk u own t.sup a.toNat x = .page k ∧ c = Cause.page ∧ w = threadFault u own t.sup a.toNat k)
       -- the halfword at `a` is fetched, and is `h`
       let reads (a : Word) (h : BitVec 16) (u : State) : Prop :=
         (near a ∧ a.toNat % 2 ^ 22 < lsLimit s s.core own ∧ u = s ∧
           ∃ k, lsPlace s s.core own (a.toNat % 2 ^ 22) = some k ∧ h = fetchPair s k) ∨
         (far a ∧ s.hostError = false ∧ u = walked s own t.sup a.toNat ∧ ∃ tier pa b k,
           walk s own t.sup a.toNat x = .found tier pa b ∧ placeOf tier pa = some k ∧ h = fetchPair u k)
       (pc.getLsbD 63 = true → ¬ near pc → exec .fetchFault s = .next (takeTrap s Cause.access none pc)) ∧
       (pc.getLsbD 63 = false → 2 ^ 52 ≤ pc.toNat → exec .fetchFault s = .next (takeTrap s Cause.access none pc)) ∧
       (∀ c w, stops s pc c w → exec .fetchFault s = .next (takeTrap w c none pc)) ∧
       ∀ h u c w, reads pc h u → h.getLsbD 0 = true → stops u (linkAfter s 2) c w →
         exec .fetchFault s = .next (takeTrap w c none (linkAfter s 2))))

/-- R5, R67, R69 and R162: CSRR writes the CSR's content, and CSRW, CSRS and CSRC set its RW fields; CSRW alone clears the W1C
bits that it is given as ones; RO fields keep their values. Registers, mode and memory stay. A CSR that the mode may not name,
or not write, raises PRIV. Four CSRs with rules of their own stand apart: SRSEED, MBXPOND and XOVF, MQSTAT. -/
def Obligations.CsrResults : Prop :=
  ∀ (s : State) (d a : BitVec 6) (c : BitVec 12), c.toNat ∈ csrNumbers →
    let n := c.toNat
    let t := thr s
    let old := csrRead s n
    let x := rg s a
    let ordered : Prop := 8 ≤ n ∧ n ≤ 11 → t.vq = []
    let priv (i : Instr) : Prop := exec i s = .next (takeTrap s Cause.priv none i.word)
    let writes (i : Instr) (new : Word) : Prop :=
      ∃ u, exec i s = .next u ∧ csrRead u n = new ∧
        thr u = { thr u with g := t.g, v := t.v, m := t.m, ix := t.ix, pc := pcPlus t.pc 4, sup := t.sup, owner := t.owner,
                             kid := t.kid } ∧
        (∀ k, homeByte u k = homeByte s k) ∧ (∀ p sl, (p ≠ s.core ∨ sl ≠ s.slot) → thrAt u p sl = thrAt s p sl)
    (Issues s [G d] [] →
      ((t.sup = true ∨ n ∉ csrSupervisor) → ordered → exec (.csrr d c) s = gives s d old 4) ∧
      (t.sup = false → n ∈ csrSupervisor → priv (.csrr d c))) ∧
    (Issues s [G a] [] → n ∉ csrReadOnly →
      (t.sup = false → n ∈ csrSupervisor ∨ n ∈ csrUserReadOnly → priv (.csrw a c) ∧ priv (.csrs a c) ∧ priv (.csrc a c)) ∧
      ((t.sup = true ∨ (n ∉ csrSupervisor ∧ n ∉ csrUserReadOnly)) → ordered →
        (n ∉ [0x00B, 0x083, 0x0C0, 0x0E3] → (n = 0x121 → (owner s).cap < 2 ^ 16 ∧ old.toNat < 2 ^ 36) →
          let rw := csrRw n
          writes (.csrw a c) ((old &&& ~~~rw &&& ~~~(csrW1c n &&& x)) ||| (x &&& rw)) ∧
          writes (.csrs a c) (old ||| (x &&& rw)) ∧ writes (.csrc a c) (old &&& ~~~(x &&& rw))) ∧
        (n = 0x00B → writes (.csrw a c) (if x.toNat % 2 ^ 32 = 0 then 0x2545F491 else BitVec.ofNat 64 (x.toNat % 2 ^ 32))) ∧
        (n = 0x0C0 → ((ctx s).pond = [] → writes (.csrw a c) ((old &&& ~~~csrRw n) ||| (x &&& csrRw n))) ∧
          ((ctx s).pond ≠ [] → writes (.csrw a c) old)) ∧
        (n = 0x0E3 → ((ctx s).xovfReqs = [] → writes (.csrw a c) ((old &&& ~~~csrRw n) ||| (x &&& csrRw n))) ∧
          ((ctx s).xovfReqs ≠ [] → writes (.csrw a c) old)) ∧
        (n = 0x083 → ∃ u, exec (.csrw a c) s = .next u ∧
          let m := Tab.get {} (ctx s).mq (tenant s)
          Tab.get {} (ctx u).mq (tenant u) = { m with
            rov := m.rov && !x.getLsbD 17, ov := m.ov && !x.getLsbD 16, nv := m.nv && !x.getLsbD 15 }))) ∧
    (csrRead s 0 = BitVec.ofNat 64 s.slot ∧ csrRead s 8 = t.frm.setWidth 64 ∧ csrRead s 9 = t.fflags.setWidth 64 ∧
      csrRead s 0x41 = t.uepc ∧ csrRead s 0x49 = t.tepc ∧ csrRead s 0x4A = t.tcause ∧ csrRead s 0x4B = t.tval)

/-- R145, R150, R154, R156, R158, R175, R204 and R299: at a boundary the first of a late fault, MBXOVF, BUDGET, a diversion and
a transfer interrupt strikes, with what each saves and where the thread goes on, and none of them in a rotation pause of the
stack (R344, R349); a wait in QPOP ends without effect at a
diversion, MBXOVF ends the resident loop's wait in RECV and in MWAIT, and WFE returns when its event bit is set or its time has
passed. MBXOVF's place in the order, and what becomes of a wait that R145 keeps, are the model's choices (assumption 26). -/
def Obligations.BoundaryEvents : Prop :=
  (∀ (s : State), pausing s (stackOf s.core) = true →
    ∀ i ∈ [Instr.lateFault, .mbxovf, .budgetExpiry, .diversion, .transferInterrupt], exec i s = .next s) ∧
  ∀ (s : State), (thr s).gang = none → pausing s (stackOf s.core) = false →
    let t := thr s
    let diverted := { t with dlepc := t.pc, diverted := true, pc := kernelWrap s t.owner t.kid, st := t.st.goOn, wait := none }
    (atBoundary t = true →
      (∀ e, dueLate t = some e → exec .lateFault s =
        .next (takeTrap (updThr s fun t => { t with late := t.late.filter fun x => x.seq != e.seq }) e.cause (some e.seq) e.value)) ∧
      (dueLate t = none →
        (∀ w, dueOvf s = some w → exec .mbxovf s =
          .next (takeTrap (updCtx s fun x => { x with ovf := x.ovf.drop 1 }) Cause.mbxovf none w)) ∧
        (dueOvf s = none →
          (t.budgetDue = true → exec .budgetExpiry s =
            .next (takeTrap (updThr s fun t => { t with budgetDue := false }) Cause.budget none 0)) ∧
          (t.budgetDue = false → dueDivert s = true → t.wait = none →
            ∃ u, exec .diversion s = .next u ∧ thr u = diverted) ∧
          (t.budgetDue = false → dueDivert s = false → ∀ q, dueIrq t = some q →
            exec .transferInterrupt s = .next (updThr s fun t =>
              { t with irqs := t.irqs.drop 1, xepc := t.pc, xferid := (1 : Word) <<< 63 ||| q.xferid, xarg := q.user,
                       pc := q.entry, st := t.st.goOn }))))) ∧
    (∀ d n, t.st = .blocked → t.wait = some (.qpop d n, .retry) → dueLate t = none → dueOvf s = none → t.budgetDue = false →
      dueDivert s = true → ∃ u, exec .diversion s = .next u ∧ thr u = diverted) ∧
    (∀ w d a, ∀ i ∈ [Instr.recv d a, .mwait d d], t.st = .blocked → t.wait = some (i, .retry) → dueLate t = none → dueOvf s = some w →
      exec .mbxovf s = .next (takeTrap (updCtx (updThr s fun t => { t with st := .ready, wait := none }) fun x =>
        { x with ovf := x.ovf.drop 1 }) Cause.mbxovf none w)) ∧
    (dueDivert s = true ↔ (wrapping s t.owner t.kid = true ∧ t.diverted = false ∧ t.sup = false ∧
      t.ucause.getLsbD 63 = false ∧ t.xferid.getLsbD 63 = false)) ∧
    (∀ a : BitVec 6, Issues s [G a] [] →
      (t.evt = true → exec (.wfe a) s = .next (nextPc (updThr s fun t => { t with evt := false }) 4)) ∧
      (t.evt = false → t.wait = none → exec (.wfe a) s = .next (block s (.wfe a) (.wfe s.cycle)))) ∧
    ∀ c sl a n, (thrAt s c sl).st = .blocked → (thrAt s c sl).wait = some (.wfe a, .wfe n) →
      let x := (thrAt s c sl).getG a.toNat
      (x ≠ 0 → x.toNat ≤ s.cycle - n → ∃ u, exec (.wfeTimeout c sl) s = .next u ∧ u.core = s.core ∧ u.slot = s.slot ∧
        thrAt u c sl = { thrAt s c sl with evt := false, st := .ready, wait := none, pc := pcPlus (thrAt s c sl).pc 4 }) ∧
      (x = 0 ∨ s.cycle - n < x.toNat → exec (.wfeTimeout c sl) s = .next s)

/-- R9 and R163 to R166: CTXSAVE writes the 128 units of the area, the header in progress among them, then the header complete,
and releases and frees the slot; CTXLOAD reads them, and the slot is Ready in the saved mode at the saved PC with its registers;
slots in the wrong state give status 5. A SAVEFAULT leaves the operation in progress and the target as they are, with
CTXPROG.done one more than the last unit written; a trap of the check of the area changes nothing. Another operation abandons
the one in progress, which frees a Loading slot; the same operation after the watchdog gives status 1. A watchdog that reaches
HWLIM sets CTXPROG.tn and frees the slot. That the header is written whole with state 1 by the first unit, and that word 18 has
KBUDGET's layout, are assumption 51. -/
def Obligations.ContextSaveAndLoad : Prop :=
  ∀ (s s0 s2 s3 s4 : State) (d a : BitVec 6) (area : Nat), d ≠ 0 →
    let c := s.core
    let slot := field (rg s d) 0 4
    let x := thrAt s c slot
    let cp := (coreAt s c).ctxprog
    (Issues s [G d, G a] [] → (thr s).sup = true → cp.act = false →
      (slot = s.slot ∨ x.st ≠ .held → exec (.ctxsave d a) s = gives s d 5 4) ∧
      (x.st ≠ .free → exec (.ctxload d a) s = gives s d 5 4) ∧
      (slot ≠ s.slot → x.st = .held → checkArea s (rg s a) { w := true } = .ok area s0 →
        let begun := updProg s0 fun _ => { act := true, slot := slot, area := area, began := s0.cycle }
        let u := thrAt begun c slot
        let head (n : Nat) := headerBytes u n slot (rankOf s c u.owner) s0.cycle
        let image := head 1 ++ bodyBytes begun u
        (saveReady begun u = false → exec (.ctxsave d a) s = .next (block begun (.ctxsave d a) .busy)) ∧
        (∀ v, saveReady begun u = true → putUnits area image 128 0 begun = .trap Cause.savefault v s2 →
          exec (.ctxsave d a) s = .next (takeTrap s2 Cause.savefault none v)) ∧
        (saveReady begun u = true → putUnits area image 128 0 begun = .ok () s2 → putUnit s2 area (head 2) = .ok () s3 →
          release (updProg s3 fun p => { p with complete := true }) = .ok () s4 →
          ∃ t, exec (.ctxsave d a) s = .next t ∧ rg t d = 0 ∧ (thr t).pc = pcPlus (thr s).pc 4 ∧
            (thrAt t c slot).st = .free ∧ (coreAt t c).ctxprog = {})) ∧
      (x.st = .free → checkArea s (rg s a) { r := true } = .ok area s0 →
        let begun := updProg (updThrAt s0 c slot fun _ => { st := .loading }) fun _ => { act := true, load := true, slot := slot, area := area }
        (∀ n s1, loadHead slot area begun = .ok (some n) s1 → n < 2 ^ 64 →
          ∃ t, exec (.ctxload d a) s = .next t ∧ rg t d = BitVec.ofNat 64 n ∧ (thrAt t c slot).st = .free ∧
            (coreAt t c).ctxprog = {}) ∧
        (∀ s1, loadHead slot area begun = .ok none s1 → slot ≠ s.slot →
          getUnits area (128 - (coreAt s1 c).ctxprog.done) (coreAt s1 c).ctxprog.done s1 = .ok () s2 →
          let b := (coreAt s2 c).ctxprog.buf
          putUnit s2 area (((List.range 8).map fun i => wordBytes (if i = 1 then bufWord b 1 &&& ~~~3 else bufWord b i)).flatten) =
            .ok () s3 →
          ∃ t, exec (.ctxload d a) s = .next t ∧ rg t d = 0 ∧ (coreAt t c).ctxprog = {} ∧
            let y := thrAt t c slot
            y.st = .ready ∧ y.pc = (bufWord b 8 &&& ~~~1) ∧ y.sup = (bufWord b 9).getLsbD 0 ∧
              y.budget = field (bufWord b 26) 0 48 ∧ y.tepc = (bufWord b 20 &&& csrRw 0x049) ∧
              (∀ n < windowSize y.wsz, 0 < n → y.getG n = bufWord b (64 + n)) ∧
              (∀ n < 4, y.getIx n = bufWord b (36 + n)) ∧
              ∀ n < vectorSize y.vsz, y.getV n = BitVec.ofNat 512 (ofLeBytes ((b.drop (1024 + 64 * n)).take 64))))) ∧
    (Issues s [G d, G a] [] → (thr s).sup = true →
      (∀ v s1, slot ≠ s.slot → x.st = .held → checkArea s (rg s a) { w := true } = .trap Cause.misalign v s1 → cp.act = false →
        exec (.ctxsave d a) s = .next (takeTrap s Cause.misalign none v)) ∧
      (sameOp cp false slot (ptrAddr (rg s a)) = true → cp.tn = true →
        exec (.ctxsave d a) s = gives (updProg s fun _ => {}) d 1 4) ∧
      (sameOp cp true slot (ptrAddr (rg s a)) = true → cp.tn = true →
        exec (.ctxload d a) s = gives (updProg s fun _ => {}) d 1 4) ∧
      (cp.act = true → cp.load = true → cp.tn = false → cp.slot ≠ s.slot → slot = s.slot →
        ∃ t, exec (.ctxsave d a) s = .next t ∧ rg t d = 5 ∧ (thrAt t c cp.slot).st = .free ∧ (coreAt t c).ctxprog = {})) ∧
    (∀ (image : List Byte) (n u : Nat) (v : Word) (s1 : State), putUnits area image n u s = .trap Cause.savefault v s1 →
      ∃ k < n, v = BitVec.ofNat 64 (area + 64 * (u + k)) ∧ (0 < k → (coreAt s1 c).ctxprog.done = u + k)) ∧
    (∀ n, let p := (coreAt s n).ctxprog
      p.act = true → p.tn = false → (coreAt s n).hwlim ≠ 0 → (coreAt s n).hwlim.toNat ≤ p.clk →
        (p.load = true → ∃ t, exec (.hangWatchdog n) s = .next t ∧ (thrAt t n p.slot).st = .free ∧
          (coreAt t n).ctxprog = { p with tn := true }) ∧
        (p.load = false → ∃ t, exec (.hangWatchdog n) s = .next t ∧ (coreAt t n).ctxprog = { p with tn := true })) ∧
    ∀ t : Thread, (bodyBytes s t).length = 128 * 64 - 64 ∧
      (∀ n < 64, ofLeBytes (((bodyBytes s t).drop (448 + 8 * n)).take 8) =
        (if n < windowSize t.wsz then t.getG n else 0).toNat) ∧
      (∀ n < 32, ofLeBytes (((bodyBytes s t).drop (960 + 64 * n)).take 64) =
        (if n < vectorSize t.vsz then t.getV n else 0).toNat) ∧
      ∀ n < 56, ofLeBytes (((bodyBytes s t).drop (8 * n)).take 8) = ((stateWords s t).getD n 0).toNat

/-! ### The matrix unit -/

/-- R133, R243 to R249: MPUSH copies the command from the thread's own local store, claims its unowned tiles, makes the release
and appends it with the next dispatch number, which g[rd] takes; a tile of another context raises ACCOWN. MPOP takes the head
of the completion FIFO or of the queue bound to it; MWAIT, MSTAT and MSPLIT read or wait for the tenant queues. A 33rd dispatch
stalls (R157). That the words of an MPUSH that waits stay those first read (assumption 42) and that MSTAT's field of 32 commands
holds any value (assumption 64) are the model's choices. -/
def Obligations.MatrixInstructionResults : Prop :=
  ∀ (s s1 : State) (d a : BitVec 6) (key : Nat), isControl s.core = false →
    let c := s.core
    let t := thr s
    let ten := tenant s
    let q := Tab.get {} (ctx s).mq ten
    let out := cmdsOut s c t.uid
    (Issues s [G d, G a] [] → 32 ≤ dispatchesOut s → exec (.mpush d a) s = .next s) ∧
    (Issues s [G d, G a] [] → d ≠ 0 → NoVectorMemory s → dispatchesOut s < 32 →
      let pushes (words : List Word) (owned : Nat → AccTile) : Prop :=
        (16 ≤ (activeQueue s1 c ten).length ∨ splitWaits s1 c = true →
          exec (.mpush d a) s = .next (block s1 (.mpush d a) (.command words))) ∧
        ((activeQueue s1 c ten).length < 16 → splitWaits s1 c = false →
          ∃ u, exec (.mpush d a) s = .next u ∧ rg u d = t.seq.setWidth 64 ∧ (thr u).seq = t.seq + 1 ∧
            (thr u).pc = pcPlus t.pc 4 ∧ tenantQueue u c ten = tenantQueue s1 c ten ++ [cmdOf s words t.seq] ∧
            ∀ n < 4, Tab.get {} (coreAt u c).accown n = owned n)
      (copied t = none → NoBuffered s → OwnAccess s (rg s a) 0 64 key →
        let words := (List.range 8).map fun i => BitVec.ofNat 64 (homeNat s (key + 8 * i) 8)
        let mask := tileMask (cmdOf s words 0)
        (foreignTiles s mask ≠ 0 →
          exec (.mpush d a) s = .next (takeTrap s Cause.accown none (BitVec.ofNat 64 (foreignTiles s mask)))) ∧
        (foreignTiles s mask = 0 → release (claimTiles s mask) = .ok () s1 → pushes words fun n =>
          if mask / 2 ^ n % 2 = 1 then { v := true, ten := ten, own := t.owner } else Tab.get {} (coreAt s c).accown n)) ∧
      (∀ words, copied t = some words → release s = .ok () s1 → pushes words (Tab.get {} (coreAt s c).accown))) ∧
    (Issues s [G d] [] →
      (mpopQueue (ctx s) t = none → q.fifo = [] → exec (.mpop d) s = .next (block s (.mpop d) .retry)) ∧
      (∀ e es, mpopQueue (ctx s) t = none → q.fifo = e :: es →
        exec (.mpop d) s = gives (updCtx s fun x => { x with mq := Tab.set { q with fifo := es } x.mq ten }) d e 4) ∧
      (∀ n e es, mpopQueue (ctx s) t = some n → n < 16 →
        bindAny (queueAt s c t.owner n).desc = true ∨ s.slot = bindCons (queueAt s c t.owner n).desc → reserved s n = 0 →
        (∀ p ∈ (coreAt s c).threads, ∀ d' m, p.2.owner = t.owner → p.2.st = .blocked → p.2.wait = some (.qpeek d' m, .retry) →
          waitsBefore s p.2 = true) →
        (queueAt s c t.owner n).elems = e :: es → (queueAt s c t.owner n).pending = [] →
        exec (.mpop d) s = gives (updQueue s c t.owner n fun q => { q with elems := es }) d e 4)) ∧
    (Issues s [G d, G a] [] →
      (out ≤ (rg s a).toNat → exec (.mwait d a) s = gives s d (BitVec.ofNat 64 out) 4) ∧
      ((rg s a).toNat < out → exec (.mwait d a) s = .next (block s (.mwait d a) .retry)) ∧
      (let n := (rg s a).toNat % 2
       let fifo := (Tab.get {} (ctx s).mq n).fifo.length
       out ≤ 31 → fifo ≤ 16 → (activeQueue s c n).length ≤ 16 →
       exec (.mstat d a) s = gives s d (BitVec.ofNat 64 (fifo * 2 ^ 21 + out * 2 ^ 16 +
         (if (coreAt s c).rowSplit then 128 else 0) + (if splitWaits s c then 64 else 0) +
         (if tenantRuns s c n then 32 else 0) + (activeQueue s c n).length)) 4) ∧
      (let n := (rg s a).toNat % 2
       31 < out → ∃ x, exec (.mstat d a) s = gives (draw s).2 d x 4 ∧ x.toNat % 2 ^ 16 =
         ((if (coreAt s c).rowSplit then 128 else 0) + (if splitWaits s c then 64 else 0) +
           (if tenantRuns s c n then 32 else 0) + (activeQueue s c n).length) % 2 ^ 16)) ∧
    (Issues s [G a] [] → t.sup = true →
      (activeQueue s c 0 = [] → activeQueue s c 1 = [] →
        exec (.msplit a) s = .next (nextPc (updCore s c fun k => { k with rowSplit := (rg s a).getLsbD 0 }) 4)) ∧
      (activeQueue s c 0 ≠ [] → exec (.msplit a) s = .next (block s (.msplit a) .retry)))

/-- R251 to R254: the ring instructions of the context's tenant: RGDEF defines a ring, empty, or makes it Undefined; RGPUSH
makes the release and advances the tail; RGRST empties a ring; RGSTAT reads it; what they refuse raises RING with its reason.
R256: MSPILL takes its tile once, before it waits, checks its area once, after that, writes the tile there and leaves it unowned and
zero, whatever MSPA comes to hold meanwhile, and a trap of the check changes no tile; MFILL of an unowned tile reads the area and gives the tile its owner. A tile that is owned raises ACCOWN, owner 0
ACCESS. The area's page of an MFILL is a save area in the stack itself. That n = 7 counts as a reserved bit of a descriptor is the
model's choice (assumption 41), and so is how MFILL and MSPILL reach their area (assumption 43). -/
def Obligations.RingAndSpillResults : Prop :=
  (∀ (s s1 : State) (a : BitVec 6) (k : BitVec 2), isControl s.core = false →
     let w := rg s a
     let ring := myRing s k
     let named := myRingNamed s k
     let size := if w.getLsbD 25 then 3072 else 2048
     let trapped (i : Instr) (reason : Nat) : Prop :=
       exec i s = .next (takeTrap s Cause.ring none (BitVec.ofNat 64 (tenant s * 2 ^ 10 + k.toNat * 2 ^ 8 + reason)))
     let clean : Prop := field w 0 10 = 0 ∧ field w 26 38 = 0 ∧ field w 22 3 ≠ 7
     let idle : Prop := named = false ∧ ∀ r, ring = some r → r.head = r.tail
     (Issues s [G a] [] →
       (a ≠ 0 → ¬ clean → trapped (.rgdef a k) 1) ∧
       (a ≠ 0 → clean → lsLimit s s.core (thr s).owner < field w 10 12 * 1024 + 2 ^ field w 22 3 * size → trapped (.rgdef a k) 2) ∧
       (a ≠ 0 → clean → field w 10 12 * 1024 + 2 ^ field w 22 3 * size ≤ lsLimit s s.core (thr s).owner →
         (¬ idle → trapped (.rgdef a k) 3) ∧
         (idle → ∃ t, exec (.rgdef a k) s = .next t ∧ (thr t).pc = pcPlus (thr s).pc 4 ∧ myRing t k =
           some { base := field w 10 12 * 1024, n := field w 22 3, big := w.getLsbD 25, head := 0, tail := 0 })) ∧
       (a = 0 → ring = none → exec (.rgdef a k) s = .next (nextPc s 4)) ∧
       (a = 0 → idle → ring.isSome = true →
         ∃ t, exec (.rgdef a k) s = .next t ∧ (thr t).pc = pcPlus (thr s).pc 4 ∧ myRing t k = none)) ∧
     (Issues s [G a] [] → NoVectorMemory s →
       (ring = none → trapped (.rgpush a k) 5) ∧
       (∀ r, ring = some r → (2 ^ r.n - r.filled < w.toNat → trapped (.rgpush a k) 4) ∧
         (w.toNat ≤ 2 ^ r.n - r.filled → release s = .ok () s1 →
           ∃ t, exec (.rgpush a k) s = .next t ∧ (thr t).pc = pcPlus (thr s).pc 4 ∧
             myRing t k = some { r with tail := r.tail + BitVec.ofNat 16 w.toNat }))) ∧
     (Issues s [G a] [] →
       (ring = none → exec (.rgstat a k) s = gives s a 0 4) ∧
       (∀ r, ring = some r → r.n < 8 → exec (.rgstat a k) s = gives s a (BitVec.ofNat 64 ((if named then 2 ^ 37 else 0) + 2 ^ 36 +
         (if r.big then 2 ^ 35 else 0) + r.n * 2 ^ 32 + r.tail.toNat * 2 ^ 16 + r.head.toNat)) 4)) ∧
     (Issues s [] [] →
       (ring = none → trapped (.rgrst k) 5) ∧ (ring.isSome = true → named = true → trapped (.rgrst k) 3) ∧
       (∀ r, ring = some r → named = false →
         ∃ t, exec (.rgrst k) s = .next t ∧ (thr t).pc = pcPlus (thr s).pc 4 ∧ myRing t k = some { r with head := 0, tail := 0 }))) ∧
  (∀ (s s1 s2 : State) (key : Nat), Issues s [] [] → (thr s).sup = true → isControl s.core = false → Inv s →
     let c := s.core
     let w := (coreAt s c).mspa
     let area := field w 12 40 * 4096
     let written (u : State) (key tile : Nat) : Prop :=
       ∃ t, exec .mspill s = .next t ∧ (thr t).pc = pcPlus (thr s).pc 4 ∧
         (∀ r < 32, ∀ n < 32, homeNat t (key + 128 * r + 4 * n) 4 = (accWord (coreAt s c) tile r n).toNat ∧
           accWord (coreAt t c) tile r n = 0) ∧
         (∀ k, k < key ∨ key + 4096 ≤ k → homeByte t k = homeByte u k) ∧
         Tab.get {} (coreAt t c).accown tile = {} ∧
         ∀ n < 4, n ≠ tile → Tab.get {} (coreAt t c).accown n = Tab.get {} (coreAt s c).accown n
     (∀ tile, tile < 4 → (spilling (thr s) = none ∧ tile = field w 10 2) ∨ spilling (thr s) = some (tile, none) →
       let begun := setSp s tile true
       let named := (allCmds (coreAt s c)).any (fun m => m.live && m.names tile)
       (named = true → exec .mspill s = .next (block begun .mspill (.spilling tile none))) ∧
       (∀ k v, named = false → saveArea begun area { w := true } = .trap k v s1 →
         exec .mspill s = .next (takeTrap (setSp s1 tile false) k none v)) ∧
       (named = false → saveArea begun area { w := true } = .ok key s1 →
         (release s1 = .ok () s2 → written s2 key tile) ∧
         (∀ k, release s1 = .wait k s2 → exec .mspill s = .next (block s2 .mspill (.spilling tile (some key)))))) ∧
     (∀ tile, tile < 4 → spilling (thr s) = some (tile, some key) → release s = .ok () s2 → written s2 key tile) ∧
     let tile := field w 10 2
     ((Tab.get {} (coreAt s c).accown tile).v = true →
       exec .mfill s = .next (takeTrap s Cause.accown none (BitVec.ofNat 64 (2 ^ tile)))) ∧
     ((Tab.get {} (coreAt s c).accown tile).v = false → field w 0 8 = 0 → exec .mfill s = .next (takeTrap s Cause.access none w)) ∧
     ((Tab.get {} (coreAt s c).accown tile).v = false → field w 0 8 ≠ 0 → saveArea s area { r := true } = .ok key s1 →
       buffered s1 c (thr s).uid = false → (∀ k, key ≤ k → k < key + 4096 → inStack c k = true) → s1.splitIssue = false →
       ∃ t, exec .mfill s = .next t ∧ (thr t).pc = pcPlus (thr s).pc 4 ∧
         (∀ r < 32, ∀ n < 32, accWord (coreAt t c) tile r n = BitVec.ofNat 32 (homeNat s1 (key + 128 * r + 4 * n) 4)) ∧
         Tab.get {} (coreAt t c).accown tile = { v := true, ten := field w 8 1, own := field w 0 8 }))

/-- R45 to R47: an element of a floating accumulation is the exact sum of the accumulator and every product, rounded once to
nearest even, whatever the order of the products; a zero sum is −0 only where every term is, and a NaN operand or
accumulator gives the canonical NaN; an integer accumulation keeps the low 32 bits of the exact sum. -/
def Obligations.ExactAccumulation : Prop :=
  (∀ (ints : Bool) (acc : Nat) (terms : List (Fp.Val × Fp.Val)), acc < 2 ^ 32 → isNum (Fp.decode Fp.fp32 acc) →
    (∀ p ∈ terms, isNum p.1 ∧ isNum p.2) →
    ∃ (m : Int) (e : Int), (m : ℚ) * (2 : ℚ) ^ e =
        exactVal (Fp.decode Fp.fp32 acc) + (terms.map fun p => exactVal p.1 * exactVal p.2).sum ∧
      (m ≠ 0 → (dotFloat ints acc terms).1 = (Fp.round Fp.fp32 0 false (decide (m < 0)) m.natAbs false e).1) ∧
      (m = 0 → (dotFloat ints acc terms).1 = 0 ∨ (dotFloat ints acc terms).1 = 0x80000000 ∧ acc = 0x80000000)) ∧
  (∀ (ints : Bool) (acc : Nat) (xs ys : List (Fp.Val × Fp.Val)), isNum (Fp.decode Fp.fp32 acc) →
    (∀ p ∈ xs, isNum p.1 ∧ isNum p.2) → xs.Perm ys → dotFloat ints acc xs = dotFloat ints acc ys) ∧
  (∀ (ints : Bool) (acc : Nat) (terms : List (Fp.Val × Fp.Val)),
    ((Fp.decode Fp.fp32 acc).isNan = true ∨ ∃ p ∈ terms, p.1.isNan = true ∨ p.2.isNan = true) →
      dotFloat ints acc terms = (Fp.fp32.cnan, false, false)) ∧
  ∀ (acc : BitVec 32) (xs ys : List Byte),
    dotInt acc ((xs.map int8).zip (ys.map int8)) = acc + BitVec.ofInt 32 (List.zipWith (fun a b => a.toInt * b.toInt) xs ys).sum

/-- R233, R235 to R241 and R243: a command at the head of its tenant's queue that may start runs: MZERO clears the tiles of its
mask, MPERM routes the words of its source, MLDACC and MSTACC move a tile from and to memory, a pair of MMA and MMAS adds its
products to the tile, and a command that fails a static check faults late in the thread that pushed it. That the result stands
when the command has started is the model's choice (assumption 40). -/
def Obligations.MatrixCommandResults : Prop :=
  ∀ (s : State) (core ten : Nat) (m : MCmd), startable s core ten = some m → m.core = core → m.ten = ten → ten < 2 →
    let runs (t : State) : Prop := (tenantQueue t core ten).any (fun n => sameCmd m n && n.st == .running) = true
    let old := accWord (coreAt s core)
    let others (t : State) : Prop := ∀ i < 4, i ≠ m.dst → ∀ r < 32, ∀ c < 32, accWord (coreAt t core) i r c = old i r c
    let half : Fp.Fmt := if m.fm = 0x08 then Fp.fp16 else Fp.bf16
    let word : Bool := m.fm == 0x0A || m.fm == 0x04
    (m.op = 3 → staticFault s m = none → ∃ t, exec (.mzero core ten) s = .next t ∧ runs t ∧
      ∀ i < 4, ∀ r < 32, ∀ c < 32, accWord (coreAt t core) i r c = if (m.w 0).getLsbD (24 + i) then 0 else old i r c) ∧
    (m.op = 6 → staticFault s m = none → ∃ t, exec (.mperm core ten) s = .next t ∧ runs t ∧ others t ∧
      ∀ r < 32, ∀ c < 32,
        let entry (j : Nat) : BitVec 6 := (m.w 3 ++ m.w 2 ++ m.w 1 : BitVec 192).extractLsb' (6 * j) 6
        let src := field (m.w 0) 24 2
        accWord (coreAt t core) m.dst r c =
          if (m.w 0).getLsbD 26 then (if (entry c).getLsbD 5 then old src r ((entry c).toNat % 32) else 0)
          else if (entry r).getLsbD 5 then old src ((entry r).toNat % 32) c else 0) ∧
    (∀ place : Nat → Nat → Nat, m.op = 4 → staticFault s m = none →
      (∀ r < 32, rowPlaces s m r = some ((List.range 32).map (place r))) →
      ∃ t, exec (.mldacc core ten) s = .next t ∧ runs t ∧ others t ∧ ∀ r < 32, ∀ c < 32,
        let x := homeNat s (place r c) m.width
        accWord (coreAt t core) m.dst r c =
          BitVec.ofNat 32 (if word then x else (Fp.toFloat Fp.fp32 0 false (Fp.decode half x)).1)) ∧
    (∀ place : Nat → Nat → Nat, m.op = 5 → staticFault s m = none → Inv s →
      (∀ r < 32, rowPlaces s m r = some ((List.range 32).map (place r))) →
      (∀ r < 32, ∀ c < 32, ∀ r' < 32, ∀ c' < 32, (r, c) ≠ (r', c') →
        place r c + m.width ≤ place r' c' ∨ place r' c' + m.width ≤ place r c) →
      ∃ t, exec (.mstacc core ten) s = .next t ∧ runs t ∧
        (∀ i < 4, ∀ r < 32, ∀ c < 32, accWord (coreAt t core) i r c = old i r c) ∧
        (∀ r < 32, ∀ c < 32, homeNat t (place r c) m.width = if word then (old m.dst r c).toNat
          else (Fp.toFloat half m.rm m.msat (Fp.decode Fp.fp32 (old m.dst r c).toNat)).1) ∧
        ∀ k, (∀ r < 32, ∀ c < 32, k < place r c ∨ place r c + m.width ≤ k) → homeByte t k = homeByte s k) ∧
    (m.op = 1 → m.acca = false → m.pairs = 1 → staticFault s m = none → m.fa ≠ 0x14 → m.fb ≠ 0x14 →
      ∃ t, exec (.mma core ten) s = .next t ∧ runs t ∧ others t ∧ ∀ r < 32, ∀ c < 32,
        let a := slotBytes s m m.ra 0
        let b := slotBytes s m m.rb 0
        let base := if m.fresh then 0 else old m.dst r c
        let eight (f : Nat) (x : Byte) : Fp.Val := Fp.decode (if f = 0x10 then Fp.e4m3 else Fp.e5m2) x.toNat
        let sixteen (f : Nat) (l : List Byte) (i : Nat) : Fp.Val :=
          Fp.decode (if f = 0x08 then Fp.fp16 else Fp.bf16) ((l.getD (2 * i) 0).toNat + 256 * (l.getD (2 * i + 1) 0).toNat)
        accWord (coreAt t core) m.dst r c =
          if m.fa = 0x01 then base + BitVec.ofInt 32 ((List.range 64).map fun k =>
              (a.getD (64 * r + k) 0).toInt * (b.getD (64 * c + k) 0).toInt).sum
          else if m.fa = 0x08 ∨ m.fa = 0x09 then BitVec.ofNat 32 (dotFloat false base.toNat ((List.range 32).map fun k =>
              (sixteen m.fa a (32 * r + k), sixteen m.fb b (32 * c + k)))).1
          else BitVec.ofNat 32 (dotFloat false base.toNat ((List.range 64).map fun k =>
              (eight m.fa (a.getD (64 * r + k) 0), eight m.fb (b.getD (64 * c + k) 0)))).1) ∧
    (m.op = 2 → m.pairs = 1 → staticFault s m = none → m.fa = 0x18 → m.fb = 0x18 →
      ∃ t, exec (.mmas core ten) s = .next t ∧ runs t ∧ others t ∧ ∀ r < 32, ∀ c < 32,
        let lb := field (m.w 1) 22 4
        let base := if m.fresh then 0 else old m.dst r c
        let scaled (ring scales row k : Nat) : Fp.Val :=
          let sc := match unitLocal s core m.owner (scales + row * (64 / 2 ^ lb) + k / 2 ^ lb) with
            | some p => (homeByte s p).toNat
            | none => 0xFF
          underScale sc (Fp.ofInt ((slotBytes s m ring 0).getD (64 * row + k) 0).toInt)
        accWord (coreAt t core) m.dst r c = BitVec.ofNat 32 (dotFloat true base.toNat ((List.range 64).map fun k =>
          (scaled m.ra (field (m.w 1) 0 22) r k, scaled m.rb (field (m.w 2) 0 22) c k))).1) ∧
    (∀ k q, opRing s core m.owner ten k = some q → (slotBytes s m k 0).length = q.slot ∧ ∀ j < q.slot, ∀ p,
      unitLocal s core m.owner (q.base + q.head.toNat % 2 ^ q.n * q.slot + j) = some p →
        (slotBytes s m k 0).getD j 0 = homeByte s p) ∧
    ∀ f, staticFault s m = some f → m.tok = false →
      let x := thrAt s core m.slot
      x.st ≠ .free → x.uid = m.uid →
      let i : Instr :=
        match m.op with
        | 2 => .mmas core ten
        | 3 => .mzero core ten
        | 4 => .mldacc core ten
        | 5 => .mstacc core ten
        | 6 => .mperm core ten
        | _ => .mma core ten
      ∃ t, exec i s = .next t ∧
        (∀ i < 4, ∀ r < 32, ∀ c < 32, accWord (coreAt t core) i r c = old i r c) ∧
        ⟨m.seq, Cause.matfault, f.value⟩ ∈ (thrAt t core m.slot).late ∧
        (badBits m = true → f.value = 1) ∧ ∀ a, f.addr = some a → field (thrAt t core m.slot).mfaddr 0 52 = a % 2 ^ 52

/-- R20, R21, R237, R242, R250, R255, R260, R319, R321 and R349: a command whose work is done retires, its rings popped, one element of
kind 4 posted for each, and MQSTAT.ret counted; an element held by its tenant is posted once the internal FIFO has room; a step
of an exclusion pair begins at a multiple of 32 clk, once, starts the commands that are ready and advances those of both units;
in a contest the unit denied most recently wins and the other runs at half rate, with vertical exclusion recorded for its
owners; a duty below the full rate records the limits that hold it. In a rotation pause steps begin only while a unit of the stack
executes a command. That work is done by counted steps is assumption 40, and that a limit that has lowered a duty holds it until
the full rate is assumption 56. -/
def Obligations.MatrixUnitEvents : Prop :=
  (∀ (s : State) (core ten : Nat) (m : MCmd),
    (tenantQueue s core ten).find? (fun m => m.st == .running) = some m → m.core = core → m.ten = ten → m.left = 0 →
      ∃ t, exec (.retire core ten) s = .next t ∧
        (Tab.get {} (ctxAt t core m.owner).mq ten).ret = (Tab.get {} (ctxAt s core m.owner).mq ten).ret + 1 ∧
        (∀ q, opRing s core m.owner ten m.rb = some q → m.mul = true → m.hb = true → (m.ha = true ∨ m.op = 1 ∧ m.acca = true) →
          opRing t core m.owner ten m.rb = some q) ∧
        (∀ q, opRing s core m.owner ten m.rb = some q → m.mul = true → m.hb = false → m.ra ≠ m.rb →
          opRing t core m.owner ten m.rb = some { q with head := q.head + BitVec.ofNat 16 m.pairs }) ∧
        (∀ q, opRing s core m.owner ten m.ra = some q → m.mul = true → m.ha = false → (m.op = 1 → m.acca = false) → m.ra ≠ m.rb →
          opRing t core m.owner ten m.ra = some { q with head := q.head + BitVec.ofNat 16 m.pairs }) ∧
        (∀ q, opRing s core m.owner ten m.ra = some q → m.mul = true → m.ha = false → m.hb = false → (m.op = 1 → m.acca = false) →
          m.ra = m.rb → opRing t core m.owner ten m.ra = some { q with head := q.head + BitVec.ofNat 16 (2 * m.pairs) }) ∧
        (∀ k ∈ m.pops, ∀ q i, opRing t core m.owner ten k = some q →
          boundQueue (ctxAt s core m.owner) (fun d => bindKind d == 4 && bindTenant d == ten && bindRing d == k) = some i →
          let x := queueAt s core m.owner i
          ((ctxAt s core m.owner).queues.map Prod.fst).Nodup → x.elems.length < 16 → x.pending = [] →
          (queueAt t core m.owner i).elems = x.elems ++ [BitVec.ofNat 64 (k * 2 ^ 16 + q.head.toNat)]) ∧
        (m.tok = false → ∀ n ∈ tenantQueue t core ten, sameCmd m n = false)) ∧
  (∀ (s : State) (core o ten : Nat) (m : MCmd) (oc : BitVec 2) (r : BitVec 8) (n : Nat),
    firstEnded ((tenantQueue s core ten).filter fun m => m.owner == o) = some (m, oc, r, n) → completionQueue s core o ten = none →
    (Tab.get {} (ctxAt s core o).mq ten).fifo.length < 16 →
      ∃ t, exec (.completionPost core o ten) s = .next t ∧
        (Tab.get {} (ctxAt t core o).mq ten).fifo = (Tab.get {} (ctxAt s core o).mq ten).fifo ++
          [BitVec.ofNat 64 (m.tag * 2 ^ 48 + m.seq.toNat * 2 ^ 16 + r.toNat * 2 ^ 8 + oc.toNat)] ∧
        tenantQueue t core ten = (tenantQueue s core ten).filter fun x => !sameCmd m x) ∧
  ∀ (s : State) (stack pair col tc : Nat), stack < 4 → pair < 2 → col < 8 → tc < 16 →
    let lo := siteCore s stack (2 * pair) col tc
    let hi := siteCore s stack (2 * pair + 1) col tc
    let n := 256 * stack + 128 * pair + 16 * col + tc
    let s1 := startReady (startReady s lo) hi
    let moved (t : State) (c rate : Nat) : Prop := ∀ ten < 2, tenantQueue t c ten =
      (tenantQueue s1 c ten).map fun m => if m.st = .running then { m with left := m.left - rate } else m
    let runs (c : Nat) (m : MCmd) : Prop := m ∈ tenantQueue s1 c 0 ++ tenantQueue s1 c 1 ∧ m.st = .running ∧ m.left ≠ 0
    let atDuty (t : State) (c : Nat) : Prop := moved t c (unitDuty s1 c) ∧ (unitDuty s1 c < 16 → ∀ m, runs c m →
      (ownerAt t m.owner).thr &&& (ownerAt s1 m.owner).heldBy = (ownerAt s1 m.owner).heldBy)
    let loses (t : State) (c : Nat) : Prop := moved t c 8 ∧ ∀ m, runs c m → (ownerAt t m.owner).thr.getLsbD 4 = true
    let works : Prop := pausing s stack = false ∨ ∃ k ∈ s.cores, stackOf k.1 = stack ∧ ∃ m ∈ allCmds k.2, m.executes = true
    ((s.cycle % 32 ≠ 0 ∨ n ∈ s.stepped ∨ ¬ works) → exec (.matrixStep stack pair col tc) s = .next s) ∧
    (s.cycle % 32 = 0 → n ∉ s.stepped → works → lo ≠ hi →
      ∃ t, exec (.matrixStep stack pair col tc) s = .next t ∧ t.stepped = n :: s.stepped ∧
        ((asksFull s lo = false ∨ asksFull s hi = false) → t.denied = s.denied ∧ atDuty t lo ∧ atDuty t hi) ∧
        (asksFull s lo = true → asksFull s hi = true → Tab.find s.denied n = some (2 * pair) →
          Tab.find t.denied n = some (2 * pair + 1) ∧ atDuty t lo ∧ loses t hi) ∧
        (asksFull s lo = true → asksFull s hi = true → Tab.find s.denied n ≠ some (2 * pair) →
          Tab.find t.denied n = some (2 * pair) ∧ atDuty t hi ∧ loses t lo))

/-! ### The module around the cores -/

/-- R331, R337 and R338: TLBINV releases, closes the fault-table entries it covers and waits while an access translated by a
removed entry is not performed, of a thread in a slot or swapped out; BKCLR clears the lines of the sub-banks of its mask on every core of the position; OWNSET sets
a position's grant, growing into the lowest free slot of the good sub-banks and shrinking from the highest, waits while the stack
stands in a rotation pause, or leaves the grant with status 1 or 2; a bad operand raises ACCESS with the register's value. That
TLBINV waits for the accesses translated before it only, that a BKCLR of another position raises ACCESS, and that OWNSET waits for
the end of a pause, are the model's choices (assumption 52); so is that a shrink performs what is still to be performed in its sub-banks first (assumption 77). -/
def Obligations.PageResults : Prop :=
  ∀ (s s1 : State), Issues s [] [] → (thr s).sup = true →
    let c := s.core
    let v := (thr s).tlbiv
    let x := (thr s).bksel
    let own := if isControl c then field x 0 8 else (thr s).owner
    let pos := field x 16 4
    let mask := field x 32 16
    let cnt := field x 48 5
    let reserved := !zeroBits x 63 58 || !zeroBits x 55 53 || !zeroBits x 31 20 || !zeroBits x 15 8
    let holds (o : Nat) : Prop := pos < (ownerAt s o).grants.length
    let cores := positionCores s own pos
    ((zeroBits v 63 62 && zeroBits v 11 0) = false → (thr s).wait = none →
      exec .tlbinv s = .next (takeTrap s Cause.access none v)) ∧
    (zeroBits v 63 62 = true → zeroBits v 11 0 = true → (thr s).wait = none → release s = .ok () s1 →
      let n := invalOf s v
      let s2 := closeFaults { s1 with tlbGen := s1.tlbGen + 1 } n.covers4K
      (stillOut s2 n (s1.tlbGen + 1) = false → exec .tlbinv s = .next (nextPc s2 4)) ∧
      (stillOut s2 n (s1.tlbGen + 1) = true → exec .tlbinv s = .next (block s2 .tlbinv (.invalidated (s1.tlbGen + 1)))) ∧
      ∀ k e, e ∈ (stackAt s2 k).faults → n.covers4K e.2 = false) ∧
    (∀ i gen, (thr s).st = .blocked → (thr s).wait = some (i, .invalidated gen) →
      (stillOut s (invalOf s v) gen = false → exec .tlbinv s = .next (nextPc s 4)) ∧
      (stillOut s (invalOf s v) gen = true → exec .tlbinv s = .next (block s .tlbinv (.invalidated gen)))) ∧
    (((reserved = true) ∨ ¬ holds own ∨ (isControl c = false ∧ pos ≠ (ctx s).rank / 64) ∨ 2 ^ grantOf s own pos ≤ mask) →
      exec .bkclr s = .next (takeTrap s Cause.access none x)) ∧
    (reserved = false → holds own → (isControl c = true ∨ pos = (ctx s).rank / 64) → mask < 2 ^ grantOf s own pos →
      release s = .ok () s1 →
      ∃ t, exec .bkclr s = .next t ∧ (thr t).pc = pcPlus (thr s1).pc 4 ∧ field (thr t).bksel 56 2 = 0 ∧
        ∀ n b, ((n ∈ positionCores s1 own pos ∧ ∃ l, mask / 2 ^ l % 2 = 1 ∧ (l, b) ∈ (ctxAt s1 n own).banks) →
            (subAt t n b).valid = {}) ∧
          (¬ (n ∈ positionCores s1 own pos ∧ ∃ l, mask / 2 ^ l % 2 = 1 ∧ (l, b) ∈ (ctxAt s1 n own).banks) →
            subAt t n b = subAt s1 n b)) ∧
    (isControl c = false → exec .ownset s = .next (takeTrap s Cause.priv none (iword .ownset))) ∧
    (isControl c = true →
      let old := grantOf s own pos
      let c0 := rankCore (ownerAt s own) (64 * pos)
      let good := goodSubs s (stackOf c0)
      let sum := grantSum (coreAt s c0) + cnt - old
      let quiet : Prop := ∀ k ∈ s.cores, k.2.sb = [] ∧ k.2.posted = [] ∧ k.2.rel = [] ∧
        ∀ ts ∈ k.2.threads :: k.2.shadow.map Prod.snd, ∀ t ∈ ts, t.2.vq = [] ∧ ∀ i r, t.2.wait ≠ some (i, .reply r)
      ((reserved = true ∨ 16 < cnt ∨ ¬ holds own) → exec .ownset s = .next (takeTrap s Cause.access none x)) ∧
      (reserved = false → cnt ≤ 16 → holds own →
        (pausing s (stackOf c0) = true → exec .ownset s = .next (block s .ownset .retry)) ∧
        (pausing s (stackOf c0) = false →
          (cnt < old → posBusy s own pos = true → exec .ownset s = .next (nextPc (setSt s 1) 4)) ∧
          ((old ≤ cnt ∨ posBusy s own pos = false) → good < sum → exec .ownset s = .next (nextPc (setSt s 2) 4)) ∧
          ((old ≤ cnt ∨ posBusy s own pos = false) → sum ≤ good →
            ∃ t, exec .ownset s = .next t ∧ field (thr t).bksel 56 2 = 0 ∧ (thr t).pc = pcPlus (thr s).pc 4 ∧
              (∀ n ∈ cores, (ctxAt t n own).lscap = cnt) ∧
              (cores.Nodup → ∀ n ∈ cores, (ctxAt s n own).lscap = old →
                (∀ b bs sl sls, cnt = old + 1 → freeSubs (coreAt s n) = b :: bs → freeSlots s n = sl :: sls →
                  Tab.find (ctxAt t n own).banks old = some b ∧ subAt t n b = { tag := own, slot := sl, valid := {} }) ∧
                (∀ b, cnt + 1 = old → Tab.find (ctxAt s n own).banks cnt = some b →
                  Tab.find (ctxAt t n own).banks cnt = none ∧ (subAt t n b).tag = 0 ∧ (quiet → subAt t n b = {}))))))) ∧
    (∀ (k : Core) (st : Site), (freeSubs k).Pairwise (· < ·) ∧ (∀ i ∈ freeSubs k, (Tab.get {} k.subs i).tag = 0) ∧
      st.good.Pairwise (· < ·) ∧ ∀ i ∈ st.good, i < 16 ∧ i ∉ st.retired)

/-- R336, R340 to R342, R344, R346, R350 to R352 and R377: an odd step rolls every content one layer up, an even one moves it to
the next column, and 16 steps bring it back; a due point is followed by the next one of the interval and begins a Lead, deferred
while a cause exists; a pause follows 33,000 clk of Lead and drains the store buffers; at its end one repair is carried out on each
site, which changes no byte (a message parked for the pause may, when it lands), ROTN counts, and the owners of a granule that failed are stopped; 2 ms after its due point no cause
defers a step; in Retention none begins. ROTHOLD adds or ends holds with its status; a drained position exchanges the contexts of its
64 cores outside a pause. What a pause does at once and what it leaves for its end is the model's choice (assumption 47), and so
is that a swap waits for the supervisor threads (assumption 48). -/
def Obligations.RotationEvents : Prop :=
  (∀ c m, layerOf c (m + 16) = layerOf c m ∧ columnOf c (m + 16) = columnOf c m ∧
    (m % 2 = 0 → layerOf c (m + 1) = (layerOf c m + 1) % 4 ∧ columnOf c (m + 1) = columnOf c m) ∧
    (m % 2 = 1 → layerOf c (m + 1) = layerOf c m ∧ columnOf c (m + 1) = [1, 2, 3, 7, 0, 4, 5, 6].getD (columnOf c m) 0)) ∧
  ∀ (s : State) (n : Nat), n < 4 →
    let k := stackAt s n
    let late (due : Nat) : Prop := due + 6600000 ≤ s.cycle
    (k.rotEn = true → k.due ≤ s.cycle →
      ∃ t, exec (.duePoint n) s = .next t ∧ (stackAt t n).due = k.due + 3300000 * k.ivl ∧
        (s.sys.power = .on → k.rot = .idle → (stackAt t n).rot = if deferralCause s n then .deferred k.due else .lead k.due s.cycle) ∧
        ((s.sys.power ≠ .on ∨ k.rot ≠ .idle) → (stackAt t n).rot = k.rot)) ∧
    ((k.rotEn = false ∨ s.cycle < k.due) → exec (.duePoint n) s = .next s) ∧
    (∀ due, k.rot = .deferred due →
      (s.sys.power = .on → (deferralCause s n = false ∨ late due) →
        ∃ t, exec (.deferralEnd n) s = .next t ∧ (stackAt t n).rot = .lead due s.cycle ∧ (stackAt t n).due = k.due) ∧
      (s.sys.power ≠ .on ∨ (deferralCause s n = true ∧ ¬ late due) → exec (.deferralEnd n) s = .next s)) ∧
    (∀ x, s.sys.power ≠ .on → exec (.rotationPause n x) s = .next s) ∧
    (∀ due started x, k.rot = .lead due started → s.sys.power = .on →
      (s.cycle < started + 33000 → exec (.rotationPause n x) s = .next s) ∧
      (started + 33000 ≤ s.cycle → deferralCause s n = true → ¬ late due →
        ∃ t, exec (.rotationPause n x) s = .next t ∧ (stackAt t n).rot = .deferred due ∧ (stackAt t n).rotn = k.rotn) ∧
      (started + 33000 ≤ s.cycle → (deferralCause s n = false ∨ late due) →
        ∃ t since, exec (.rotationPause n x) s = .next t ∧
          (stackAt t n).rot = .pausing due since (pauseInput x).1 (pauseInput x).2 ∧
          ∀ c ∈ stackCores s n, (∀ e ∈ (coreAt s c).sb, e.lost = false) → (coreAt t c).sb = [])) ∧
    (∀ due since r f x, k.rot = .pausing due since r f → s.sys.power = .on →
      ∃ t, exec (.rotationPause n x) s = .next t ∧
        (f = none → (stackAt t n).rot = .idle ∧ (stackAt t n).rotn = (k.rotn + 1) % 2 ^ 64 ∧
          (∀ m < 4, m ≠ n → (stackAt t m).rotn = (stackAt s m).rotn) ∧ t.cycle = s.cycle ∧ t.timeU = s.timeU ∧
          ((∀ p ∈ s.parked, stackOf p.core ≠ n) →
            (∀ a, homeByte t a = homeByte s a) ∧ t.sys.errs.length = s.sys.errs.length + (if 64 < r then 1 else 0)) ∧
          ∀ site sub row u rest, (s.repairs.map Prod.fst).Nodup → stackOf site = n →
            Tab.find s.repairs site = some ((sub, row, u) :: rest) →
            let y := siteAt s site
            Tab.find t.repairs site = some rest ∧
            (y.used sub < 8 → (siteAt t site).used sub = y.used sub + 1 ∧ (siteAt t site).retired = y.retired) ∧
            (8 ≤ y.used sub → ∀ c, coreOfSite s site = some c →
              let held : Prop := ∃ b ∈ (coreAt s c).subs, b.2.tag ≠ 0 ∧ b.2.slot = y.good.idxOf sub
              ((¬ held ∨ freeSlots s c ≠ []) → (siteAt t site).retired = sub :: y.retired) ∧
              (held → freeSlots s c = [] → (siteAt t site).retired = y.retired ∧
                ∃ q ∈ t.sys.shrinks, q.site = site ∧ q.sub = sub))) ∧
        (∀ c g, f = some (c, g) → stackOf c = n → (s.repairs.filter fun x => stackOf x.1 == n) = [] →
          ∀ o ∈ granuleOwners s (goodSubs s n) c g, o ≠ 0 → (Tab.find s.owners o).isSome = true → (ownerAt t o).stopped = true)) ∧
    (∀ i (h : Hold), k.holds[i]? = some h →
      (h.ends ≤ timeNow s → ∃ t, exec (.holdExpiry n i) s = .next t ∧ (stackAt t n).holds = k.holds.eraseIdx i) ∧
      (timeNow s < h.ends → exec (.holdExpiry n i) s = .next s)) ∧
    (Issues s [] [] → (thr s).sup = true → n = (if isControl s.core then field (thr s).rothctl 12 2 else stackOf s.core) →
      let x := (thr s).rothctl
      let rel := x.getLsbD 0
      let dur := field x 1 11
      let st (t : State) : Nat := field (thr t).rothctl 62 2
      let lead : Prop := (∃ due started, k.rot = .lead due started) ∨ pausing s n = true
      let full := 16 ≤ (k.holds.filter fun h => timeNow s < h.ends).length
      ((zeroBits x 61 14 = false ∨ (rel = false ∧ (dur = 0 ∨ 2000 < dur))) →
        exec .rothold s = .next (takeTrap s Cause.access none x)) ∧
      (zeroBits x 61 14 = true → (rel = true ∨ (0 < dur ∧ dur ≤ 2000)) →
        ∃ t, exec .rothold s = .next t ∧ (thr t).pc = pcPlus (thr s).pc 4 ∧
          (rel = true → st t = 3 ∧ (stackAt t n).holds = k.holds.filter fun h => h.uid != (thr s).uid) ∧
          (rel = false → lead → st t = 1 ∧ stackAt t n = k) ∧
          (rel = false → ¬ lead → full → st t = 2 ∧ stackAt t n = k) ∧
          (rel = false → ¬ lead → ¬ full → st t = 0 ∧
            (stackAt t n).holds = k.holds ++ [⟨(thr s).uid, timeNow s + 1000 * dur⟩]))) ∧
    ∀ pos < 8,
      let key := 8 * n + pos
      (∀ o, sharesPos s o n pos = true → Tab.find s.swaps key = none → (coreAt s (512 * n + 64 * pos)).active ≠ o →
        ∃ t, exec (.swapRequest n pos o) s = .next t ∧ Tab.find t.swaps key = some { next := o } ∧ t.cores = s.cores) ∧
      (∀ w, Tab.find s.swaps key = some w →
        (pausing s n = false → (∀ c ∈ posCores n pos, drained (coreAt s c) = true) →
          ∃ t, exec (.ownerSwap n pos) s = .next t ∧ Tab.find t.swaps key = none ∧ ∀ c ∈ posCores n pos,
            (coreAt t c).active = w.next ∧ (coreAt t c).threads = Tab.get [] (coreAt s c).shadow w.next ∧
            ((coreAt s c).active ≠ w.next → Tab.get [] (coreAt t c).shadow (coreAt s c).active = (coreAt s c).threads) ∧
            (coreAt t c).acc = (coreAt s c).acc ∧ (coreAt t c).accown = (coreAt s c).accown) ∧
        ((pausing s n = true ∨ ∃ c ∈ posCores n pos, drained (coreAt s c) = false) → exec (.ownerSwap n pos) s = .next s))

/-- R315 to R318: a dropped packet leaves an error record, and the trap of the instruction that waited for it where its source
is known, be its thread in a slot or swapped out (R350); an output sends a class that has a flit ready, one that has waited
4,088 clk first, else one of the highest class group with a flit ready, so that a class that stays ready sends within 4,096 clk,
and what waits leaves as time passes; the thread that has waited longest, 48 clk or more, issues next, else the first of the
highest priority after the one that issued last. Which packet is dropped, by what number, and which classes have flits ready are
inputs, which is the model's choice (assumption 53); so are the record's kind 0x318 and the detail numbers of the record and of
the event (assumption 54), and what it counts as a thread that is eligible (assumption 62). -/
def Obligations.NetworkEvents : Prop :=
  (∀ (s : State) (core o n : Nat) (i : Instr) (r : MemReq), 0 < o → n < 16 →
    let runs := (coreAt s core).active
    let here := if o = runs then s else swapCore o s core
    let back (t : State) : State := if o = runs then t else swapCore runs t core
    let rank := rankOf s core o
    (thrAt here core n).wait = some (i, .reply r) →
    let lost := updThrAt here core n fun t => { t with wait := some (i, .lost) }
    exec (.packetDrop .request core (16 * o + n) false) s = .next (errRecord (back lost) 0x318 0 3 core) ∧
    exec (.packetDrop .request core (16 * o + n) true) s =
      .next (ownerEvent (errRecord (back (trapThread here core n Cause.access r.ea)) 0x318 0 3 core) o 2
        (Config.eventDetail 2 3 rank) rank)) ∧
  (∀ (s : State) (core n : Nat) (known : Bool), n < 16 →
    exec (.packetDrop .request core n known) s = exec (.packetDrop .request core (16 * (coreAt s core).active + n) known) s) ∧
  (∀ (s : State) (core n : Nat) (e : StoreEntry), (coreAt s core).posted[n]? = some e → e.lost = false →
    (∃ t, exec (.packetDrop .posted core n true) s = .next t ∧ (coreAt t core).posted = (coreAt s core).posted.eraseIdx n) ∧
    ∃ t, exec (.packetDrop .posted core n false) s = .next t ∧
      (coreAt t core).posted = (coreAt s core).posted.set n { e with lost := true } ∧ ∀ k, homeByte t k = homeByte s k) ∧
  (∀ (s : State) (core n : Nat), ∃ t, exec (.packetDrop .background core n false) s = .next t ∧
    t.sys.errs = s.sys.errs ++ [⟨0x318, 0, 0, core, s.cycle, timeNow s⟩]) ∧
  (∀ (r : RouterOut) (ready : Nat → Bool),
    let wait (c : Nat) : Nat := Tab.get 0 r.waits c
    let x := outputClk r ready
    (∀ c, x.1 = some c → ready c = true) ∧
    (∀ c < 8, ready c = true → 4088 ≤ wait c → ∃ d < 8, x.1 = some d ∧ d ≤ c ∧ ready d = true ∧ 4088 ≤ wait d) ∧
    ((∀ c < 8, ready c = true → wait c < 4088) → (∃ c < 8, ready c = true) → (∀ c < 8, 0 < r.weight c) →
      (∀ g < 3, groupOf (Tab.get (groupLow g) r.visit g) = g ∧ Tab.get (groupLow g) r.visit g < 8) →
      ∃ d < 8, x.1 = some d ∧ ready d = true ∧ ∀ c < 8, ready c = true → groupOf c ≤ groupOf d) ∧
    ∀ c < 8, Tab.get 0 x.2.waits c = if x.1 = some c then 0 else if ready c then wait c + 1 else wait c) ∧
  (∀ (r : RouterOut) (l : List (Nat → Bool)) (c : Nat), c < 8 → 4096 ≤ l.length → (∀ f ∈ l, f c = true) →
    ∃ i, ∃ h : i < l.length, (outputClk ((l.take i).foldl (fun r f => (outputClk r f).2) r) l[i]).1 = some c) ∧
  (∀ (r : RouterOut) (n cycle : Nat), 9 ≤ n → (∀ c < 8, 0 < r.weight c) →
    (∀ g < 3, groupOf (Tab.get (groupLow g) r.visit g) = g ∧ Tab.get (groupLow g) r.visit g < 8) →
    ∀ c < 8, Tab.get 0 (passOutput n cycle r).waits c = 0) ∧
  (∀ (s : State) (out cls : Nat) (l : List Nat),
    let r := Tab.get {} s.outs out
    let wait (c : Nat) : Nat := Tab.get 0 r.waits c
    (r.last ≠ some s.cycle → ∃ t, runMove (.output out l) s = .next t ∧
      Tab.get {} t.outs out = { (outputClk r fun c => l.contains c || wait c != 0).2 with last := some s.cycle }) ∧
    (r.last ≠ some s.cycle → cls < 8 → 4088 ≤ wait cls → (∀ c < cls, wait c < 4088) →
      ∃ t, exec (.classStarvation out cls) s = .next t ∧ Tab.get 0 (Tab.get {} t.outs out).waits cls = 0 ∧
        ∀ c < 8, c ≠ cls → Tab.get 0 (Tab.get {} t.outs out).waits c = if wait c = 0 then 0 else wait c + 1) ∧
    (r.last = some s.cycle → runMove (.output out l) s = .next s) ∧
    ((r.last = some s.cycle ∨ wait cls < 4088) → exec (.classStarvation out cls) s = .next s)) ∧
  (∀ l : List (Nat × Thread), (agedSlot l = none ↔ ∀ x ∈ l, x.2.idle < 48) ∧
    ∀ x ∈ l, 48 ≤ x.2.idle → l.Pairwise (fun a b => a.1 < b.1) →
      (∀ y ∈ l, y.2.idle < x.2.idle ∨ (y.2.idle = x.2.idle ∧ x.1 ≤ y.1)) → agedSlot l = some x.1) ∧
  (∀ (k : Core) (l : List (Nat × Thread)) (n : Nat), roundSlot k l = some n →
    ∃ x ∈ l, x.1 = n ∧ (∀ y ∈ l, y.2.prio.toNat ≤ x.2.prio.toNat) ∧
      let last := Tab.get 15 k.lastIssued x.2.prio.toNat
      (last < 16 → ∀ y ∈ l, y.2.prio = x.2.prio → y.1 < 16 → (n + 15 - last) % 16 ≤ (y.1 + 15 - last) % 16)) ∧
  (∀ (s : State) (c : Nat), pickSlot s c = (agedSlot (eligibleSlots s c)).or (roundSlot (coreAt s c) (eligibleSlots s c))) ∧
  (∀ (s t : State) (c sl : Nat) (x : Nat × Thread), let l := eligibleSlots s c
    issues s c sl l = true → (l.map Prod.fst).Nodup → x ∈ l → x.1 ≠ sl → sl < 16 →
    Tab.find (coreAt t c).threads x.1 = some { x.2 with idle := 0 } →
    let waits : Prop := (thrAt (countWaits s c sl l t) c x.1).idle = x.2.idle + 1
    (agedSlot l = some sl → waits) ∧
    (agedSlot l = none → (∀ y ∈ l, y.1 = sl → x.2.prio.toNat < y.2.prio.toNat) → waits)) ∧
  ∀ (s : State) (core slot : Nat), 48 ≤ (thrAt s core slot).idle → atBoundary (thrAt s core slot) = true →
    (∀ i < 16, (thrAt s core i).idle < (thrAt s core slot).idle ∨ ((thrAt s core i).idle = (thrAt s core slot).idle ∧ slot ≤ i)) →
    exec (.issueStarvation core slot) s = .next { s with sched := .issue core slot :: s.sched }

/-- R365 and R366: a host read of BAR2 completes with the bytes at their homes, or with Unsupported Request; a host write is
performed at its homes, or is dropped with a record against the owner of the slot; the fault-table entries of the pages that a
read walks close (R330); an AtomicOp of 4, 8 or (CAS) 16 bytes
replaces the value and completes with the old one. That one of another size, or one not aligned, is an Unsupported Request is
the model's choice (assumption 28). -/
def Obligations.HostResults : Prop :=
  ∀ (s : State) (slot off : Nat), Inv s →
    (∀ b, Tab.find s.sys.bar2 slot = some b → off < 2 ^ 30 → inWindow (b.base + off) = false → ∀ need,
      hostPlace s slot off need = walkPlace s b.owner false (b.base + off) need) ∧
    (∀ len ks, hostPlaces s slot off { r := true } len = some ks → ks.any (parkedAt s) = true →
      exec (.hostRead slot off len) s = .next s) ∧
    (∀ len ks b, hostPlaces s slot off { r := true } len = some ks → ks.any (parkedAt s) = false →
      Tab.find s.sys.bar2 slot = some b → ∃ t, exec (.hostRead slot off len) s = .next t ∧
      t = { s with sys := t.sys, compStacks := t.compStacks } ∧ t.sys = { s.sys with hostReply := some (ks.map (homeByte s)) } ∧
      ∀ n, let k := stackAt t n
        k = { stackAt s n with faults := k.faults } ∧ (∀ e ∈ k.faults, e ∈ (stackAt s n).faults) ∧
        ∀ i < len, inWindow (b.base + off + i) = false → ∀ e ∈ k.faults,
          ¬ (e.2.owner = b.owner ∧ e.2.sup = false ∧ e.2.page = (b.base + off + i) / 4096)) ∧
    (∀ len, hostPlaces s slot off { r := true } len = none → ∃ t, exec (.hostRead slot off len) s = .next t ∧
      t.sys.hostReply = none ∧ ∀ k, homeByte t k = homeByte s k) ∧
    (∀ bytes ks, hostPlaces s slot off { w := true } bytes.length = some ks → ks.any (parkedAt s) = false → ks.Nodup →
      ∃ t, exec (.hostWrite slot off bytes) s = .next t ∧ (∀ i < bytes.length, homeByte t (ks.getD i 0) = bytes.getD i 0) ∧
        ∀ k, k ∉ ks → homeByte t k = homeByte s k) ∧
    (∀ bytes b, hostPlaces s slot off { w := true } bytes.length = none → Tab.find s.sys.bar2 slot = some b →
      exec (.hostWrite slot off bytes) s = .next (ownerError (hostWalked s slot off bytes.length { w := true }) b.owner slot 0)) ∧
    (∀ op size x y ks, hostSize op size = true → off % size = 0 →
      hostPlaces s slot off { r := true, w := true } size = some ks → ks.any (parkedAt s) = false → ks.Nodup →
      let old := ofLeBytes (ks.map (homeByte s))
      let m := 2 ^ (8 * size)
      let new := match op with
        | .fetchAdd => (old + x.toNat) % m
        | .swap => x.toNat % m
        | .cas => if old = x.toNat % m then y.toNat % m else old
      ∃ t, exec (.hostAtomic op slot off size x y) s = .next t ∧ t.sys.hostReply = some (leBytes size old) ∧
        ofLeBytes (ks.map (homeByte t)) = new ∧ ∀ k, k ∉ ks → homeByte t k = homeByte s k) ∧
    ∀ op size x y, (hostSize op size = false ∨ off % size ≠ 0 ∨ hostPlaces s slot off { r := true, w := true } size = none) →
      ∃ t, exec (.hostAtomic op slot off size x y) s = .next t ∧ t.sys.hostReply = none ∧ ∀ k, homeByte t k = homeByte s k

/-! ### Starting, identity, debug and power states -/

/-- R369 to R372, R375 and R377: a start whose stages all verify under both signatures, with keys of Boot ROM or of the stage
before, and reach their minimum versions leaves no owner, no thread and zeros in every memory of the module (that LPDDR 6 is among
them is the model's choice, assumption 6), extends the measurement registers, and counts; it is warm where that was asked for, the
training records verify and the counter stood below 3. That an image or a record comes with its
digest, as the spec lays out neither, and that the named algorithms are those of their standards, are the model's (assumption 27).
A start that does not pass, and Off, leave the flash alone;
300 s without the ready record end a start; a configuration record that verifies is stored after the ready record and only raises
minimums. What outlives a start in the repair map, that one that does not verify is dropped, and that a failed start leaves the
module Off are the model's choices (assumption 55). -/
def Obligations.StartEvents : Prop :=
  ∀ s : State,
    let y := s.sys
    let zeros : List Byte := List.replicate 48 0
    let rom : SignKeys := ⟨Config.romRsaModulus, Config.romRsaExponent, Config.romSlhKey⟩
    let good (keys : List SignKeys) (x : Signed) : Prop := x.digest.length = 48 ∧
      ∃ k ∈ rom :: keys, Sign.rsaVerify k x.digest x.rsa = true ∧ Sign.slhVerify k x.digest x.slh = true
    let held (st : StartRecord) : List SignKeys := st.stages.filterMap Stage.keys
    let verified (st : StartRecord) (v : Option Signed) : Prop := ∃ x, v = some x ∧ good (held st) x
    let passes (st : StartRecord) : Prop := ∀ i x, st.stages[i]? = some x →
      good (if i = 0 then [] else (st.stages[i - 1]?.bind Stage.keys).toList) x.signed ∧ x.kind < 8 ∧
      (Tab.get 0 y.minVer x.kind).toNat ≤ x.version.toNat ∧ x.register < 8
    let emptied (t : State) : Prop := t.owners = [] ∧ (∀ c sl, (thrAt t c sl).st = .free) ∧ t.xfers = [] ∧
      (∀ k, isHost k = false → homeByte t k = 0) ∧ (Inv s → ∀ k, isHost k = true → homeByte t k = homeByte s k) ∧
      t.sys.minVer = y.minVer ∧ t.sys.capKey = y.capKey ∧ t.sys.ptpDomain = y.ptpDomain ∧ ∀ c b, subAt t c b = {}
    let warm (st : StartRecord) (asked : Bool) : Prop := asked = true ∧ verified st st.training ∧ y.failed < 3
    let started (t : State) (st : StartRecord) (asked : Bool) : Prop := emptied t ∧ t.sys.power = .on ∧ t.sys.ready = false ∧
      t.sys.failed = y.failed + 1 ∧ t.sys.recovery = decide (3 ≤ y.failed) ∧ (t.sys.warm = true ↔ warm st asked) ∧
      (t.sys.sec = 2 ↔ verified st st.manufacturing ∧ ¬ warm st asked) ∧ (t.sys.sec ≠ 2 → t.sys.sec = 0) ∧ t.sys.dbg = 0 ∧
      t.sys.token = none ∧ t.sys.nonce = st.nonce ∧ t.sys.signers = held st ∧
      (∀ k, Tab.get zeros t.sys.mr k =
        st.stages.foldl (fun r x => if x.register = k then Sha.sha384 (r ++ x.signed.digest) else r) zeros) ∧
      (∀ n, (∀ x ∈ st.tests, x.site ≠ n) ∨ (warm st asked ∧ verified st st.repairMap) →
        (verified st st.repairMap → siteAt t n = siteAt s n) ∧ (¬ verified st st.repairMap → siteAt t n = {})) ∧
      (∀ x ∈ st.tests, ¬ warm st asked → ∀ b < 16, b ∈ x.bad → b ∈ (siteAt t x.site).retired) ∧
      (verified st st.repairMap → ∀ n, ∀ b < 16, b ∈ (siteAt s n).retired → b ∈ (siteAt t n).retired)
    let stopped (t : State) (n : Nat) : Prop := emptied t ∧ t.sys.power = .off ∧ t.sys.failed = n ∧ t.sites = s.sites
    (∀ st, (passes st → ∃ t, exec (.coldStart st) s = .next t ∧ started t st false) ∧
      (¬ passes st → ∃ t, exec (.coldStart st) s = .next t ∧ stopped t (y.failed + 1)) ∧
      (passes st → ∃ t, exec (.warmStart st) s = .next t ∧ started t st true) ∧
      (¬ passes st → ∃ t, exec (.warmStart st) s = .next t ∧ stopped t (y.failed + 1))) ∧
    (y.ready = false → y.power = .on → 990000000000 ≤ y.startClk → ∃ t, exec .startTimeout s = .next t ∧ stopped t y.failed) ∧
    ((y.ready = true ∨ y.power ≠ .on ∨ y.startClk < 990000000000) → exec .startTimeout s = .next s) ∧
    (∃ t, exec .powerOff s = .next t ∧ stopped t y.failed) ∧
    (∀ k m sig, (Sign.rsaVerify k m sig = true → sig.length = 384) ∧ (Sign.slhVerify k m sig = true → sig.length = 7856)) ∧
    ∀ (record : Signed) (minimums : List (Nat × BitVec 32)) (settings : RecordSettings),
      (good y.signers record → y.ready = true → ∃ t, exec (.configurationRecord record minimums settings) s = .next t ∧
        t = { s with sys := { y with minVer := t.sys.minVer, ptpDomain := some settings.domain, capKey := some settings.capKey } } ∧
        ∀ k, let old := Tab.get 0 y.minVer k
          let new := Tab.get 0 t.sys.minVer k
          old.toNat ≤ new.toNat ∧ (new = old ∨ (k < 8 ∧ (k, new) ∈ minimums)) ∧
          (k < 8 → ∀ v, (k, v) ∈ minimums → v.toNat ≤ new.toNat)) ∧
      ((¬ good y.signers record ∨ y.ready = false) → exec (.configurationRecord record minimums settings) s = .next s)

/-- R373 to R377: the report of an attestation has its 8,800 bytes at the offsets of R374; a token that verifies and is bound to
the module's identity and to the nonce of the start under way enters Debug-Authorised; a debug level that the state refuses
changes nothing; a debugger reads, writes and resumes a context that it holds, of an owner that may be halted; a stack is Idle after
100 µs without work and leaves on an arrival; Retention is entered with every kernel over, no context held by a debugger and the trace
buffer empty, and after it each stack's next due point lies after the exit, on its grid. That a token comes while the start is
under way, with what identity it names, is the model's choice (assumption 55); so is that a step that is due but not in its pause is
skipped by Retention (assumption 78). -/
def Obligations.DebugAndPowerEvents : Prop :=
  ∀ s : State,
    let y := s.sys
    let only (t : State) : Prop := t = { s with sys := t.sys }
    let good (x : Signed) : Prop := x.digest.length = 48 ∧
      ∃ k ∈ (⟨Config.romRsaModulus, Config.romRsaExponent, Config.romSlhKey⟩ : SignKeys) :: y.signers,
        Sign.rsaVerify k x.digest x.rsa = true ∧ Sign.slhVerify k x.digest x.slh = true
    (∀ nonce : List Byte, nonce.length = 32 → ∃ t, exec (.attestationRequest nonce) s = .next t ∧ only t ∧
      let r := t.sys.report
      r.length = 8800 ∧ r.take 8 = [1, 0, 0, 0, 0x60, 0x22, 0, 0] ∧ (r.drop 8).take 32 = nonce ∧
        (∀ k < 8, (Tab.get [] y.mr k).length = 48 → (r.drop (40 + 48 * k)).take 48 = Tab.get [] y.mr k) ∧
        r.getD 424 0 = y.sec.setWidth 8 ∧ r.getD 425 0 = y.dbg.setWidth 8 ∧ r.getD 426 0 = (if y.recovery then 1 else 0) ∧
        r.getD 427 0 = 0 ∧ ∀ k < 8, ofLeBytes ((r.drop (428 + 4 * k)).take 4) = (Tab.get 0 y.minVer k).toNat) ∧
    (∀ k : DebugToken,
      let accepted : Prop := good k.signed ∧ k.identity = Config.slhKeyHash ∧ k.nonce = y.nonce ∧
        y.ready = false ∧ y.power = .on ∧ y.startClk < 990000000000 ∧ y.sec = 0
      (accepted → exec (.debugToken k) s = .next { s with sys := { y with sec := 1, token := some k } }) ∧
      (¬ accepted → exec (.debugToken k) s = .next s)) ∧
    (∀ l : BitVec 2,
      let allowed := l = 0 ∨ (l ≠ 3 ∧ (y.sec = 2 ∨ (y.sec = 1 ∧ ∃ k, y.token = some k ∧ (if l = 1 then k.trace else k.halt) = true)))
      (allowed → exec (.debugLevelSet l) s = .next { s with sys := { y with dbg := l } }) ∧
      (¬ allowed → exec (.debugLevelSet l) s = .next s)) ∧
    (∀ core slot,
      let x := thrAt s core slot
      let may := x.st = .held ∧ x.dbgHeld = true ∧ y.dbg = 2 ∧ (y.sec = 2 ∨ ((ownerAt s x.owner).consent = true ∧
        ∃ k, y.token = some k ∧ k.halt = true ∧ x.owner ∈ k.owners))
      let reads (r : DebugReg) (v : Word) : Prop := exec (.debuggerAccess core slot r none) s = .next { s with sys := { y with dbgRead := v } }
      (may → reads .pc x.pc ∧ (∀ n < windowSize x.wsz, reads (.g n) (x.getG n)) ∧ (∀ n < 8, reads (.m n) (x.getM n)) ∧
        (∀ n < 4, reads (.ix n) (x.getIx n)) ∧
        (∀ n < vectorSize x.vsz, ∀ i < 8, reads (.v n i) ((x.getV n).extractLsb' (64 * i) 64)) ∧
        reads (.csr 0x049) x.tepc ∧ reads (.csr 0x04B) x.tval ∧
        (∀ v, ∃ t, exec (.debuggerAccess core slot .pc (some v)) s = .next t ∧ thrAt t core slot = { x with pc := v &&& ~~~1 }) ∧
        (∀ n v, 0 < n → n < windowSize x.wsz → ∃ t, exec (.debuggerAccess core slot (.g n) (some v)) s = .next t ∧
          (thrAt t core slot).getG n = v ∧ ∀ k, k ≠ n → (thrAt t core slot).getG k = x.getG k) ∧
        (∀ n v, n < vectorSize x.vsz → ∀ i < 8, ∃ t, exec (.debuggerAccess core slot (.v n i) (some v)) s = .next t ∧
          ∀ j < 8, ((thrAt t core slot).getV n).extractLsb' (64 * j) 64 = if j = i then v else (x.getV n).extractLsb' (64 * j) 64) ∧
        ∃ t, exec (.debuggerResume core slot) s = .next t ∧ thrAt t core slot = { x with st := .ready, dbgHeld := false }) ∧
      (¬ may → (∀ r w, exec (.debuggerAccess core slot r w) s = .next s) ∧ exec (.debuggerResume core slot) s = .next s)) ∧
    (∀ n < 4, let k := stackAt s n
      (k.idle = false → stackBusy s n = false → k.quiet + 330000 ≤ s.cycle →
        ∃ t, exec (.idleEntry n) s = .next t ∧ stackAt t n = { k with idle := true }) ∧
      ((stackBusy s n = true ∨ s.cycle < k.quiet + 330000) → exec (.idleEntry n) s = .next s) ∧
      (k.idle = true → ∃ t, exec (.idleExit n) s = .next t ∧ (stackAt t n).idle = false)) ∧
    (let may : Prop := y.power = .on ∧ (∀ o ∈ s.owners, ∀ k ∈ o.2.kernels, k.2.over = true) ∧ anyDebugHeld s = false ∧
       y.trace = [] ∧ ∀ n < 4, pausing s n = false
     (may → ∃ t, exec .retentionEntry s = .next t ∧ t.sys = { y with power := .retention } ∧
       t = { s with sys := t.sys, compStacks := t.compStacks } ∧
       ∀ n k, Tab.find s.compStacks n = some k → Tab.find t.compStacks n = some { k with rot := .idle }) ∧
     (¬ may → exec .retentionEntry s = .next s)) ∧
    (y.power = .retention → ∃ t, exec .retentionExit s = .next t ∧ t.sys.power = .on ∧
      ∀ n k, Tab.find s.compStacks n = some k → 0 < k.ivl →
        let due := (stackAt t n).due
        s.cycle < due ∧ due % (3300000 * k.ivl) = k.due % (3300000 * k.ivl) ∧
          (k.due ≤ s.cycle → due ≤ s.cycle + 3300000 * k.ivl) ∧ (s.cycle < k.due → due = k.due))

/-- R316, R321, R334, R336, R341, R353, R365, R370, R375, R380 to R383: a corrected error changes no byte and counts, and the
sixteenth of its row makes a repair due; a zero-fill makes every line valid and changes no byte; a measurement, once in 10 µs, lowers
the duty of an owner over its cap and raises one under its limits, within 1/16 and 16/16, and the end of an interval counts the limits
that held the owner; a cap frame is accepted or counted as dropped; time from the master never runs backwards; the management
block writes its registers and reads the trace buffer (R376). The formulas of IEEE 1588 for the offset and the path delay are the model's choice (assumption 79), and so is
what holds an owner that no measurement lowers again (assumption 56). -/
def Obligations.ManagementEvents : Prop :=
  ∀ s : State,
    (∀ addr read fixed site sub row, read ≠ fixed → isLs addr = true → homeByte s addr = fixed → rowOf s addr = some (site, sub, row) →
      let n := Tab.get 0 s.rowErrs row + 1
      ∃ t, exec (.scrub addr read fixed) s = .next t ∧ t.mem = s.mem ∧ t.cores = s.cores ∧ Tab.get 0 t.rowErrs row = n ∧
        (n < 16 → t.repairs = s.repairs) ∧
        (16 ≤ n → ∃ x ∈ Tab.get [] t.repairs site, x.2.1 = row)) ∧
    (∀ core sub, Inv s → sub < 16 → ∃ t, exec (.zeroFill core sub) s = .next t ∧ (∀ k, homeByte t k = homeByte s k) ∧
      ∀ n, (subAt t core sub).valid.has n = true) ∧
    (∀ draw hot, (s.sys.power ≠ .on ∨ s.sys.measured = some (s.cycle / 33000)) → exec (.powerMeasurement draw hot) s = .next s) ∧
    (∀ draw hot, s.sys.power = .on → s.sys.measured ≠ some (s.cycle / 33000) →
      (∀ o ∈ s.owners, 1 ≤ o.2.duty ∧ o.2.duty ≤ 16) → (s.owners.map Prod.fst).Pairwise (· < ·) →
      ∃ t, exec (.powerMeasurement draw hot) s = .next t ∧ t.owners.map Prod.fst = s.owners.map Prod.fst ∧
        t.sys.measured = some (s.cycle / 33000) ∧
        ∀ o w, Tab.find s.owners o = some w →
          let a := Tab.get 0 s.sys.classCaps w.capCls
          let l := if a = 0 then w.capOwn else if w.capOwn = 0 then a else min a w.capOwn
          let total := (draw.map Prod.snd).sum
          let budget := if s.sys.hall = 0 then 4200 else min 4200 s.sys.hall
          let x := ownerAt t o
          1 ≤ x.duty ∧ x.duty ≤ 16 ∧ x.duty ≤ w.duty + 1 ∧ x.cap = (if l = 0 then 0xFFFF else l) ∧ x.thrCur = w.thrCur ∧
            x.tcnt = w.tcnt ∧
            (l ≠ 0 → l < drawOf draw o → x.duty ≤ max 1 (w.duty - 1) ∧ x.thrNow ≠ 0 ∧ x.heldBy ≠ 0 ∧ x.thr &&& w.thr = w.thr) ∧
            (total ≤ budget → hot = [] → (l = 0 ∨ 100 * drawOf draw o ≤ 98 * l) → 100 * total ≤ 98 * budget → w.duty < 16 →
              x.duty = w.duty + 1)) ∧
    (∀ w : Owner, closeIntervals 0 w = w ∧
      let held := w.thrNow ||| w.heldBy
      closeIntervals 1 w = { w with thrCur := held, tcnt := w.tcnt + (if held = 0 then 0 else 1), thrNow := 0 } ∧
      ∀ n, closeIntervals (n + 2) w = { w with
        thrCur := w.heldBy, thrNow := 0
        tcnt := w.tcnt + (if held = 0 then 0 else 1) + if w.heldBy = 0 then 0 else BitVec.ofNat 32 (n + 1) }) ∧
    (∀ before o w, Tab.find s.owners o = some w →
      let n := s.cycle / 33000 - before / 33000
      let a := Tab.get 0 s.sys.classCaps w.capCls
      let l := if a = 0 then w.capOwn else if w.capOwn = 0 then a else min a w.capOwn
      (n = 0 → endIntervals before s = s) ∧
      (n ≠ 0 → Tab.find (endIntervals before s).owners o =
        some (closeIntervals n { w with cap := if l = 0 then 0xFFFF else l }))) ∧
    (∀ e frame, e ≠ 0x88B5 → exec (.capFrame e frame) s = .next s) ∧
    (∀ frame, ∃ t, exec (.capFrame 0x88B5 frame) s = .next t ∧ t = { s with sys := t.sys } ∧
      let good := frame.length = 64 ∧ (frameField frame 0 4 = s.sys.modNo.toNat ∨ frameField frame 0 4 = 0xFFFFFFFF) ∧
        s.sys.capSeq < frameField frame 4 8 ∧
        ∃ key, s.sys.capKey = some key ∧ (Sha.hmac key (frame.take 48)).take 16 = frame.drop 48
      (good → t.sys.capSeq = frameField frame 4 8 ∧ t.sys.hall = frameField frame 12 4 ∧
        (∀ i < 16, Tab.get 0 t.sys.classCaps i = frameField frame (16 + 2 * i) 2) ∧ t.sys.dropped = s.sys.dropped) ∧
      (¬ good → t.sys = { s.sys with dropped := s.sys.dropped + 1 })) ∧
    (let k := s.sys.ptpClock
     let moved (t : State) (arrival origin : Nat) : Prop :=
       let d : Int := k.delay - ((arrival : Int) - 165000 * (origin : Int))
       t.sys.ptp = 0 ∧ s.timeU ≤ t.timeU ∧ (165000 * 1000000 < d → t.timeU = s.timeU + d.toNat ∧ t.slew = 0) ∧
         (d ≤ 165000 * 1000000 → t.timeU = s.timeU ∧ t.slew = d)
     let hears (b : PtpBody) (p : State → Prop) : Prop := ∀ n, s.sys.ptpDomain = some n → s.sys.power ≠ .off →
       ∃ t, exec (.ptpMessage ⟨n, b⟩) s = .next t ∧ p t
     (∀ m : PtpMessage, (s.sys.ptpDomain ≠ some m.domain ∨ s.sys.power = .off) → exec (.ptpMessage m) s = .next s) ∧
     (∀ origin, hears (.sync (some origin)) fun t => moved t s.timeU origin) ∧
     hears (.sync none) (fun t => t.timeU = s.timeU ∧ t.sys.ptpClock = { k with arrived := some s.timeU }) ∧
     (∀ a origin, k.arrived = some a → hears (.followUp origin) fun t => moved t a origin) ∧
     hears .delayReq (fun t => t.timeU = s.timeU ∧ t.sys.ptpClock = { k with asked := some s.timeU }) ∧
     ∀ gap sent received, k.gap = some gap → k.asked = some sent → hears (.delayResp received) fun t => t.timeU = s.timeU ∧
       t.sys.ptpClock = { k with asked := none, delay := (gap + (165000 * (received : Int) - sent)) / 2 }) ∧
    (s.sys.ptp = 0 → exec .holdover s = .next { s with sys := { s.sys with ptp := 1 } }) ∧ (s.sys.ptp ≠ 0 → exec .holdover s = .next s) ∧
    (∀ out v, ∃ t, exec (.managementWrite (.arbw out v)) s = .next t ∧ ∀ c < 8,
      (Tab.get {} t.outs out).weight c = if field v (6 * c) 6 = 0 then 1 else field v (6 * c) 6) ∧
    (∀ (n : Nat) (en : Bool) (ivl : BitVec 10), n < 4 → let k := stackAt s n
      ((en = true ∨ s.sys.sec = 2) → 8 ≤ ivl.toNat → ivl.toNat ≤ 512 →
        ∃ t, exec (.managementWrite (.rotcfg n en ivl)) s = .next t ∧ (stackAt t n).rotEn = en ∧ (stackAt t n).ivl = ivl.toNat ∧
          (stackAt t n).due = if en = true ∧ k.rotEn = false then s.cycle + 3300000 * ivl.toNat + n * (3300000 * ivl.toNat / 4) else k.due) ∧
      (((en = false ∧ s.sys.sec ≠ 2) ∨ ivl.toNat < 8 ∨ 512 < ivl.toNat) → exec (.managementWrite (.rotcfg n en ivl)) s = .next s)) ∧
    (∀ slot o base, slot < 2048 → (Tab.find s.owners o).isSome = true → base % 2 ^ 30 = 0 → base < 2 ^ 52 →
      ∃ t, exec (.managementWrite (.bar2 slot o base)) s = .next t ∧ Tab.find t.sys.bar2 slot = some ⟨o, base⟩) ∧
    (∀ o w b, Tab.find s.owners o = some w →
      ∃ t, exec (.managementWrite (.consent o b)) s = .next t ∧ ownerAt t o = { w with consent := b }) ∧
    exec (.managementWrite .traceFlush) s = .next { s with sys := { s.sys with trace := [] } } ∧
    (∀ n r, s.sys.trace[n]? = some r →
      exec (.managementWrite (.traceRead n)) s = .next { s with sys := { s.sys with traceRead := some r } }) ∧
    (s.sys.ready = false → s.sys.power = .on → s.sys.startClk < 990000000000 →
      exec (.managementWrite .readyRecord) s = .next { s with sys := { s.sys with ready := true, failed := 0 } }) ∧
    ((s.sys.ready = true ∨ s.sys.power ≠ .on ∨ 990000000000 ≤ s.sys.startClk) →
      exec (.managementWrite .readyRecord) s = .next s)

/-- R14, R368 and R379: error containment stops an owner, kills its kernels with cause 0x22, frees its threads and makes a record;
an owner is created with the context, the mailbox 0 and the resident loop of R368 on each of its ranks; its withdrawal leaves no
thread, no sub-bank and no context of it. That a single position is withdrawn only as the owner's last is the model's choice
(assumption 58); so is that containment frees the owner's threads in the same step, where each ends at its next boundary by R189
(assumption 38). -/
def Obligations.OwnerLife : Prop :=
  ∀ s : State,
    (∀ kind loc, ∃ t, exec (.errorContainment 0 kind loc) s = .next t ∧ t.owners = s.owners ∧
      t.sys.errs = s.sys.errs ++ [⟨kind, 0, 0, loc, s.cycle, timeNow s⟩]) ∧
    (∀ o kind loc w, o ≠ 0 → Tab.find s.owners o = some w → w.kernels.length ≤ 2048 →
      ∃ t, exec (.errorContainment o kind loc) s = .next t ∧ (ownerAt t o).stopped = true ∧
        ⟨kind, o, 0, loc, s.cycle, timeNow s⟩ ∈ t.sys.errs ∧
        (∀ c sl, (thrAt t c sl).st = .free ∨ (thrAt t c sl).owner ≠ o) ∧
        ∀ kid k, kernelAt s o kid = some k → k.over = false → ∃ k', kernelAt t o kid = some k' ∧ k'.st = .killed ∧
          (k.flag = 0 → k'.flag = 3 ∧ k'.cause = 0x22)) ∧
    (∀ w : OwnerSpec, ownerFits s w = true → ∃ t, exec (.ownerCreation w) s = .next t ∧
      (ownerAt t w.id).grants = w.grants ∧ (ownerAt t w.id).timeShare = w.timeShare ∧ (ownerAt t w.id).stopped = false ∧
      ∀ r < 64 * w.grants.length, let c := rankCore (ownerAt t w.id) r
        (ctxAt t c w.id).rank = r ∧ (ctxAt t c w.id).lscap = w.lscap ∧
        (0 < w.lscap → let m := mbxAt t c w.id 0
          m.defined = true ∧ m.base = w.lscap * 2 ^ 18 - 2 ^ 14 ∧ m.k = 7 ∧ m.count = 0) ∧
        ((coreAt s c).active = 0 → (coreAt t c).active = w.id ∧
          let x := thrAt t c 0
          x.owner = w.id ∧ x.sup = true ∧ x.tin = true ∧ x.pc = w.loopEntry ∧ x.resident = true ∧ (x.st = .ready ∨ x.st = .starting))) ∧
    (∀ w : OwnerSpec, ownerFits s w = false → exec (.ownerCreation w) s = .next s) ∧
    (∀ o w, o ≠ 0 → Tab.find s.owners o = some w →
      ∃ t, exec (.ownerWithdrawal o none) s = .next t ∧ Tab.find t.owners o = none ∧
        ∀ p < w.grants.length, ∀ c ∈ positionCores s o p, Tab.find (coreAt t c).ctxs o = none ∧
          (∀ sl, (thrAt t c sl).st = .free ∨ (thrAt t c sl).owner ≠ o) ∧ ∀ b, (subAt t c b).tag ≠ o) ∧
    (∀ o w p, Tab.find s.owners o = some w →
      (p + 1 = w.grants.length → 2 ≤ w.grants.length →
        ∃ t, exec (.ownerWithdrawal o (some p)) s = .next t ∧ (ownerAt t o).grants = w.grants.take p) ∧
      ((p + 1 ≠ w.grants.length ∨ w.grants.length < 2) → exec (.ownerWithdrawal o (some p)) s = .next s)) ∧
    ∀ o, Tab.find s.owners o = none → (∀ p, exec (.ownerWithdrawal o p) s = .next s)

/-! ### The whole machine -/

/-- R6, R70, R341, R353, R369 and R384: after reset no slot holds a thread, no owner exists, no memory is listed, every
accumulator and every byte of the module's memories is zero, CYCLE and TIME are 0, each stack rotates every 16 ms from its own
first due point, and no master has been heard. That a byte of LPDDR 6 and of host memory that nothing has written reads as zero
(assumption 6), and the first values of the accumulators and of TIME (assumption 29), are the model's choices. -/
def Obligations.ResetState : Prop :=
  let s := State.reset
  Inv s ∧ s.mem = [] ∧ s.owners = [] ∧ s.xfers = [] ∧ s.cycle = 0 ∧ s.timeU = 0 ∧ s.sys.ptp = 2 ∧ s.sys.dbg = 0 ∧
    (∀ k, homeByte s k = 0) ∧ (∀ c sl, (thrAt s c sl).st = .free) ∧ (∀ c t r n, accWord (coreAt s c) t r n = 0) ∧
    (∀ c, (coreAt s c).rowSplit = false ∧ (coreAt s c).active = 0 ∧ (coreAt s c).sb = []) ∧
    (∀ n < 4, let k := stackAt s n
      k.rotn = 0 ∧ k.rotEn = true ∧ k.ivl = 16 ∧ k.rot = .idle ∧ k.due = 3300000 * 16 + n * (3300000 * 16 / 4) ∧ k.holds = []) ∧
    (∀ c o, (ctxAt s c o).lscap = 0 ∧ (ctxAt s c o).mbxs = [])

/-- The model's invariant, over every state and not only runs from reset: every step of the machine, whatever instruction or
event it runs, leaves memory in its one canonical form. -/
def Obligations.EveryStepKeepsMemoryCanonical : Prop :=
  ∀ s t : State, Inv s → step s = .next t → Inv t

/-- R2, R118 and R122: bytes written at their homes read back in order, and every other byte reads as before. -/
def Obligations.HomesReadBackWhatIsWritten : Prop :=
  ∀ (s : State) (k : Nat) (bytes : List Byte), Inv s →
    Inv (setHomes s k bytes) ∧ (∀ j, homeByte (setHomes s k bytes) j = storedAt k bytes j (homeByte s j)) ∧
    (∀ n, bytes.length = n → homeNat (setHomes s k bytes) k n = ofLeBytes bytes) ∧
    (∀ x n, n < 2 ^ (8 * x) → homeNat (setHomes s k (leBytes x n)) k x = n) ∧
    ∀ c, { coreAt (setHomes s k bytes) c with subs := (coreAt s c).subs } = coreAt s c

/-- R51, R58 and R143 to R150: where a thread of no gang is eligible at a boundary with nothing due, in no rotation pause of its
stack, with no thread of its core that has waited 48 clk (R315), and its code is fetched, a step that issues it is `exec` of the
instruction that the code decodes to, or the ILLEGAL of a code that decodes to none; it is then the one Running thread of its core,
one clk passes and the waits are counted. A transfer interrupt waits where that instruction traps. The code is the bytes at the PC,
lowest address first. That an issue passes one clk for the whole module (assumption 1), that what is due is taken before the next
instruction and that one runs in the same move (assumption 63), and the ACCESS of a PC that has not the form of a code address
(assumption 25), are the model's choices. -/
def Obligations.StepRunsDecodedInstruction : Prop :=
  ∀ (s : State) (c sl : Nat) (rest : List Move), s.sched = .issue c sl :: rest → s.sys.power = .on → pausing s (stackOf c) = false →
    let s0 := { s with sched := rest }
    let l := eligibleSlots s0 c
    forcedSlot s0 c sl = sl → eligible s0 c sl (thrAt s c sl) = true → (thrAt s c sl).gang = none →
    let chosen := { choose c sl l s0 with splitIssue := false }
    let now := noteIssue chosen
    let after (o : Out) : Out := match o with
      | .next t => .next (countWaits s0 c sl l (passClk 1 { traceIssue chosen t with splitIssue := false }))
      | .fault f => .fault f
      | .refused r => .refused r
    let pc := (thrAt s c sl).pc
    let due : Prop := (boundaryTake now).isSome = true ∨ ((irqHere now).isSome = true ∧ nextTraps runNext now = false)
    now.core = c ∧ now.slot = sl ∧ (thr now).pc = pc ∧ (thr now).st = .running ∧
    (∀ i, i ≠ sl → (thrAt now c i).st ≠ .running) ∧
    (¬ due → ∀ code ready, fetchCode now = .ok code ready →
      (∀ i, code.decode = some i → step s = after (exec i ready)) ∧
      (code.decode = none → step s = after (exec (.unassignedEncoding (code.value.setWidth 32)) ready))) ∧
    (¬ due → ∀ cause v t, fetchCode now = .trap cause v t → step s = after (.next (takeTrap t cause none v))) ∧
    ∀ k l, pc.getLsbD 63 = true → codeForm pc = true → codeAddr pc < lsLimit now c (thr now).owner →
      codeForm (pcPlus pc 2) = true → codeAddr (pcPlus pc 2) < lsLimit now c (thr now).owner →
      lsPlace now c (thr now).owner (codeAddr pc) = some k → lsPlace now c (thr now).owner (codeAddr (pcPlus pc 2)) = some l →
      ∀ code rest', decodeBytes [homeByte s k, homeByte s (k + 1), homeByte s l, homeByte s (l + 1)] = .ok (code, rest') →
        fetchCode now = .ok code now

/-- R51 and R55 to R58: for every well-formed instruction, with every operand at every value its encoding admits, decoding its
encoding gives it back, also from the bytes that hardware stores and whatever follows them; and a code that decodes to an
instruction is that instruction's one encoding. -/
def Obligations.DecodingInvertsEncoding : Prop :=
  (∀ i c, i.wf = true → encode i = some c → c.decode = some i ∧ ∀ rest, decodeBytes (c.bytes ++ rest) = .ok (c, rest)) ∧
  ∀ c i, c.decode = some i → encode i = some c ∧ i.wf = true

/-- R51 and the assembled words that the spec itself writes out: each decodes to the instruction it stands for. -/
def Obligations.DecodedWords : Prop :=
  decodeTableWord 32 0x000182E1 = some (.mpush 5 12) ∧ decodeTableWord 32 0x00080361 = some (.mpop 6) ∧
  decodeTableWord 32 0x0018C2E1 = some (.mstat 5 6) ∧ decodeTableWord 32 0x00412063 = some (.rgdef 9 1) ∧
  decodeTableWord 32 0x005002E3 = some (.rgstat 5 1) ∧ decodeTableWord 32 0x01480079 = some (.trap 5) ∧
  decodeTableWord 32 0x0021806B = some (.suspend 12) ∧ decodeTableWord 32 0x00102A6F = some (.klaunch 20 1) ∧
  decodeTableWord 32 0x0038A27B = some (.ctxsave 4 5) ∧ decodeTableWord 32 0x80408077 = some (.csrw 4 8) ∧
  decodeTableWord 32 0x0048007B = some .rothold ∧ decodeTableWord 16 0xB000 = some .doneCompact ∧
  decodeTableWord 32 0x00000000 = some .nopCompact

end
end

