-- ==== Sys2Proof/Laws/Exec.lean ====
section
/-! SUPPORT. What exec does with each constructor: its meaning, by name. -/

namespace Sys2Proof.Machine

theorem exec_add (d a b s) : exec (.add d a b) s = execAdd d a b s := rfl
theorem exec_sub (d a b s) : exec (.sub d a b) s = execSub d a b s := rfl
theorem exec_and (d a b s) : exec (.and d a b) s = execAnd d a b s := rfl
theorem exec_or (d a b s) : exec (.or d a b) s = execOr d a b s := rfl
theorem exec_xor (d a b s) : exec (.xor d a b) s = execXor d a b s := rfl
theorem exec_andn (d a b s) : exec (.andn d a b) s = execAndn d a b s := rfl
theorem exec_orn (d a b s) : exec (.orn d a b) s = execOrn d a b s := rfl
theorem exec_xnor (d a b s) : exec (.xnor d a b) s = execXnor d a b s := rfl
theorem exec_sll (d a b s) : exec (.sll d a b) s = execSll d a b s := rfl
theorem exec_srl (d a b s) : exec (.srl d a b) s = execSrl d a b s := rfl
theorem exec_sra (d a b s) : exec (.sra d a b) s = execSra d a b s := rfl
theorem exec_rot (d a b s) : exec (.rot d a b) s = execRot d a b s := rfl
theorem exec_slt (d a b s) : exec (.slt d a b) s = execSlt d a b s := rfl
theorem exec_sltu (d a b s) : exec (.sltu d a b) s = execSltu d a b s := rfl
theorem exec_min (d a b s) : exec (.min d a b) s = execMin d a b s := rfl
theorem exec_max (d a b s) : exec (.max d a b) s = execMax d a b s := rfl
theorem exec_minu (d a b s) : exec (.minu d a b) s = execMinu d a b s := rfl
theorem exec_maxu (d a b s) : exec (.maxu d a b) s = execMaxu d a b s := rfl
theorem exec_addw (d a b s) : exec (.addw d a b) s = execAddw d a b s := rfl
theorem exec_subw (d a b s) : exec (.subw d a b) s = execSubw d a b s := rfl
theorem exec_adds (d a b s) : exec (.adds d a b) s = execAdds d a b s := rfl
theorem exec_subs (d a b s) : exec (.subs d a b) s = execSubs d a b s := rfl
theorem exec_sllw (d a b s) : exec (.sllw d a b) s = execSllw d a b s := rfl
theorem exec_srlw (d a b s) : exec (.srlw d a b) s = execSrlw d a b s := rfl
theorem exec_sraw (d a b s) : exec (.sraw d a b) s = execSraw d a b s := rfl
theorem exec_addi (d a n s) : exec (.addi d a n) s = execAddi d a n s := rfl
theorem exec_andi (d a n s) : exec (.andi d a n) s = execAndi d a n s := rfl
theorem exec_ori (d a n s) : exec (.ori d a n) s = execOri d a n s := rfl
theorem exec_xori (d a n s) : exec (.xori d a n) s = execXori d a n s := rfl
theorem exec_slli (d a h s) : exec (.slli d a h) s = execSlli d a h s := rfl
theorem exec_srli (d a h s) : exec (.srli d a h) s = execSrli d a h s := rfl
theorem exec_srai (d a h s) : exec (.srai d a h) s = execSrai d a h s := rfl
theorem exec_roti (d a h s) : exec (.roti d a h) s = execRoti d a h s := rfl
theorem exec_slti (d a n s) : exec (.slti d a n) s = execSlti d a n s := rfl
theorem exec_sltiu (d a n s) : exec (.sltiu d a n) s = execSltiu d a n s := rfl
theorem exec_mul (d a b s) : exec (.mul d a b) s = execMul d a b s := rfl
theorem exec_mulh (d a b s) : exec (.mulh d a b) s = execMulh d a b s := rfl
theorem exec_mulhu (d a b s) : exec (.mulhu d a b) s = execMulhu d a b s := rfl
theorem exec_mulhm (d a b s) : exec (.mulhm d a b) s = execMulhm d a b s := rfl
theorem exec_div (d a b s) : exec (.div d a b) s = execDiv d a b s := rfl
theorem exec_divu (d a b s) : exec (.divu d a b) s = execDivu d a b s := rfl
theorem exec_rem (d a b s) : exec (.rem d a b) s = execRem d a b s := rfl
theorem exec_remu (d a b s) : exec (.remu d a b) s = execRemu d a b s := rfl
theorem exec_mulw (d a b s) : exec (.mulw d a b) s = execMulw d a b s := rfl
theorem exec_divw (d a b s) : exec (.divw d a b) s = execDivw d a b s := rfl
theorem exec_remw (d a b s) : exec (.remw d a b) s = execRemw d a b s := rfl
theorem exec_clz (d a s) : exec (.clz d a) s = execClz d a s := rfl
theorem exec_ctz (d a s) : exec (.ctz d a) s = execCtz d a s := rfl
theorem exec_popc (d a s) : exec (.popc d a) s = execPopc d a s := rfl
theorem exec_bswap (d a s) : exec (.bswap d a) s = execBswap d a s := rfl
theorem exec_sel (d a b s) : exec (.sel d a b) s = execSel d a b s := rfl
theorem exec_ext (d a b s) : exec (.ext d a b) s = execExt d a b s := rfl
theorem exec_extu (d a b s) : exec (.extu d a b) s = execExtu d a b s := rfl
theorem exec_ins (d a b s) : exec (.ins d a b) s = execIns d a b s := rfl
theorem exec_lui (d n s) : exec (.lui d n) s = execLui d n s := rfl
theorem exec_addpc (d n s) : exec (.addpc d n) s = execAddpc d n s := rfl
theorem exec_padd (d a b s) : exec (.padd d a b) s = execPadd d a b s := rfl
theorem exec_psub (d a b s) : exec (.psub d a b) s = execPsub d a b s := rfl
theorem exec_ptag (d a b s) : exec (.ptag d a b) s = execPtag d a b s := rfl
theorem exec_pgtag (d a s) : exec (.pgtag d a) s = execPgtag d a s := rfl
theorem exec_pidx (d a b s) : exec (.pidx d a b) s = execPidx d a b s := rfl
theorem exec_pblk (d a b s) : exec (.pblk d a b) s = execPblk d a b s := rfl
theorem exec_pchk (d a b s) : exec (.pchk d a b) s = execPchk d a b s := rfl
theorem exec_paddi (d a n s) : exec (.paddi d a n) s = execPaddi d a n s := rfl
theorem exec_rget (d a k s) : exec (.rget d a k) s = execRget d a k s := rfl
theorem exec_rput (d a k s) : exec (.rput d a k) s = execRput d a k s := rfl
theorem exec_ixset (a k s) : exec (.ixset a k) s = execIxset a k s := rfl
theorem exec_ixadd (a k s) : exec (.ixadd a k) s = execIxadd a k s := rfl
theorem exec_ixget (d k s) : exec (.ixget d k) s = execIxget d k s := rfl
theorem exec_fadd (d a b w s) : exec (.fadd d a b w) s = execFadd d a b w s := rfl
theorem exec_fsub (d a b w s) : exec (.fsub d a b w) s = execFsub d a b w s := rfl
theorem exec_fmul (d a b w s) : exec (.fmul d a b w) s = execFmul d a b w s := rfl
theorem exec_fdiv (d a b w s) : exec (.fdiv d a b w) s = execFdiv d a b w s := rfl
theorem exec_fsqrt (d a w s) : exec (.fsqrt d a w) s = execFsqrt d a w s := rfl
theorem exec_fmin (d a b w s) : exec (.fmin d a b w) s = execFmin d a b w s := rfl
theorem exec_fmax (d a b w s) : exec (.fmax d a b w) s = execFmax d a b w s := rfl
theorem exec_fscpy (d a b w s) : exec (.fscpy d a b w) s = execFscpy d a b w s := rfl
theorem exec_fsinv (d a b w s) : exec (.fsinv d a b w) s = execFsinv d a b w s := rfl
theorem exec_fsxor (d a b w s) : exec (.fsxor d a b w) s = execFsxor d a b w s := rfl
theorem exec_feq (d a b w s) : exec (.feq d a b w) s = execFeq d a b w s := rfl
theorem exec_flt (d a b w s) : exec (.flt d a b w) s = execFlt d a b w s := rfl
theorem exec_fle (d a b w s) : exec (.fle d a b w) s = execFle d a b w s := rfl
theorem exec_fkind (d a w s) : exec (.fkind d a w) s = execFkind d a w s := rfl
theorem exec_fcvt (d a r u e z s) : exec (.fcvt d a r u e z) s = execFcvt d a r u e z s := rfl
theorem exec_ffma (d a b w c s) : exec (.ffma d a b w c) s = execFfma d a b w c s := rfl
theorem exec_beq (a b o s) : exec (.beq a b o) s = execBeq a b o s := rfl
theorem exec_bne (a b o s) : exec (.bne a b o) s = execBne a b o s := rfl
theorem exec_blt (a b o s) : exec (.blt a b o) s = execBlt a b o s := rfl
theorem exec_bge (a b o s) : exec (.bge a b o) s = execBge a b o s := rfl
theorem exec_bltu (a b o s) : exec (.bltu a b o) s = execBltu a b o s := rfl
theorem exec_bgeu (a b o s) : exec (.bgeu a b o) s = execBgeu a b o s := rfl
theorem exec_j (o s) : exec (.j o) s = execJ o s := rfl
theorem exec_jal (o s) : exec (.jal o) s = execJal o s := rfl
theorem exec_jalr (d a n s) : exec (.jalr d a n) s = execJalr d a n s := rfl
theorem exec_loop (a b o s) : exec (.loop a b o) s = execLoop a b o s := rfl
theorem exec_ld (d a z m o s) : exec (.ld d a z m o) s = execLd d a z m o s := rfl
theorem exec_ldu (d a z m o s) : exec (.ldu d a z m o) s = execLdu d a z m o s := rfl
theorem exec_st (d a z m o s) : exec (.st d a z m o) s = execSt d a z m o s := rfl
theorem exec_ldx (d a b m z s) : exec (.ldx d a b m z) s = execLdx d a b m z s := rfl
theorem exec_ldux (d a b m z s) : exec (.ldux d a b m z) s = execLdux d a b m z s := rfl
theorem exec_stx (d a b m z s) : exec (.stx d a b m z) s = execStx d a b m z s := rfl
theorem exec_pst (d a z m o s) : exec (.pst d a z m o) s = execPst d a z m o s := rfl
theorem exec_pref (h a o s) : exec (.pref h a o) s = execPref h a o s := rfl
theorem exec_ldv (d a m o s) : exec (.ldv d a m o) s = execLdv d a m o s := rfl
theorem exec_stv (d a m o s) : exec (.stv d a m o) s = execStv d a m o s := rfl
theorem exec_vlds (d a b z m s) : exec (.vlds d a b z m) s = execVlds d a b z m s := rfl
theorem exec_vsts (d a b z m s) : exec (.vsts d a b z m) s = execVsts d a b z m s := rfl
theorem exec_vgath (d a b z m s) : exec (.vgath d a b z m) s = execVgath d a b z m s := rfl
theorem exec_vscat (d a b z m s) : exec (.vscat d a b z m) s = execVscat d a b z m s := rfl
theorem exec_vldb (d a z m s) : exec (.vldb d a z m) s = execVldb d a z m s := rfl
theorem exec_amoadd (d a b z o s) : exec (.amoadd d a b z o) s = execAmoadd d a b z o s := rfl
theorem exec_amoand (d a b z o s) : exec (.amoand d a b z o) s = execAmoand d a b z o s := rfl
theorem exec_amoor (d a b z o s) : exec (.amoor d a b z o) s = execAmoor d a b z o s := rfl
theorem exec_amoxor (d a b z o s) : exec (.amoxor d a b z o) s = execAmoxor d a b z o s := rfl
theorem exec_amomin (d a b z o s) : exec (.amomin d a b z o) s = execAmomin d a b z o s := rfl
theorem exec_amomax (d a b z o s) : exec (.amomax d a b z o) s = execAmomax d a b z o s := rfl
theorem exec_amoswp (d a b z o s) : exec (.amoswp d a b z o) s = execAmoswp d a b z o s := rfl
theorem exec_amofadd (d a b z o s) : exec (.amofadd d a b z o) s = execAmofadd d a b z o s := rfl
theorem exec_cas (d a b o z s) : exec (.cas d a b o z) s = execCas d a b o z s := rfl
theorem exec_cas2 (d a b o s) : exec (.cas2 d a b o) s = execCas2 d a b o s := rfl
theorem exec_fence (z k s) : exec (.fence z k) s = execFence z k s := rfl
theorem exec_vadd (d a b z s) : exec (.vadd d a b z) s = execVadd d a b z s := rfl
theorem exec_vsub (d a b z s) : exec (.vsub d a b z) s = execVsub d a b z s := rfl
theorem exec_vmul (d a b z s) : exec (.vmul d a b z) s = execVmul d a b z s := rfl
theorem exec_vmulh (d a b z s) : exec (.vmulh d a b z) s = execVmulh d a b z s := rfl
theorem exec_vand (d a b z s) : exec (.vand d a b z) s = execVand d a b z s := rfl
theorem exec_vor (d a b z s) : exec (.vor d a b z) s = execVor d a b z s := rfl
theorem exec_vxor (d a b z s) : exec (.vxor d a b z) s = execVxor d a b z s := rfl
theorem exec_vsll (d a b z s) : exec (.vsll d a b z) s = execVsll d a b z s := rfl
theorem exec_vsrl (d a b z s) : exec (.vsrl d a b z) s = execVsrl d a b z s := rfl
theorem exec_vsra (d a b z s) : exec (.vsra d a b z) s = execVsra d a b z s := rfl
theorem exec_vmin (d a b z s) : exec (.vmin d a b z) s = execVmin d a b z s := rfl
theorem exec_vmax (d a b z s) : exec (.vmax d a b z) s = execVmax d a b z s := rfl
theorem exec_vminu (d a b z s) : exec (.vminu d a b z) s = execVminu d a b z s := rfl
theorem exec_vmaxu (d a b z s) : exec (.vmaxu d a b z) s = execVmaxu d a b z s := rfl
theorem exec_vadds (d a b z s) : exec (.vadds d a b z) s = execVadds d a b z s := rfl
theorem exec_vsubs (d a b z s) : exec (.vsubs d a b z) s = execVsubs d a b z s := rfl
theorem exec_vabsd (d a b z s) : exec (.vabsd d a b z) s = execVabsd d a b z s := rfl
theorem exec_vdot4 (d a b s) : exec (.vdot4 d a b) s = execVdot4 d a b s := rfl
theorem exec_vfadd (d a b t s) : exec (.vfadd d a b t) s = execVfadd d a b t s := rfl
theorem exec_vfsub (d a b t s) : exec (.vfsub d a b t) s = execVfsub d a b t s := rfl
theorem exec_vfmul (d a b t s) : exec (.vfmul d a b t) s = execVfmul d a b t s := rfl
theorem exec_vfmin (d a b t s) : exec (.vfmin d a b t) s = execVfmin d a b t s := rfl
theorem exec_vfmax (d a b t s) : exec (.vfmax d a b t) s = execVfmax d a b t s := rfl
theorem exec_vfabs (d a t s) : exec (.vfabs d a t) s = execVfabs d a t s := rfl
theorem exec_vfneg (d a t s) : exec (.vfneg d a t) s = execVfneg d a t s := rfl
theorem exec_vfdiv (d a b t s) : exec (.vfdiv d a b t) s = execVfdiv d a b t s := rfl
theorem exec_vfma (d a b f c s) : exec (.vfma d a b f c) s = execVfma d a b f c s := rfl
theorem exec_vcvt (d a r u p s) : exec (.vcvt d a r u p) s = execVcvt d a r u p s := rfl
theorem exec_vqnt (d a b k r s) : exec (.vqnt d a b k r) s = execVqnt d a b k r s := rfl
theorem exec_vdqnt (d a b k s) : exec (.vdqnt d a b k) s = execVdqnt d a b k s := rfl
theorem exec_vecfd (d a k m s) : exec (.vecfd d a k m) s = execVecfd d a k m s := rfl
theorem exec_vecfe (d a k m s) : exec (.vecfe d a k m) s = execVecfe d a k m s := rfl
theorem exec_vbcast (d a z s) : exec (.vbcast d a z) s = execVbcast d a z s := rfl
theorem exec_vmovgv (d a b z s) : exec (.vmovgv d a b z) s = execVmovgv d a b z s := rfl
theorem exec_vmovvg (d a b z s) : exec (.vmovvg d a b z) s = execVmovvg d a b z s := rfl
theorem exec_vperm (d a b s) : exec (.vperm d a b) s = execVperm d a b s := rfl
theorem exec_vred (d a z o s) : exec (.vred d a z o) s = execVred d a z o s := rfl
theorem exec_vslide (d a b z s) : exec (.vslide d a b z) s = execVslide d a b z s := rfl
theorem exec_vsel (d a b z m s) : exec (.vsel d a b z m) s = execVsel d a b z m s := rfl
theorem exec_vrcp (d a t s) : exec (.vrcp d a t) s = execVrcp d a t s := rfl
theorem exec_vrsq (d a t s) : exec (.vrsq d a t) s = execVrsq d a t s := rfl
theorem exec_vexp2 (d a t s) : exec (.vexp2 d a t) s = execVexp2 d a t s := rfl
theorem exec_vlog2 (d a t s) : exec (.vlog2 d a t) s = execVlog2 d a t s := rfl
theorem exec_vtanh (d a t s) : exec (.vtanh d a t) s = execVtanh d a t s := rfl
theorem exec_vcmp (m c a b t s) : exec (.vcmp m c a b t) s = execVcmp m c a b t s := rfl
theorem exec_mand (d a b s) : exec (.mand d a b) s = execMand d a b s := rfl
theorem exec_mor (d a b s) : exec (.mor d a b) s = execMor d a b s := rfl
theorem exec_mxor (d a b s) : exec (.mxor d a b) s = execMxor d a b s := rfl
theorem exec_mnot (d a s) : exec (.mnot d a) s = execMnot d a s := rfl
theorem exec_mcnt (d a x s) : exec (.mcnt d a x) s = execMcnt d a x s := rfl
theorem exec_mset (d a s) : exec (.mset d a) s = execMset d a s := rfl
theorem exec_gang (d a s) : exec (.gang d a) s = execGang d a s := rfl
theorem exec_xchg (d a z s) : exec (.xchg d a z) s = execXchg d a z s := rfl
theorem exec_gbcast (d a v s) : exec (.gbcast d a v) s = execGbcast d a v s := rfl
theorem exec_gstat (d a s) : exec (.gstat d a) s = execGstat d a s := rfl
theorem exec_mpush (d a s) : exec (.mpush d a) s = execMpush d a s := rfl
theorem exec_mpop (d s) : exec (.mpop d) s = execMpop d s := rfl
theorem exec_mwait (d a s) : exec (.mwait d a) s = execMwait d a s := rfl
theorem exec_mstat (d a s) : exec (.mstat d a) s = execMstat d a s := rfl
theorem exec_msplit (a s) : exec (.msplit a) s = execMsplit a s := rfl
theorem exec_rgdef (a k s) : exec (.rgdef a k) s = execRgdef a k s := rfl
theorem exec_rgpush (a k s) : exec (.rgpush a k) s = execRgpush a k s := rfl
theorem exec_rgstat (d k s) : exec (.rgstat d k) s = execRgstat d k s := rfl
theorem exec_rgrst (k s) : exec (.rgrst k) s = execRgrst k s := rfl
theorem exec_qpush (a n s) : exec (.qpush a n) s = execQpush a n s := rfl
theorem exec_qpop (d n s) : exec (.qpop d n) s = execQpop d n s := rfl
theorem exec_qpeek (d n s) : exec (.qpeek d n) s = execQpeek d n s := rfl
theorem exec_qtry (d a n s) : exec (.qtry d a n) s = execQtry d a n s := rfl
theorem exec_qtryp (d a n s) : exec (.qtryp d a n) s = execQtryp d a n s := rfl
theorem exec_qbind (a n s) : exec (.qbind a n) s = execQbind a n s := rfl
theorem exec_qstat (d n s) : exec (.qstat d n) s = execQstat d n s := rfl
theorem exec_sopen (d a p s) : exec (.sopen d a p) s = execSopen d a p s := rfl
theorem exec_sclose (p s) : exec (.sclose p) s = execSclose p s := rfl
theorem exec_sstat (d p s) : exec (.sstat d p) s = execSstat d p s := rfl
theorem exec_send (d a s) : exec (.send d a) s = execSend d a s := rfl
theorem exec_send4 (d a s) : exec (.send4 d a) s = execSend4 d a s := rfl
theorem exec_send1 (d a s) : exec (.send1 d a) s = execSend1 d a s := rfl
theorem exec_reply (d a s) : exec (.reply d a) s = execReply d a s := rfl
theorem exec_mbxdef (a b s) : exec (.mbxdef a b) s = execMbxdef a b s := rfl
theorem exec_bind (a b c s) : exec (.bind a b c) s = execBind a b c s := rfl
theorem exec_unbind (b c s) : exec (.unbind b c) s = execUnbind b c s := rfl
theorem exec_suspend (a s) : exec (.suspend a) s = execSuspend a s := rfl
theorem exec_resumec (d a m s) : exec (.resumec d a m) s = execResumec d a m s := rfl
theorem exec_recv (d b s) : exec (.recv d b) s = execRecv d b s := rfl
theorem exec_xfer (d a s) : exec (.xfer d a) s = execXfer d a s := rfl
theorem exec_xmcast (d a s) : exec (.xmcast d a) s = execXmcast d a s := rfl
theorem exec_xfree (a s) : exec (.xfree a) s = execXfree a s := rfl
theorem exec_xwait (d a s) : exec (.xwait d a) s = execXwait d a s := rfl
theorem exec_xstat (d a s) : exec (.xstat d a) s = execXstat d a s := rfl
theorem exec_rfork (a s) : exec (.rfork a) s = execRfork a s := rfl
theorem exec_join (a s) : exec (.join a) s = execJoin a s := rfl
theorem exec_klaunch (d a s) : exec (.klaunch d a) s = execKlaunch d a s := rfl
theorem exec_kstat (d a s) : exec (.kstat d a) s = execKstat d a s := rfl
theorem exec_dlget (d a s) : exec (.dlget d a) s = execDlget d a s := rfl
theorem exec_wrapdone (a s) : exec (.wrapdone a) s = execWrapdone a s := rfl
theorem exec_budget (d a s) : exec (.budget d a) s = execBudget d a s := rfl
theorem exec_barinit (d a l n s) : exec (.barinit d a l n) s = execBarinit d a l n s := rfl
theorem exec_bararr (d a l n s) : exec (.bararr d a l n) s = execBararr d a l n s := rfl
theorem exec_barwait (d a l n s) : exec (.barwait d a l n) s = execBarwait d a l n s := rfl
theorem exec_bararw (d a l n s) : exec (.bararw d a l n) s = execBararw d a l n s := rfl
theorem exec_bartest (d a l n s) : exec (.bartest d a l n) s = execBartest d a l n s := rfl
theorem exec_shget (d a n s) : exec (.shget d a n) s = execShget d a n s := rfl
theorem exec_shslice (d n s) : exec (.shslice d n) s = execShslice d n s := rfl
theorem exec_shrec (d n s) : exec (.shrec d n) s = execShrec d n s := rfl
theorem exec_creg (d a s) : exec (.creg d a) s = execCreg d a s := rfl
theorem exec_cpost (d a s) : exec (.cpost d a) s = execCpost d a s := rfl
theorem exec_cstat (d a s) : exec (.cstat d a) s = execCstat d a s := rfl
theorem exec_cdereg (a s) : exec (.cdereg a) s = execCdereg a s := rfl
theorem exec_csrr (d c s) : exec (.csrr d c) s = execCsrr d c s := rfl
theorem exec_csrw (a c s) : exec (.csrw a c) s = execCsrw a c s := rfl
theorem exec_csrs (a c s) : exec (.csrs a c) s = execCsrs a c s := rfl
theorem exec_csrc (a c s) : exec (.csrc a c) s = execCsrc a c s := rfl
theorem exec_trap (c s) : exec (.trap c) s = execTrap c s := rfl
theorem exec_wfe (a s) : exec (.wfe a) s = execWfe a s := rfl
theorem exec_brk (c s) : exec (.brk c) s = execBrk c s := rfl
theorem exec_ctxsave (d a s) : exec (.ctxsave d a) s = execCtxsave d a s := rfl
theorem exec_ctxload (d a s) : exec (.ctxload d a) s = execCtxload d a s := rfl
theorem exec_ldWCompact (d z k s) : exec (.ldWCompact d z k) s = execLdWCompact d z k s := rfl
theorem exec_ldDCompact (d z k s) : exec (.ldDCompact d z k) s = execLdDCompact d z k s := rfl
theorem exec_stWCompact (t z k s) : exec (.stWCompact t z k) s = execStWCompact t z k s := rfl
theorem exec_stDCompact (t z k s) : exec (.stDCompact t z k) s = execStDCompact t z k s := rfl
theorem exec_qpopCompact (d n s) : exec (.qpopCompact d n) s = execQpopCompact d n s := rfl
theorem exec_qpushCompact (n z s) : exec (.qpushCompact n z) s = execQpushCompact n z s := rfl
theorem exec_mov (d z s) : exec (.mov d z) s = execMov d z s := rfl
theorem exec_li (d n s) : exec (.li d n) s = execLi d n s := rfl
theorem exec_addCompact (d z s) : exec (.addCompact d z) s = execAddCompact d z s := rfl
theorem exec_subCompact (d z s) : exec (.subCompact d z) s = execSubCompact d z s := rfl
theorem exec_addiCompact (d n s) : exec (.addiCompact d n) s = execAddiCompact d n s := rfl
theorem exec_andCompact (d z s) : exec (.andCompact d z) s = execAndCompact d z s := rfl
theorem exec_orCompact (d z s) : exec (.orCompact d z) s = execOrCompact d z s := rfl
theorem exec_xorCompact (d z s) : exec (.xorCompact d z) s = execXorCompact d z s := rfl
theorem exec_slliCompact (d h s) : exec (.slliCompact d h) s = execSlliCompact d h s := rfl
theorem exec_srliCompact (d h s) : exec (.srliCompact d h) s = execSrliCompact d h s := rfl
theorem exec_sraiCompact (d h s) : exec (.sraiCompact d h) s = execSraiCompact d h s := rfl
theorem exec_beqz (z o s) : exec (.beqz z o) s = execBeqz z o s := rfl
theorem exec_bnez (z o s) : exec (.bnez z o) s = execBnez z o s := rfl
theorem exec_jCompact (o s) : exec (.jCompact o) s = execJCompact o s := rfl
theorem exec_ungang (s) : exec .ungang s = execUngang s := rfl
theorem exec_done (s) : exec .done s = execDone s := rfl
theorem exec_xret (s) : exec .xret s = execXret s := rfl
theorem exec_shfence (s) : exec .shfence s = execShfence s := rfl
theorem exec_nop (s) : exec .nop s = execNop s := rfl
theorem exec_utret (s) : exec .utret s = execUtret s := rfl
theorem exec_seqsync (s) : exec .seqsync s = execSeqsync s := rfl
theorem exec_tret (s) : exec .tret s = execTret s := rfl
theorem exec_halt (s) : exec .halt s = execHalt s := rfl
theorem exec_tlbinv (s) : exec .tlbinv s = execTlbinv s := rfl
theorem exec_bkclr (s) : exec .bkclr s = execBkclr s := rfl
theorem exec_ownset (s) : exec .ownset s = execOwnset s := rfl
theorem exec_mspill (s) : exec .mspill s = execMspill s := rfl
theorem exec_mfill (s) : exec .mfill s = execMfill s := rfl
theorem exec_rothold (s) : exec .rothold s = execRothold s := rfl
theorem exec_nopCompact (s) : exec .nopCompact s = execNopCompact s := rfl
theorem exec_ret (s) : exec .ret s = execRet s := rfl
theorem exec_doneCompact (s) : exec .doneCompact s = execDoneCompact s := rfl
theorem exec_brkCompact (s) : exec .brkCompact s = execBrkCompact s := rfl
theorem exec_mma (core ten s) : exec (.mma core ten) s = execMma core ten s := rfl
theorem exec_mmas (core ten s) : exec (.mmas core ten) s = execMmas core ten s := rfl
theorem exec_mzero (core ten s) : exec (.mzero core ten) s = execMzero core ten s := rfl
theorem exec_mldacc (core ten s) : exec (.mldacc core ten) s = execMldacc core ten s := rfl
theorem exec_mstacc (core ten s) : exec (.mstacc core ten) s = execMstacc core ten s := rfl
theorem exec_mperm (core ten s) : exec (.mperm core ten) s = execMperm core ten s := rfl
theorem exec_retire (core ten s) : exec (.retire core ten) s = execRetire core ten s := rfl
theorem exec_completionPost (core owner ten s) : exec (.completionPost core owner ten) s = execCompletionPost core owner ten s := rfl
theorem exec_matrixStep (stack pair col tc s) : exec (.matrixStep stack pair col tc) s = execMatrixStep stack pair col tc s := rfl
theorem exec_performHeadEntry (core s) : exec (.performHeadEntry core) s = execPerformHeadEntry core s := rfl
theorem exec_writeBack (core n s) : exec (.writeBack core n) s = execWriteBack core n s := rfl
theorem exec_dropCleanCopy (stack addr s) : exec (.dropCleanCopy stack addr) s = execDropCleanCopy stack addr s := rfl
theorem exec_performPostedStore (core n s) : exec (.performPostedStore core n) s = execPerformPostedStore core n s := rfl
theorem exec_memoryReply (core slot s) : exec (.memoryReply core slot) s = execMemoryReply core slot s := rfl
theorem exec_hostCompletion (n s) : exec (.hostCompletion n) s = execHostCompletion n s := rfl
theorem exec_packetDrop (k core n srcOk s) : exec (.packetDrop k core n srcOk) s = execPacketDrop k core n srcOk s := rfl
theorem exec_classStarvation (out cls s) : exec (.classStarvation out cls) s = execClassStarvation out cls s := rfl
theorem exec_issueStarvation (core slot s) : exec (.issueStarvation core slot) s = execIssueStarvation core slot s := rfl
theorem exec_messageArrival (n s) : exec (.messageArrival n) s = execMessageArrival n s := rfl
theorem exec_messageStatus (core slot s) : exec (.messageStatus core slot) s = execMessageStatus core slot s := rfl
theorem exec_pondMove (core owner s) : exec (.pondMove core owner) s = execPondMove core owner s := rfl
theorem exec_dispatch (core s) : exec (.dispatch core) s = execDispatch core s := rfl
theorem exec_mbxovf (s) : exec .mbxovf s = execMbxovf s := rfl
theorem exec_headFlit (core port s) : exec (.headFlit core port) s = execHeadFlit core port s := rfl
theorem exec_streamWord (core port s) : exec (.streamWord core port) s = execStreamWord core port s := rfl
theorem exec_marker (core port s) : exec (.marker core port) s = execMarker core port s := rfl
theorem exec_attach (owner qcb shadow32 shadow40 s) : exec (.attach owner qcb shadow32 shadow40) s = execAttach owner qcb shadow32 shadow40 s := rfl
theorem exec_doorbell (owner ring s) : exec (.doorbell owner ring) s = execDoorbell owner ring s := rfl
theorem exec_ringPoll (owner ring s) : exec (.ringPoll owner ring) s = execRingPoll owner ring s := rfl
theorem exec_placementPass (owner s) : exec (.placementPass owner) s = execPlacementPass owner s := rfl
theorem exec_successorList (owner kid s) : exec (.successorList owner kid) s = execSuccessorList owner kid s := rfl
theorem exec_deadlineExpiry (owner kid s) : exec (.deadlineExpiry owner kid) s = execDeadlineExpiry owner kid s := rfl
theorem exec_diversion (s) : exec .diversion s = execDiversion s := rfl
theorem exec_wrapupBudgetExpiry (owner kid s) : exec (.wrapupBudgetExpiry owner kid) s = execWrapupBudgetExpiry owner kid s := rfl
theorem exec_budgetExpiry (s) : exec .budgetExpiry s = execBudgetExpiry s := rfl
theorem exec_lateFault (s) : exec .lateFault s = execLateFault s := rfl
theorem exec_wfeTimeout (core slot s) : exec (.wfeTimeout core slot) s = execWfeTimeout core slot s := rfl
theorem exec_hangWatchdog (core s) : exec (.hangWatchdog core) s = execHangWatchdog core s := rfl
theorem exec_transferRequest (n s) : exec (.transferRequest n) s = execTransferRequest n s := rfl
theorem exec_xovfIntake (streamer s) : exec (.xovfIntake streamer) s = execXovfIntake streamer s := rfl
theorem exec_transferStart (n s) : exec (.transferStart n) s = execTransferStart n s := rfl
theorem exec_transferCompletion (n s) : exec (.transferCompletion n) s = execTransferCompletion n s := rfl
theorem exec_transferInterrupt (s) : exec .transferInterrupt s = execTransferInterrupt s := rfl
theorem exec_freeIncrement (owner n tile s) : exec (.freeIncrement owner n tile) s = execFreeIncrement owner n tile s := rfl
theorem exec_faultRetry (stack n s) : exec (.faultRetry stack n) s = execFaultRetry stack n s := rfl
theorem exec_duePoint (stack s) : exec (.duePoint stack) s = execDuePoint stack s := rfl
theorem exec_deferralEnd (stack s) : exec (.deferralEnd stack) s = execDeferralEnd stack s := rfl
theorem exec_rotationPause (stack resends s) : exec (.rotationPause stack resends) s = execRotationPause stack resends s := rfl
theorem exec_holdExpiry (stack n s) : exec (.holdExpiry stack n) s = execHoldExpiry stack n s := rfl
theorem exec_swapRequest (stack pos owner s) : exec (.swapRequest stack pos owner) s = execSwapRequest stack pos owner s := rfl
theorem exec_ownerSwap (stack pos s) : exec (.ownerSwap stack pos) s = execOwnerSwap stack pos s := rfl
theorem exec_portTraining (port s) : exec (.portTraining port) s = execPortTraining port s := rfl
theorem exec_trainingEnd (port lanes s) : exec (.trainingEnd port lanes) s = execTrainingEnd port lanes s := rfl
theorem exec_laneFailure (port s) : exec (.laneFailure port) s = execLaneFailure port s := rfl
theorem exec_portStop (port s) : exec (.portStop port) s = execPortStop port s := rfl
theorem exec_collectiveStart (owner handle remote s) : exec (.collectiveStart owner handle remote) s = execCollectiveStart owner handle remote s := rfl
theorem exec_collectiveEnd (owner handle lost s) : exec (.collectiveEnd owner handle lost) s = execCollectiveEnd owner handle lost s := rfl
theorem exec_hostRead (slot off len s) : exec (.hostRead slot off len) s = execHostRead slot off len s := rfl
theorem exec_hostWrite (slot off bytes s) : exec (.hostWrite slot off bytes) s = execHostWrite slot off bytes s := rfl
theorem exec_hostAtomic (op slot off size x y s) : exec (.hostAtomic op slot off size x y) s = execHostAtomic op slot off size x y s := rfl
theorem exec_coldStart (st s) : exec (.coldStart st) s = execColdStart st s := rfl
theorem exec_warmStart (st s) : exec (.warmStart st) s = execWarmStart st s := rfl
theorem exec_startTimeout (s) : exec .startTimeout s = execStartTimeout s := rfl
theorem exec_configurationRecord (a b c s) : exec (.configurationRecord a b c) s = execConfigurationRecord a b c s := rfl
theorem exec_attestationRequest (nonce s) : exec (.attestationRequest nonce) s = execAttestationRequest nonce s := rfl
theorem exec_debugToken (token s) : exec (.debugToken token) s = execDebugToken token s := rfl
theorem exec_debugLevelSet (level s) : exec (.debugLevelSet level) s = execDebugLevelSet level s := rfl
theorem exec_debuggerAccess (core slot reg write s) : exec (.debuggerAccess core slot reg write) s = execDebuggerAccess core slot reg write s := rfl
theorem exec_debuggerResume (core slot s) : exec (.debuggerResume core slot) s = execDebuggerResume core slot s := rfl
theorem exec_idleEntry (stack s) : exec (.idleEntry stack) s = execIdleEntry stack s := rfl
theorem exec_idleExit (stack s) : exec (.idleExit stack) s = execIdleExit stack s := rfl
theorem exec_retentionEntry (s) : exec .retentionEntry s = execRetentionEntry s := rfl
theorem exec_retentionExit (s) : exec .retentionExit s = execRetentionExit s := rfl
theorem exec_powerOff (s) : exec .powerOff s = execPowerOff s := rfl
theorem exec_errorContainment (owner kind loc s) : exec (.errorContainment owner kind loc) s = execErrorContainment owner kind loc s := rfl
theorem exec_scrub (addr read corrected s) : exec (.scrub addr read corrected) s = execScrub addr read corrected s := rfl
theorem exec_zeroFill (core sub s) : exec (.zeroFill core sub) s = execZeroFill core sub s := rfl
theorem exec_powerMeasurement (draw hot s) : exec (.powerMeasurement draw hot) s = execPowerMeasurement draw hot s := rfl
theorem exec_capFrame (etherType frame s) : exec (.capFrame etherType frame) s = execCapFrame etherType frame s := rfl
theorem exec_ptpMessage (m s) : exec (.ptpMessage m) s = execPtpMessage m s := rfl
theorem exec_managementWrite (reg s) : exec (.managementWrite reg) s = execManagementWrite reg s := rfl
theorem exec_unassignedEncoding (w s) : exec (.unassignedEncoding w) s = execUnassignedEncoding w s := rfl
theorem exec_fetchFault (s) : exec .fetchFault s = execFetchFault s := rfl
theorem exec_vectorCompletion (core slot s) : exec (.vectorCompletion core slot) s = execVectorCompletion core slot s := rfl
theorem exec_holdover (s) : exec .holdover s = execHoldover s := rfl
theorem exec_ownerCreation (spec s) : exec (.ownerCreation spec) s = execOwnerCreation spec s := rfl
theorem exec_ownerWithdrawal (owner pos s) : exec (.ownerWithdrawal owner pos) s = execOwnerWithdrawal owner pos s := rfl
theorem exec_participantRegistration (p s) : exec (.participantRegistration p) s = execParticipantRegistration p s := rfl
theorem exec_participantDeregistration (dom name index s) : exec (.participantDeregistration dom name index) s = execParticipantDeregistration dom name index s := rfl

end Sys2Proof.Machine
end

