-- ==== Sys2Proof/Laws/Tab.lean ====
section
/-! SUPPORT. Sparse tables: an entry read after it is written, and the entries a write leaves alone. -/

namespace Sys2Proof.Tab

variable {α : Type}

@[simp] theorem get_set_self (d x : α) (t : Tab α) (k : Nat) : get d (set x t k) k = x := by
  induction t with
  | nil => simp [set, get]
  | cons p t ih =>
    obtain ⟨j, y⟩ := p
    simp only [set]
    split
    · simp [get]
    · split
      · simp [get]
      · simp [get, *]

theorem get_set_ne (d x : α) (t : Tab α) {k n : Nat} (h : n ≠ k) : get d (set x t k) n = get d t n := by
  induction t with
  | nil => simp [set, get, Ne.symm h]
  | cons p t ih =>
    obtain ⟨j, y⟩ := p
    simp only [set]
    split
    · simp only [get]; split <;> simp_all
    · split
      · simp [get, Ne.symm h]
      · simp only [get, ih]

@[simp] theorem find_set_self (x : α) (t : Tab α) (k : Nat) : find (set x t k) k = some x := by
  induction t with
  | nil => simp [set, find]
  | cons p t ih =>
    obtain ⟨j, y⟩ := p
    simp only [set]
    split
    · simp [find]
    · split
      · simp [find]
      · simp [find, *]

theorem find_set_ne (x : α) (t : Tab α) {k n : Nat} (h : n ≠ k) : find (set x t k) n = find t n := by
  induction t with
  | nil => simp [set, find, Ne.symm h]
  | cons p t ih =>
    obtain ⟨j, y⟩ := p
    simp only [set]
    split
    · simp only [find]; split <;> simp_all
    · split
      · simp [find, Ne.symm h]
      · simp only [find, ih]

/-- A table written twice at one number holds the later entry alone. -/
@[simp] theorem set_set (x y : α) (t : Tab α) (k : Nat) : set x (set y t k) k = set x t k := by
  induction t with
  | nil => simp [set]
  | cons p t ih =>
    obtain ⟨j, z⟩ := p
    simp only [set]
    split
    · simp [set]
    · split
      · simp [set]
      · simp [set, *]

theorem find_del_self (t : Tab α) (k : Nat) : find (del t k) k = none := by
  induction t with
  | nil => rfl
  | cons p t ih =>
    obtain ⟨j, y⟩ := p
    simp only [del]
    split
    · exact ih
    · simp [find, *]

theorem get_del_self (d : α) (t : Tab α) (k : Nat) : get d (del t k) k = d := by
  induction t with
  | nil => rfl
  | cons p t ih =>
    obtain ⟨j, y⟩ := p
    simp only [del]
    split
    · exact ih
    · simp [get, *]

/-- A table's entry read through `find`. -/
theorem get_eq_find (d : α) (t : Tab α) (k : Nat) : get d t k = (find t k).getD d := by
  induction t with
  | nil => rfl
  | cons p t ih =>
    obtain ⟨j, y⟩ := p
    simp only [get, find]
    split <;> simp [*]

end Sys2Proof.Tab
end

