-- ==== Sys2Proof/Laws/State.lean ====
section
/-! SUPPORT. Each part of the state read after each update: what the update wrote, and what it left alone. -/

namespace Sys2Proof.Machine

/-! ### A core changed -/

@[simp] theorem coreAt_updCore_self (s : State) (c : Nat) (f : Core → Core) : coreAt (updCore s c f) c = f (coreAt s c) := by
  simp [coreAt, updCore]

theorem coreAt_updCore_ne (s : State) (f : Core → Core) {c n : Nat} (h : n ≠ c) :
    coreAt (updCore s c f) n = coreAt s n := by
  simp only [coreAt, updCore, Tab.get_set_ne _ _ _ h]

@[simp] theorem updCore_mem (s : State) (c : Nat) (f : Core → Core) : (updCore s c f).mem = s.mem := rfl
@[simp] theorem updCore_owners (s : State) (c : Nat) (f : Core → Core) : (updCore s c f).owners = s.owners := rfl
@[simp] theorem updCore_compStacks (s : State) (c : Nat) (f : Core → Core) : (updCore s c f).compStacks = s.compStacks := rfl
@[simp] theorem updCore_xfers (s : State) (c : Nat) (f : Core → Core) : (updCore s c f).xfers = s.xfers := rfl
@[simp] theorem updCore_hostWrites (s : State) (c : Nat) (f : Core → Core) : (updCore s c f).hostWrites = s.hostWrites := rfl
@[simp] theorem updCore_flights (s : State) (c : Nat) (f : Core → Core) : (updCore s c f).flights = s.flights := rfl
@[simp] theorem updCore_xflights (s : State) (c : Nat) (f : Core → Core) : (updCore s c f).xflights = s.xflights := rfl
@[simp] theorem updCore_parked (s : State) (c : Nat) (f : Core → Core) : (updCore s c f).parked = s.parked := rfl
@[simp] theorem updCore_sites (s : State) (c : Nat) (f : Core → Core) : (updCore s c f).sites = s.sites := rfl
@[simp] theorem updCore_rowErrs (s : State) (c : Nat) (f : Core → Core) : (updCore s c f).rowErrs = s.rowErrs := rfl
@[simp] theorem updCore_repairs (s : State) (c : Nat) (f : Core → Core) : (updCore s c f).repairs = s.repairs := rfl
@[simp] theorem updCore_xovfLast (s : State) (c : Nat) (f : Core → Core) : (updCore s c f).xovfLast = s.xovfLast := rfl
@[simp] theorem updCore_denied (s : State) (c : Nat) (f : Core → Core) : (updCore s c f).denied = s.denied := rfl
@[simp] theorem updCore_stepped (s : State) (c : Nat) (f : Core → Core) : (updCore s c f).stepped = s.stepped := rfl
@[simp] theorem updCore_outs (s : State) (c : Nat) (f : Core → Core) : (updCore s c f).outs = s.outs := rfl
@[simp] theorem updCore_remotes (s : State) (c : Nat) (f : Core → Core) : (updCore s c f).remotes = s.remotes := rfl
@[simp] theorem updCore_swaps (s : State) (c : Nat) (f : Core → Core) : (updCore s c f).swaps = s.swaps := rfl
@[simp] theorem updCore_sys (s : State) (c : Nat) (f : Core → Core) : (updCore s c f).sys = s.sys := rfl
@[simp] theorem updCore_cycle (s : State) (c : Nat) (f : Core → Core) : (updCore s c f).cycle = s.cycle := rfl
@[simp] theorem updCore_timeU (s : State) (c : Nat) (f : Core → Core) : (updCore s c f).timeU = s.timeU := rfl
@[simp] theorem updCore_slew (s : State) (c : Nat) (f : Core → Core) : (updCore s c f).slew = s.slew := rfl
@[simp] theorem updCore_core (s : State) (c : Nat) (f : Core → Core) : (updCore s c f).core = s.core := rfl
@[simp] theorem updCore_slot (s : State) (c : Nat) (f : Core → Core) : (updCore s c f).slot = s.slot := rfl
@[simp] theorem updCore_splitIssue (s : State) (c : Nat) (f : Core → Core) : (updCore s c f).splitIssue = s.splitIssue := rfl
@[simp] theorem updCore_hostError (s : State) (c : Nat) (f : Core → Core) : (updCore s c f).hostError = s.hostError := rfl
@[simp] theorem updCore_nextUid (s : State) (c : Nat) (f : Core → Core) : (updCore s c f).nextUid = s.nextUid := rfl
@[simp] theorem updCore_tlbGen (s : State) (c : Nat) (f : Core → Core) : (updCore s c f).tlbGen = s.tlbGen := rfl
@[simp] theorem updCore_traps (s : State) (c : Nat) (f : Core → Core) : (updCore s c f).traps = s.traps := rfl
@[simp] theorem updCore_draws (s : State) (c : Nat) (f : Core → Core) : (updCore s c f).draws = s.draws := rfl
@[simp] theorem updCore_sched (s : State) (c : Nat) (f : Core → Core) : (updCore s c f).sched = s.sched := rfl

/-- Two changes of one core are one change. -/
@[simp] theorem updCore_updCore (s : State) (c : Nat) (f g : Core → Core) :
    updCore (updCore s c f) c g = updCore s c fun k => g (f k) := by
  simp [updCore, coreAt]

/-! ### A thread slot changed -/

@[simp] theorem thrAt_updThrAt_self (s : State) (c sl : Nat) (f : Thread → Thread) :
    thrAt (updThrAt s c sl f) c sl = f (thrAt s c sl) := by
  simp [thrAt, updThrAt]

theorem thrAt_updThrAt_slot (s : State) (f : Thread → Thread) (c : Nat) {sl n : Nat} (h : n ≠ sl) :
    thrAt (updThrAt s c sl f) c n = thrAt s c n := by
  simp [thrAt, updThrAt, Tab.get_set_ne _ _ _ h]

theorem thrAt_updThrAt_core (s : State) (f : Thread → Thread) {c n : Nat} (sl m : Nat) (h : n ≠ c) :
    thrAt (updThrAt s c sl f) n m = thrAt s n m := by
  simp only [thrAt, updThrAt, coreAt_updCore_ne _ _ h]

@[simp] theorem thr_updThr (s : State) (f : Thread → Thread) : thr (updThr s f) = f (thr s) :=
  thrAt_updThrAt_self ..

@[simp] theorem updThr_mem (s : State) (f : Thread → Thread) : (updThr s f).mem = s.mem := rfl
@[simp] theorem updThr_owners (s : State) (f : Thread → Thread) : (updThr s f).owners = s.owners := rfl
@[simp] theorem updThr_compStacks (s : State) (f : Thread → Thread) : (updThr s f).compStacks = s.compStacks := rfl
@[simp] theorem updThr_xfers (s : State) (f : Thread → Thread) : (updThr s f).xfers = s.xfers := rfl
@[simp] theorem updThr_hostWrites (s : State) (f : Thread → Thread) : (updThr s f).hostWrites = s.hostWrites := rfl
@[simp] theorem updThr_flights (s : State) (f : Thread → Thread) : (updThr s f).flights = s.flights := rfl
@[simp] theorem updThr_xflights (s : State) (f : Thread → Thread) : (updThr s f).xflights = s.xflights := rfl
@[simp] theorem updThr_parked (s : State) (f : Thread → Thread) : (updThr s f).parked = s.parked := rfl
@[simp] theorem updThr_sites (s : State) (f : Thread → Thread) : (updThr s f).sites = s.sites := rfl
@[simp] theorem updThr_rowErrs (s : State) (f : Thread → Thread) : (updThr s f).rowErrs = s.rowErrs := rfl
@[simp] theorem updThr_repairs (s : State) (f : Thread → Thread) : (updThr s f).repairs = s.repairs := rfl
@[simp] theorem updThr_xovfLast (s : State) (f : Thread → Thread) : (updThr s f).xovfLast = s.xovfLast := rfl
@[simp] theorem updThr_denied (s : State) (f : Thread → Thread) : (updThr s f).denied = s.denied := rfl
@[simp] theorem updThr_stepped (s : State) (f : Thread → Thread) : (updThr s f).stepped = s.stepped := rfl
@[simp] theorem updThr_outs (s : State) (f : Thread → Thread) : (updThr s f).outs = s.outs := rfl
@[simp] theorem updThr_remotes (s : State) (f : Thread → Thread) : (updThr s f).remotes = s.remotes := rfl
@[simp] theorem updThr_swaps (s : State) (f : Thread → Thread) : (updThr s f).swaps = s.swaps := rfl
@[simp] theorem updThr_sys (s : State) (f : Thread → Thread) : (updThr s f).sys = s.sys := rfl
@[simp] theorem updThr_cycle (s : State) (f : Thread → Thread) : (updThr s f).cycle = s.cycle := rfl
@[simp] theorem updThr_timeU (s : State) (f : Thread → Thread) : (updThr s f).timeU = s.timeU := rfl
@[simp] theorem updThr_slew (s : State) (f : Thread → Thread) : (updThr s f).slew = s.slew := rfl
@[simp] theorem updThr_core (s : State) (f : Thread → Thread) : (updThr s f).core = s.core := rfl
@[simp] theorem updThr_slot (s : State) (f : Thread → Thread) : (updThr s f).slot = s.slot := rfl
@[simp] theorem updThr_splitIssue (s : State) (f : Thread → Thread) : (updThr s f).splitIssue = s.splitIssue := rfl
@[simp] theorem updThr_hostError (s : State) (f : Thread → Thread) : (updThr s f).hostError = s.hostError := rfl
@[simp] theorem updThr_nextUid (s : State) (f : Thread → Thread) : (updThr s f).nextUid = s.nextUid := rfl
@[simp] theorem updThr_tlbGen (s : State) (f : Thread → Thread) : (updThr s f).tlbGen = s.tlbGen := rfl
@[simp] theorem updThr_traps (s : State) (f : Thread → Thread) : (updThr s f).traps = s.traps := rfl
@[simp] theorem updThr_draws (s : State) (f : Thread → Thread) : (updThr s f).draws = s.draws := rfl
@[simp] theorem updThr_sched (s : State) (f : Thread → Thread) : (updThr s f).sched = s.sched := rfl

/-- Two changes of the current thread are one change. -/
@[simp] theorem updThr_updThr (s : State) (f g : Thread → Thread) : updThr (updThr s f) g = updThr s fun t => g (f t) := by
  simp only [updThr, updThrAt, updCore_core, updCore_slot, updCore_updCore, Tab.get_set_self, Tab.set_set]

/-- A core's parts besides its threads stay when a thread changes. -/
@[simp] theorem coreAt_updThr_ctxs (s : State) (f : Thread → Thread) (c : Nat) :
    (coreAt (updThr s f) c).ctxs = (coreAt s c).ctxs := by
  by_cases h : c = s.core
  · subst h; simp [updThr, updThrAt]
  · simp only [updThr, updThrAt, coreAt_updCore_ne _ _ h]

@[simp] theorem coreAt_updThr_sb (s : State) (f : Thread → Thread) (c : Nat) :
    (coreAt (updThr s f) c).sb = (coreAt s c).sb := by
  by_cases h : c = s.core
  · subst h; simp [updThr, updThrAt]
  · simp only [updThr, updThrAt, coreAt_updCore_ne _ _ h]

@[simp] theorem coreAt_updThr_acc (s : State) (f : Thread → Thread) (c : Nat) :
    (coreAt (updThr s f) c).acc = (coreAt s c).acc := by
  by_cases h : c = s.core
  · subst h; simp [updThr, updThrAt]
  · simp only [updThr, updThrAt, coreAt_updCore_ne _ _ h]

@[simp] theorem coreAt_updThr_subs (s : State) (f : Thread → Thread) (c : Nat) :
    (coreAt (updThr s f) c).subs = (coreAt s c).subs := by
  by_cases h : c = s.core
  · subst h; simp [updThr, updThrAt]
  · simp only [updThr, updThrAt, coreAt_updCore_ne _ _ h]

@[simp] theorem coreAt_updThr_tvec (s : State) (f : Thread → Thread) (c : Nat) :
    (coreAt (updThr s f) c).tvec = (coreAt s c).tvec := by
  by_cases h : c = s.core
  · subst h; simp [updThr, updThrAt]
  · simp only [updThr, updThrAt, coreAt_updCore_ne _ _ h]

@[simp] theorem ctxAt_updThr (s : State) (f : Thread → Thread) (c o : Nat) : ctxAt (updThr s f) c o = ctxAt s c o := by
  simp [ctxAt]

@[simp] theorem ownerAt_updThr (s : State) (f : Thread → Thread) (o : Nat) : ownerAt (updThr s f) o = ownerAt s o := rfl

@[simp] theorem stackAt_updThr (s : State) (f : Thread → Thread) (n : Nat) : stackAt (updThr s f) n = stackAt s n := rfl

/-! ### Contexts, owners and stacks changed -/

@[simp] theorem ctxAt_updCtxAt_self (s : State) (c o : Nat) (f : Ctx → Ctx) :
    ctxAt (updCtxAt s c o f) c o = f (ctxAt s c o) := by
  simp [ctxAt, updCtxAt]

@[simp] theorem thrAt_updCtxAt (s : State) (c o : Nat) (f : Ctx → Ctx) (n m : Nat) :
    thrAt (updCtxAt s c o f) n m = thrAt s n m := by
  by_cases h : n = c
  · subst h; simp [thrAt, updCtxAt]
  · simp only [thrAt, updCtxAt, coreAt_updCore_ne _ _ h]

@[simp] theorem updCtxAt_mem (s : State) (c o : Nat) (f : Ctx → Ctx) : (updCtxAt s c o f).mem = s.mem := rfl
@[simp] theorem updCtxAt_owners (s : State) (c o : Nat) (f : Ctx → Ctx) : (updCtxAt s c o f).owners = s.owners := rfl
@[simp] theorem updCtxAt_compStacks (s : State) (c o : Nat) (f : Ctx → Ctx) : (updCtxAt s c o f).compStacks = s.compStacks := rfl
@[simp] theorem updCtxAt_xfers (s : State) (c o : Nat) (f : Ctx → Ctx) : (updCtxAt s c o f).xfers = s.xfers := rfl
@[simp] theorem updCtxAt_hostWrites (s : State) (c o : Nat) (f : Ctx → Ctx) : (updCtxAt s c o f).hostWrites = s.hostWrites := rfl
@[simp] theorem updCtxAt_flights (s : State) (c o : Nat) (f : Ctx → Ctx) : (updCtxAt s c o f).flights = s.flights := rfl
@[simp] theorem updCtxAt_xflights (s : State) (c o : Nat) (f : Ctx → Ctx) : (updCtxAt s c o f).xflights = s.xflights := rfl
@[simp] theorem updCtxAt_parked (s : State) (c o : Nat) (f : Ctx → Ctx) : (updCtxAt s c o f).parked = s.parked := rfl
@[simp] theorem updCtxAt_sites (s : State) (c o : Nat) (f : Ctx → Ctx) : (updCtxAt s c o f).sites = s.sites := rfl
@[simp] theorem updCtxAt_rowErrs (s : State) (c o : Nat) (f : Ctx → Ctx) : (updCtxAt s c o f).rowErrs = s.rowErrs := rfl
@[simp] theorem updCtxAt_repairs (s : State) (c o : Nat) (f : Ctx → Ctx) : (updCtxAt s c o f).repairs = s.repairs := rfl
@[simp] theorem updCtxAt_xovfLast (s : State) (c o : Nat) (f : Ctx → Ctx) : (updCtxAt s c o f).xovfLast = s.xovfLast := rfl
@[simp] theorem updCtxAt_denied (s : State) (c o : Nat) (f : Ctx → Ctx) : (updCtxAt s c o f).denied = s.denied := rfl
@[simp] theorem updCtxAt_stepped (s : State) (c o : Nat) (f : Ctx → Ctx) : (updCtxAt s c o f).stepped = s.stepped := rfl
@[simp] theorem updCtxAt_outs (s : State) (c o : Nat) (f : Ctx → Ctx) : (updCtxAt s c o f).outs = s.outs := rfl
@[simp] theorem updCtxAt_remotes (s : State) (c o : Nat) (f : Ctx → Ctx) : (updCtxAt s c o f).remotes = s.remotes := rfl
@[simp] theorem updCtxAt_swaps (s : State) (c o : Nat) (f : Ctx → Ctx) : (updCtxAt s c o f).swaps = s.swaps := rfl
@[simp] theorem updCtxAt_sys (s : State) (c o : Nat) (f : Ctx → Ctx) : (updCtxAt s c o f).sys = s.sys := rfl
@[simp] theorem updCtxAt_cycle (s : State) (c o : Nat) (f : Ctx → Ctx) : (updCtxAt s c o f).cycle = s.cycle := rfl
@[simp] theorem updCtxAt_timeU (s : State) (c o : Nat) (f : Ctx → Ctx) : (updCtxAt s c o f).timeU = s.timeU := rfl
@[simp] theorem updCtxAt_slew (s : State) (c o : Nat) (f : Ctx → Ctx) : (updCtxAt s c o f).slew = s.slew := rfl
@[simp] theorem updCtxAt_core (s : State) (c o : Nat) (f : Ctx → Ctx) : (updCtxAt s c o f).core = s.core := rfl
@[simp] theorem updCtxAt_slot (s : State) (c o : Nat) (f : Ctx → Ctx) : (updCtxAt s c o f).slot = s.slot := rfl
@[simp] theorem updCtxAt_splitIssue (s : State) (c o : Nat) (f : Ctx → Ctx) : (updCtxAt s c o f).splitIssue = s.splitIssue := rfl
@[simp] theorem updCtxAt_hostError (s : State) (c o : Nat) (f : Ctx → Ctx) : (updCtxAt s c o f).hostError = s.hostError := rfl
@[simp] theorem updCtxAt_nextUid (s : State) (c o : Nat) (f : Ctx → Ctx) : (updCtxAt s c o f).nextUid = s.nextUid := rfl
@[simp] theorem updCtxAt_tlbGen (s : State) (c o : Nat) (f : Ctx → Ctx) : (updCtxAt s c o f).tlbGen = s.tlbGen := rfl
@[simp] theorem updCtxAt_traps (s : State) (c o : Nat) (f : Ctx → Ctx) : (updCtxAt s c o f).traps = s.traps := rfl
@[simp] theorem updCtxAt_draws (s : State) (c o : Nat) (f : Ctx → Ctx) : (updCtxAt s c o f).draws = s.draws := rfl
@[simp] theorem updCtxAt_sched (s : State) (c o : Nat) (f : Ctx → Ctx) : (updCtxAt s c o f).sched = s.sched := rfl

@[simp] theorem thr_updCtx (s : State) (f : Ctx → Ctx) : thr (updCtx s f) = thr s := by
  simp [thr, updCtx]

@[simp] theorem ctx_updCtx (s : State) (f : Ctx → Ctx) : ctx (updCtx s f) = f (ctx s) := by
  have h : thr (updCtx s f) = thr s := thr_updCtx s f
  simp only [ctx, h]
  simp [updCtx]

@[simp] theorem ownerAt_updOwnerAt_self (s : State) (o : Nat) (f : Owner → Owner) :
    ownerAt (updOwnerAt s o f) o = f (ownerAt s o) := by
  simp [ownerAt, updOwnerAt]

theorem ownerAt_updOwnerAt_ne (s : State) (f : Owner → Owner) {o n : Nat} (h : n ≠ o) :
    ownerAt (updOwnerAt s o f) n = ownerAt s n := by
  simp only [ownerAt, updOwnerAt, Tab.get_set_ne _ _ _ h]

@[simp] theorem updOwnerAt_mem (s : State) (o : Nat) (f : Owner → Owner) : (updOwnerAt s o f).mem = s.mem := rfl
@[simp] theorem updOwnerAt_cores (s : State) (o : Nat) (f : Owner → Owner) : (updOwnerAt s o f).cores = s.cores := rfl
@[simp] theorem updOwnerAt_compStacks (s : State) (o : Nat) (f : Owner → Owner) : (updOwnerAt s o f).compStacks = s.compStacks := rfl
@[simp] theorem updOwnerAt_xfers (s : State) (o : Nat) (f : Owner → Owner) : (updOwnerAt s o f).xfers = s.xfers := rfl
@[simp] theorem updOwnerAt_hostWrites (s : State) (o : Nat) (f : Owner → Owner) : (updOwnerAt s o f).hostWrites = s.hostWrites := rfl
@[simp] theorem updOwnerAt_flights (s : State) (o : Nat) (f : Owner → Owner) : (updOwnerAt s o f).flights = s.flights := rfl
@[simp] theorem updOwnerAt_xflights (s : State) (o : Nat) (f : Owner → Owner) : (updOwnerAt s o f).xflights = s.xflights := rfl
@[simp] theorem updOwnerAt_parked (s : State) (o : Nat) (f : Owner → Owner) : (updOwnerAt s o f).parked = s.parked := rfl
@[simp] theorem updOwnerAt_sites (s : State) (o : Nat) (f : Owner → Owner) : (updOwnerAt s o f).sites = s.sites := rfl
@[simp] theorem updOwnerAt_rowErrs (s : State) (o : Nat) (f : Owner → Owner) : (updOwnerAt s o f).rowErrs = s.rowErrs := rfl
@[simp] theorem updOwnerAt_repairs (s : State) (o : Nat) (f : Owner → Owner) : (updOwnerAt s o f).repairs = s.repairs := rfl
@[simp] theorem updOwnerAt_xovfLast (s : State) (o : Nat) (f : Owner → Owner) : (updOwnerAt s o f).xovfLast = s.xovfLast := rfl
@[simp] theorem updOwnerAt_denied (s : State) (o : Nat) (f : Owner → Owner) : (updOwnerAt s o f).denied = s.denied := rfl
@[simp] theorem updOwnerAt_stepped (s : State) (o : Nat) (f : Owner → Owner) : (updOwnerAt s o f).stepped = s.stepped := rfl
@[simp] theorem updOwnerAt_outs (s : State) (o : Nat) (f : Owner → Owner) : (updOwnerAt s o f).outs = s.outs := rfl
@[simp] theorem updOwnerAt_remotes (s : State) (o : Nat) (f : Owner → Owner) : (updOwnerAt s o f).remotes = s.remotes := rfl
@[simp] theorem updOwnerAt_swaps (s : State) (o : Nat) (f : Owner → Owner) : (updOwnerAt s o f).swaps = s.swaps := rfl
@[simp] theorem updOwnerAt_sys (s : State) (o : Nat) (f : Owner → Owner) : (updOwnerAt s o f).sys = s.sys := rfl
@[simp] theorem updOwnerAt_cycle (s : State) (o : Nat) (f : Owner → Owner) : (updOwnerAt s o f).cycle = s.cycle := rfl
@[simp] theorem updOwnerAt_timeU (s : State) (o : Nat) (f : Owner → Owner) : (updOwnerAt s o f).timeU = s.timeU := rfl
@[simp] theorem updOwnerAt_slew (s : State) (o : Nat) (f : Owner → Owner) : (updOwnerAt s o f).slew = s.slew := rfl
@[simp] theorem updOwnerAt_core (s : State) (o : Nat) (f : Owner → Owner) : (updOwnerAt s o f).core = s.core := rfl
@[simp] theorem updOwnerAt_slot (s : State) (o : Nat) (f : Owner → Owner) : (updOwnerAt s o f).slot = s.slot := rfl
@[simp] theorem updOwnerAt_splitIssue (s : State) (o : Nat) (f : Owner → Owner) : (updOwnerAt s o f).splitIssue = s.splitIssue := rfl
@[simp] theorem updOwnerAt_hostError (s : State) (o : Nat) (f : Owner → Owner) : (updOwnerAt s o f).hostError = s.hostError := rfl
@[simp] theorem updOwnerAt_nextUid (s : State) (o : Nat) (f : Owner → Owner) : (updOwnerAt s o f).nextUid = s.nextUid := rfl
@[simp] theorem updOwnerAt_tlbGen (s : State) (o : Nat) (f : Owner → Owner) : (updOwnerAt s o f).tlbGen = s.tlbGen := rfl
@[simp] theorem updOwnerAt_traps (s : State) (o : Nat) (f : Owner → Owner) : (updOwnerAt s o f).traps = s.traps := rfl
@[simp] theorem updOwnerAt_draws (s : State) (o : Nat) (f : Owner → Owner) : (updOwnerAt s o f).draws = s.draws := rfl
@[simp] theorem updOwnerAt_sched (s : State) (o : Nat) (f : Owner → Owner) : (updOwnerAt s o f).sched = s.sched := rfl

@[simp] theorem coreAt_updOwnerAt (s : State) (o : Nat) (f : Owner → Owner) (c : Nat) :
    coreAt (updOwnerAt s o f) c = coreAt s c := rfl
@[simp] theorem thrAt_updOwnerAt (s : State) (o : Nat) (f : Owner → Owner) (c sl : Nat) :
    thrAt (updOwnerAt s o f) c sl = thrAt s c sl := rfl
@[simp] theorem thr_updOwnerAt (s : State) (o : Nat) (f : Owner → Owner) : thr (updOwnerAt s o f) = thr s := rfl

@[simp] theorem updStackAt_mem (s : State) (n : Nat) (f : Stack → Stack) : (updStackAt s n f).mem = s.mem := by
  unfold updStackAt; split <;> rfl
@[simp] theorem updStackAt_cores (s : State) (n : Nat) (f : Stack → Stack) : (updStackAt s n f).cores = s.cores := by
  unfold updStackAt; split <;> rfl
@[simp] theorem updStackAt_owners (s : State) (n : Nat) (f : Stack → Stack) : (updStackAt s n f).owners = s.owners := by
  unfold updStackAt; split <;> rfl
@[simp] theorem updStackAt_xfers (s : State) (n : Nat) (f : Stack → Stack) : (updStackAt s n f).xfers = s.xfers := by
  unfold updStackAt; split <;> rfl
@[simp] theorem updStackAt_hostWrites (s : State) (n : Nat) (f : Stack → Stack) : (updStackAt s n f).hostWrites = s.hostWrites := by
  unfold updStackAt; split <;> rfl
@[simp] theorem updStackAt_flights (s : State) (n : Nat) (f : Stack → Stack) : (updStackAt s n f).flights = s.flights := by
  unfold updStackAt; split <;> rfl
@[simp] theorem updStackAt_xflights (s : State) (n : Nat) (f : Stack → Stack) : (updStackAt s n f).xflights = s.xflights := by
  unfold updStackAt; split <;> rfl
@[simp] theorem updStackAt_parked (s : State) (n : Nat) (f : Stack → Stack) : (updStackAt s n f).parked = s.parked := by
  unfold updStackAt; split <;> rfl
@[simp] theorem updStackAt_sites (s : State) (n : Nat) (f : Stack → Stack) : (updStackAt s n f).sites = s.sites := by
  unfold updStackAt; split <;> rfl
@[simp] theorem updStackAt_rowErrs (s : State) (n : Nat) (f : Stack → Stack) : (updStackAt s n f).rowErrs = s.rowErrs := by
  unfold updStackAt; split <;> rfl
@[simp] theorem updStackAt_repairs (s : State) (n : Nat) (f : Stack → Stack) : (updStackAt s n f).repairs = s.repairs := by
  unfold updStackAt; split <;> rfl
@[simp] theorem updStackAt_xovfLast (s : State) (n : Nat) (f : Stack → Stack) : (updStackAt s n f).xovfLast = s.xovfLast := by
  unfold updStackAt; split <;> rfl
@[simp] theorem updStackAt_denied (s : State) (n : Nat) (f : Stack → Stack) : (updStackAt s n f).denied = s.denied := by
  unfold updStackAt; split <;> rfl
@[simp] theorem updStackAt_stepped (s : State) (n : Nat) (f : Stack → Stack) : (updStackAt s n f).stepped = s.stepped := by
  unfold updStackAt; split <;> rfl
@[simp] theorem updStackAt_outs (s : State) (n : Nat) (f : Stack → Stack) : (updStackAt s n f).outs = s.outs := by
  unfold updStackAt; split <;> rfl
@[simp] theorem updStackAt_remotes (s : State) (n : Nat) (f : Stack → Stack) : (updStackAt s n f).remotes = s.remotes := by
  unfold updStackAt; split <;> rfl
@[simp] theorem updStackAt_swaps (s : State) (n : Nat) (f : Stack → Stack) : (updStackAt s n f).swaps = s.swaps := by
  unfold updStackAt; split <;> rfl
@[simp] theorem updStackAt_sys (s : State) (n : Nat) (f : Stack → Stack) : (updStackAt s n f).sys = s.sys := by
  unfold updStackAt; split <;> rfl
@[simp] theorem updStackAt_cycle (s : State) (n : Nat) (f : Stack → Stack) : (updStackAt s n f).cycle = s.cycle := by
  unfold updStackAt; split <;> rfl
@[simp] theorem updStackAt_timeU (s : State) (n : Nat) (f : Stack → Stack) : (updStackAt s n f).timeU = s.timeU := by
  unfold updStackAt; split <;> rfl
@[simp] theorem updStackAt_slew (s : State) (n : Nat) (f : Stack → Stack) : (updStackAt s n f).slew = s.slew := by
  unfold updStackAt; split <;> rfl
@[simp] theorem updStackAt_core (s : State) (n : Nat) (f : Stack → Stack) : (updStackAt s n f).core = s.core := by
  unfold updStackAt; split <;> rfl
@[simp] theorem updStackAt_slot (s : State) (n : Nat) (f : Stack → Stack) : (updStackAt s n f).slot = s.slot := by
  unfold updStackAt; split <;> rfl
@[simp] theorem updStackAt_splitIssue (s : State) (n : Nat) (f : Stack → Stack) : (updStackAt s n f).splitIssue = s.splitIssue := by
  unfold updStackAt; split <;> rfl
@[simp] theorem updStackAt_hostError (s : State) (n : Nat) (f : Stack → Stack) : (updStackAt s n f).hostError = s.hostError := by
  unfold updStackAt; split <;> rfl
@[simp] theorem updStackAt_nextUid (s : State) (n : Nat) (f : Stack → Stack) : (updStackAt s n f).nextUid = s.nextUid := by
  unfold updStackAt; split <;> rfl
@[simp] theorem updStackAt_tlbGen (s : State) (n : Nat) (f : Stack → Stack) : (updStackAt s n f).tlbGen = s.tlbGen := by
  unfold updStackAt; split <;> rfl
@[simp] theorem updStackAt_traps (s : State) (n : Nat) (f : Stack → Stack) : (updStackAt s n f).traps = s.traps := by
  unfold updStackAt; split <;> rfl
@[simp] theorem updStackAt_draws (s : State) (n : Nat) (f : Stack → Stack) : (updStackAt s n f).draws = s.draws := by
  unfold updStackAt; split <;> rfl
@[simp] theorem updStackAt_sched (s : State) (n : Nat) (f : Stack → Stack) : (updStackAt s n f).sched = s.sched := by
  unfold updStackAt; split <;> rfl

theorem stackAt_updStackAt_self (s : State) (f : Stack → Stack) {n : Nat} (h : n < 4) :
    stackAt (updStackAt s n f) n = f (stackAt s n) := by
  simp [stackAt, updStackAt, h]

/-! ### Registers -/

theorem Thread.getG_setG_self (t : Thread) (x : Word) {n : Nat} (h : n ≠ 0) : (t.setG n x).getG n = x := by
  simp [Thread.getG, Thread.setG, h]

theorem Thread.getG_setG_ne (t : Thread) (x : Word) {n m : Nat} (h : m ≠ n) : (t.setG n x).getG m = t.getG m := by
  unfold Thread.getG Thread.setG
  split
  · rfl
  · split
    · rfl
    · exact Tab.get_set_ne _ _ _ h

@[simp] theorem Thread.getG_zero (t : Thread) : t.getG 0 = 0 := rfl
@[simp] theorem Thread.setG_zero (t : Thread) (x : Word) : t.setG 0 x = t := rfl

@[simp] theorem Thread.getV_setV_self (t : Thread) (n : Nat) (x : Vec) : (t.setV n x).getV n = x := by
  simp [Thread.getV, Thread.setV]

theorem Thread.getV_setV_ne (t : Thread) (x : Vec) {n m : Nat} (h : m ≠ n) : (t.setV n x).getV m = t.getV m :=
  Tab.get_set_ne _ _ _ h

@[simp] theorem Thread.getM_setM_self (t : Thread) (n : Nat) (x : Word) : (t.setM n x).getM n = x := by
  simp [Thread.getM, Thread.setM]

@[simp] theorem Thread.getIx_setIx_self (t : Thread) (n : Nat) (x : Word) : (t.setIx n x).getIx n = x := by
  simp [Thread.getIx, Thread.setIx]

@[simp] theorem Thread.setG_pc (t : Thread) (n : Nat) (x : Word) : (t.setG n x).pc = t.pc := by
  unfold Thread.setG; split <;> rfl
@[simp] theorem Thread.setG_st (t : Thread) (n : Nat) (x : Word) : (t.setG n x).st = t.st := by
  unfold Thread.setG; split <;> rfl
@[simp] theorem Thread.setG_v (t : Thread) (n : Nat) (x : Word) : (t.setG n x).v = t.v := by
  unfold Thread.setG; split <;> rfl
@[simp] theorem Thread.setG_m (t : Thread) (n : Nat) (x : Word) : (t.setG n x).m = t.m := by
  unfold Thread.setG; split <;> rfl
@[simp] theorem Thread.setG_ix (t : Thread) (n : Nat) (x : Word) : (t.setG n x).ix = t.ix := by
  unfold Thread.setG; split <;> rfl
@[simp] theorem Thread.setG_fflags (t : Thread) (n : Nat) (x : Word) : (t.setG n x).fflags = t.fflags := by
  unfold Thread.setG; split <;> rfl
@[simp] theorem Thread.setG_sup (t : Thread) (n : Nat) (x : Word) : (t.setG n x).sup = t.sup := by
  unfold Thread.setG; split <;> rfl

theorem rg_wg_self (s : State) (x : Word) {n : BitVec 6} (h : n ≠ 0) : rg (wg s n x) n = x := by
  have h' : n.toNat ≠ 0 := fun e => h (BitVec.eq_of_toNat_eq (by simpa using e))
  simp [rg, wg, Thread.getG_setG_self _ _ h']

theorem rg_wg_ne (s : State) (x : Word) {n m : BitVec 6} (h : m ≠ n) : rg (wg s n x) m = rg s m := by
  have h' : m.toNat ≠ n.toNat := fun e => h (BitVec.eq_of_toNat_eq e)
  simp [rg, wg, Thread.getG_setG_ne _ _ h']

@[simp] theorem rg_zero (s : State) : rg s 0 = 0 := rfl
@[simp] theorem wg_mem (s : State) (n : BitVec 6) (x : Word) : (wg s n x).mem = s.mem := rfl
@[simp] theorem wg_core (s : State) (n : BitVec 6) (x : Word) : (wg s n x).core = s.core := rfl
@[simp] theorem wg_slot (s : State) (n : BitVec 6) (x : Word) : (wg s n x).slot = s.slot := rfl

end Sys2Proof.Machine
end

