-- ==== Sys2Proof/Laws/Instr.lean ====
section
/-! SUPPORT. What the shared operations of an instruction do: the checks of R60 passed, the end of an instruction, a trap
taken. -/

namespace Sys2Proof.Machine

theorem finish_ok (i : Instr) (n : Word) (pc : Option Word) (s : State) :
    finish i n (.ok pc s) = .next (goTo s (match pc with | some p => p | none => pcPlus (thr s).pc n)) := by
  unfold finish goTo updThr updThrAt updCore
  rfl

@[simp] theorem finish_trap (i : Instr) (n : Word) (c : BitVec 8) (v : Word) (s : State) :
    finish i n (.trap c v s) = .next (takeTrap s c none v) := rfl

@[simp] theorem finish_wait (i : Instr) (n : Word) (k : WaitKind) (s : State) :
    finish i n (.wait k s) = .next (block s i k) := rfl

@[simp] theorem finish_leave (i : Instr) (n : Word) (s : State) : finish i n (.leave s) = .next s := rfl

/-- An instruction whose checks of R60 all pass runs its own pseudocode. -/
theorem instr_issues {i : Instr} {gate : Gate} {fs more : List RegField} {s : State} {body : State → Act (Option Word)}
    (h : Issues s fs more) (hw : i.wf = true) (hi : gate.ill = false) (hp : gate.priv = false)
    (hc : (isControl s.core && controlLacks i) = false) (hv : vectorBusy (thr s) i = false) :
    instr i gate fs more s body = finish i (isize i) (body s) := by
  obtain ⟨h1, h2, h3, h4⟩ := h
  unfold instr
  rw [if_neg (by simp [h1]), if_neg (by simp [h2]), hw, hi, hp, hc, h3, h4, hv]
  rfl

/-- Of an instruction that every core has and that no vector memory instruction holds back, the checks are fewer. -/
theorem instr_plain {i : Instr} {fs more : List RegField} {s : State} {body : State → Act (Option Word)}
    (h : Issues s fs more) (hw : i.wf = true) (hc : controlLacks i = false) (hv : ordersMemory i = false) :
    instr i {} fs more s body = finish i (isize i) (body s) :=
  instr_issues h hw rfl rfl (by simp [hc]) (by simp [vectorBusy, hv])

/-- A compact instruction whose checks pass. -/
theorem compact_issues {fs : List RegField} {s : State} {body : State → Act (Option Word)} (h : Issues s fs []) :
    compact fs s body = match body s with
      | .ok pc s => .next (goTo s (match pc with | some p => p | none => pcPlus (thr s).pc 2))
      | .trap c v s => .next (takeTrap s c none v)
      | .wait _ s | .leave s => .next s
      | .stop f => .fault f := by
  obtain ⟨h1, h2, h3, h4⟩ := h
  unfold compact
  rw [if_neg (by simp [h1]), if_neg (by simp [h2]), h3]
  simp only [List.append_nil] at h4
  simp only [h4]
  rfl

/-- PRIV is raised before any register field is checked (R60, R67). -/
theorem instr_priv {i : Instr} {gate : Gate} {fs more : List RegField} {s : State} {body : State → Act (Option Word)}
    (h1 : canIssue (thr s) = true) (h2 : outstanding (thr s) = false) (hw : i.wf = true) (hi : gate.ill = false)
    (hp : gate.priv = true) (hc : (isControl s.core && controlLacks i) = false) :
    instr i gate fs more s body = .next (takeTrap s Cause.priv none (iword i)) := by
  unfold instr
  rw [if_neg (by simp [h1]), if_neg (by simp [h2]), hw, hi, hp, hc]
  rfl

/-- ILLEGAL is raised before everything else (R58, R60). -/
theorem instr_illegal {i : Instr} {gate : Gate} {fs more : List RegField} {s : State} {body : State → Act (Option Word)}
    (h1 : canIssue (thr s) = true) (h2 : outstanding (thr s) = false)
    (hi : (!i.wf || (isControl s.core && controlLacks i) || gate.ill) = true) :
    instr i gate fs more s body = .next (takeTrap s Cause.illegal none (iword i)) := by
  unfold instr
  rw [if_neg (by simp [h1]), if_neg (by simp [h2]), if_pos hi]
  rfl

/-- A trap of a thread in no gang is delivered at once (R151, R281), and a precise one is counted. -/
theorem takeTrap_alone (s : State) (c : BitVec 8) (late : Option (BitVec 16)) (v : Word) (h : (thr s).gang = none) :
    takeTrap s c late v = deliverTrap (countTrap late s) c late v := by
  have g : (thr (countTrap late s)).gang = none := by unfold countTrap; split <;> exact h
  simp [takeTrap, g]

end Sys2Proof.Machine
end

