-- ==== Sys2Proof/Laws/Memory.lean ====
section
/-! SUPPORT. Memory: every operation keeps the canonical form; a byte read after it is written, and the bytes a write
leaves alone. -/

namespace Sys2Proof.Machine

namespace Memory

/-- Every entry of a memory lies above a bound. -/
def above (k : Nat) (m : List Host.Cell) : Prop := ∀ c ∈ m, k < c.1

theorem wf_cons {a : Nat} {b : Byte} {m : List Host.Cell} :
    wf ((a, b) :: m) = true ↔ b ≠ unlisted ∧ above a m ∧ wf m = true := by
  induction m generalizing a b with
  | nil => simp [wf, above]
  | cons p t ih =>
    obtain ⟨c, d⟩ := p
    constructor
    · intro h
      simp only [wf, Bool.and_eq_true, bne_iff_ne, decide_eq_true_eq] at h
      obtain ⟨⟨h1, h2⟩, h3⟩ := h
      have h4 : wf ((c, d) :: t) = true := by simp only [wf, Bool.and_eq_true, bne_iff_ne]; exact h3
      refine ⟨h1, ?_, h4⟩
      intro x hx
      rcases List.mem_cons.1 hx with rfl | hx
      · exact h2
      · exact lt_trans h2 ((ih.1 h4).2.1 x hx)
    · rintro ⟨h1, h2, h3⟩
      have h4 : a < c := h2 (c, d) (List.mem_cons_self ..)
      simp only [wf, Bool.and_eq_true, bne_iff_ne, decide_eq_true_eq] at h3 ⊢
      exact ⟨⟨h1, h4⟩, h3⟩

theorem above_mono {k n : Nat} {m : List Host.Cell} (h : k ≤ n) (hm : above n m) : above k m :=
  fun c hc => lt_of_le_of_lt h (hm c hc)

theorem above_set {k n : Nat} {b : Byte} {m : List Host.Cell} (h : k < n) (hm : above k m) : above k (set b m n) := by
  induction m with
  | nil => simp only [set]; split <;> simp [above, h]
  | cons p t ih =>
    obtain ⟨a, x⟩ := p
    have ha : k < a := hm (a, x) (List.mem_cons_self ..)
    have ht : above k t := fun c hc => hm c (List.mem_cons_of_mem _ hc)
    simp only [set]
    split
    · split
      · exact ht
      · intro c hc
        rcases List.mem_cons.1 hc with rfl | hc
        · exact h
        · exact ht c hc
    · split
      · split
        · exact hm
        · intro c hc
          rcases List.mem_cons.1 hc with rfl | hc
          · exact h
          · exact hm c hc
      · intro c hc
        rcases List.mem_cons.1 hc with rfl | hc
        · exact ha
        · exact ih ht c hc

/-- A write keeps the canonical form. -/
theorem wf_set (b : Byte) (m : List Host.Cell) (k : Nat) (h : wf m = true) : wf (set b m k) = true := by
  induction m with
  | nil =>
    simp only [set]
    split
    · rfl
    · rename_i hb; exact wf_cons.2 ⟨hb, by simp [above], rfl⟩
  | cons p t ih =>
    obtain ⟨a, x⟩ := p
    obtain ⟨h1, h2, h3⟩ := wf_cons.1 h
    simp only [set]
    split
    · rename_i ha
      split
      · exact h3
      · rename_i hb; exact wf_cons.2 ⟨hb, ha ▸ h2, h3⟩
    · split
      · rename_i hk
        split
        · exact h
        · rename_i hb
          refine wf_cons.2 ⟨hb, ?_, h⟩
          intro c hc
          rcases List.mem_cons.1 hc with rfl | hc
          · exact hk
          · exact lt_trans hk (h2 c hc)
      · rename_i ha hk
        exact wf_cons.2 ⟨h1, above_set (by omega) h2, ih h3⟩

/-- Clearing a range keeps the canonical form. -/
theorem wf_clear (lo hi : Nat) (m : List Host.Cell) (h : wf m = true) : wf (clear lo hi m) = true := by
  induction m with
  | nil => rfl
  | cons p t ih =>
    obtain ⟨a, x⟩ := p
    obtain ⟨h1, h2, h3⟩ := wf_cons.1 h
    unfold clear
    rw [List.filter_cons]
    split
    · exact wf_cons.2 ⟨h1, fun c hc => h2 c (List.mem_filter.1 hc).1, ih h3⟩
    · exact ih h3

theorem get_above {k : Nat} {m : List Host.Cell} (h : above k m) : get m k = unlisted := by
  cases m with
  | nil => rfl
  | cons p t =>
    obtain ⟨a, x⟩ := p
    have ha : k < a := h (a, x) (List.mem_cons_self ..)
    simp [get, ha.ne', ha]

/-- A byte read after it is written. -/
theorem get_set_self (b : Byte) (m : List Host.Cell) (k : Nat) (h : wf m = true) : get (set b m k) k = b := by
  induction m with
  | nil => simp only [set]; split <;> simp_all [get]
  | cons p t ih =>
    obtain ⟨a, x⟩ := p
    obtain ⟨h1, h2, h3⟩ := wf_cons.1 h
    simp only [set]
    split
    · rename_i ha
      split
      · rename_i hb; rw [hb]; exact get_above (ha ▸ h2)
      · simp [get]
    · split
      · rename_i ha hk
        split
        · rename_i hb; simp [get, ha, hk, hb]
        · simp [get]
      · rename_i ha hk
        simp only [get, ha, hk, if_false]
        exact ih h3

/-- A byte that a write does not name. -/
theorem get_set_ne (b : Byte) (m : List Host.Cell) {k n : Nat} (hn : n ≠ k) (h : wf m = true) :
    get (set b m k) n = get m n := by
  induction m with
  | nil => simp only [set]; split <;> simp [get, Ne.symm hn]
  | cons p t ih =>
    obtain ⟨a, x⟩ := p
    obtain ⟨h1, h2, h3⟩ := wf_cons.1 h
    simp only [set]
    split
    · rename_i ha
      subst ha
      split
      · simp only [get, Ne.symm hn, if_false]
        split
        · rename_i hk; exact get_above (above_mono hk.le h2)
        · rfl
      · simp only [get, Ne.symm hn, if_false]
    · split
      · rename_i ha hk
        split
        · rfl
        · simp only [get, Ne.symm hn, if_false]
          by_cases hnk : n < k
          · have : n < a := lt_trans hnk hk
            simp [hnk, this, this.ne']
          · simp [hnk]
      · simp only [get, ih h3]

theorem get_clear_in {lo hi : Nat} {m : List Host.Cell} {n : Nat} (hn : lo ≤ n ∧ n < hi) (h : wf m = true) :
    get (clear lo hi m) n = unlisted := by
  induction m with
  | nil => rfl
  | cons p t ih =>
    obtain ⟨a, x⟩ := p
    obtain ⟨h1, h2, h3⟩ := wf_cons.1 h
    have ih' := ih h3
    unfold clear at ih' ⊢
    rw [List.filter_cons]
    split
    · rename_i hf
      have hf' : ¬ (lo ≤ a ∧ a < hi) := by simp at hf; omega
      simp only [get]
      split
      · rename_i e; subst e; exact absurd hn hf'
      · split
        · rfl
        · exact ih'
    · exact ih'

theorem get_clear_out {lo hi : Nat} {m : List Host.Cell} {n : Nat} (hn : ¬ (lo ≤ n ∧ n < hi)) (h : wf m = true) :
    get (clear lo hi m) n = get m n := by
  induction m with
  | nil => rfl
  | cons p t ih =>
    obtain ⟨a, x⟩ := p
    obtain ⟨h1, h2, h3⟩ := wf_cons.1 h
    have ih' := ih h3
    unfold clear at ih' ⊢
    rw [List.filter_cons]
    split
    · simp only [get]
      split
      · rfl
      · split
        · rfl
        · exact ih'
    · rename_i hf
      have hf' : lo ≤ a ∧ a < hi := by simp at hf; omega
      rw [ih']
      have hna : a ≠ n := by rintro rfl; exact hn hf'
      simp only [get, hna, if_false]
      split
      · rename_i hk; exact get_above (above_mono hk.le h2)
      · rfl

end Memory

/-! ### Bytes at their homes -/

theorem fillLine_wf (s : State) (k : Nat) (h : Memory.wf s.mem = true) : Memory.wf (fillLine s k).mem = true := by
  unfold fillLine
  split
  · exact Memory.wf_clear _ _ _ h
  · exact h

/-- A byte written at its home keeps the canonical form. -/
theorem setHome_wf (s : State) (k : Nat) (b : Byte) (h : Memory.wf s.mem = true) :
    Memory.wf (setHome s k b).mem = true :=
  Memory.wf_set _ _ _ (fillLine_wf s k h)

/-- So do bytes written at their homes. -/
theorem setHomes_wf (s : State) (k : Nat) (bs : List Byte) (h : Memory.wf s.mem = true) :
    Memory.wf (setHomes s k bs).mem = true := by
  induction bs generalizing s k with
  | nil => exact h
  | cons b bs ih => exact ih _ _ (setHome_wf s k b h)

end Sys2Proof.Machine
end

