-- ==== Sys2Proof/Laws/PerInstr.lean ====
section
/-! SUPPORT. Facts about every instruction as syntax, one lemma per constructor: bit 0 of an encoding tells its length, so
that a code's bytes are read back as that code (R51). -/

namespace Sys2Proof.Laws.Length

/-- Bit 0 of a code's first halfword tells its length: 0 for one halfword, 1 for two (R51). -/
def marked : Code → Prop
  | .c16 w => w.getLsbD 0 = false
  | .c32 w => w.getLsbD 0 = true

/-- The encoding of an instruction, where it has one, is marked with its length. -/
def Statement (i : Instr) : Prop := ∀ c, encode i = some c → marked c

theorem of_some {i : Instr} {c : Code} (h : encode i = some c) (m : marked c) : Statement i := by
  intro d hd
  rw [h] at hd
  cases hd
  exact m

theorem of_none {i : Instr} (h : encode i = none) : Statement i := by
  intro d hd
  rw [h] at hd
  cases hd

/-- Bit 0 of a word put together with a one-bit field lowest, or with a wider one, is that field's. -/
theorem append_bit {m n : Nat} (x : BitVec m) (y : BitVec n) (h : 0 < n) : (x ++ y).getLsbD 0 = y.getLsbD 0 := by
  rw [BitVec.getLsbD_append, if_pos h]

theorem add (d a b) : Statement (.add d a b) := of_some rfl (append_bit _ _ (by decide))
theorem sub (d a b) : Statement (.sub d a b) := of_some rfl (append_bit _ _ (by decide))
theorem and (d a b) : Statement (.and d a b) := of_some rfl (append_bit _ _ (by decide))
theorem or (d a b) : Statement (.or d a b) := of_some rfl (append_bit _ _ (by decide))
theorem xor (d a b) : Statement (.xor d a b) := of_some rfl (append_bit _ _ (by decide))
theorem andn (d a b) : Statement (.andn d a b) := of_some rfl (append_bit _ _ (by decide))
theorem orn (d a b) : Statement (.orn d a b) := of_some rfl (append_bit _ _ (by decide))
theorem xnor (d a b) : Statement (.xnor d a b) := of_some rfl (append_bit _ _ (by decide))
theorem sll (d a b) : Statement (.sll d a b) := of_some rfl (append_bit _ _ (by decide))
theorem srl (d a b) : Statement (.srl d a b) := of_some rfl (append_bit _ _ (by decide))
theorem sra (d a b) : Statement (.sra d a b) := of_some rfl (append_bit _ _ (by decide))
theorem rot (d a b) : Statement (.rot d a b) := of_some rfl (append_bit _ _ (by decide))
theorem slt (d a b) : Statement (.slt d a b) := of_some rfl (append_bit _ _ (by decide))
theorem sltu (d a b) : Statement (.sltu d a b) := of_some rfl (append_bit _ _ (by decide))
theorem min (d a b) : Statement (.min d a b) := of_some rfl (append_bit _ _ (by decide))
theorem max (d a b) : Statement (.max d a b) := of_some rfl (append_bit _ _ (by decide))
theorem minu (d a b) : Statement (.minu d a b) := of_some rfl (append_bit _ _ (by decide))
theorem maxu (d a b) : Statement (.maxu d a b) := of_some rfl (append_bit _ _ (by decide))
theorem addw (d a b) : Statement (.addw d a b) := of_some rfl (append_bit _ _ (by decide))
theorem subw (d a b) : Statement (.subw d a b) := of_some rfl (append_bit _ _ (by decide))
theorem adds (d a b) : Statement (.adds d a b) := of_some rfl (append_bit _ _ (by decide))
theorem subs (d a b) : Statement (.subs d a b) := of_some rfl (append_bit _ _ (by decide))
theorem sllw (d a b) : Statement (.sllw d a b) := of_some rfl (append_bit _ _ (by decide))
theorem srlw (d a b) : Statement (.srlw d a b) := of_some rfl (append_bit _ _ (by decide))
theorem sraw (d a b) : Statement (.sraw d a b) := of_some rfl (append_bit _ _ (by decide))
theorem addi (d a n) : Statement (.addi d a n) := of_some rfl (append_bit _ _ (by decide))
theorem andi (d a n) : Statement (.andi d a n) := of_some rfl (append_bit _ _ (by decide))
theorem ori (d a n) : Statement (.ori d a n) := of_some rfl (append_bit _ _ (by decide))
theorem xori (d a n) : Statement (.xori d a n) := of_some rfl (append_bit _ _ (by decide))
theorem slli (d a h) : Statement (.slli d a h) := of_some rfl (append_bit _ _ (by decide))
theorem srli (d a h) : Statement (.srli d a h) := of_some rfl (append_bit _ _ (by decide))
theorem srai (d a h) : Statement (.srai d a h) := of_some rfl (append_bit _ _ (by decide))
theorem roti (d a h) : Statement (.roti d a h) := of_some rfl (append_bit _ _ (by decide))
theorem slti (d a n) : Statement (.slti d a n) := of_some rfl (append_bit _ _ (by decide))
theorem sltiu (d a n) : Statement (.sltiu d a n) := of_some rfl (append_bit _ _ (by decide))
theorem mul (d a b) : Statement (.mul d a b) := of_some rfl (append_bit _ _ (by decide))
theorem mulh (d a b) : Statement (.mulh d a b) := of_some rfl (append_bit _ _ (by decide))
theorem mulhu (d a b) : Statement (.mulhu d a b) := of_some rfl (append_bit _ _ (by decide))
theorem mulhm (d a b) : Statement (.mulhm d a b) := of_some rfl (append_bit _ _ (by decide))
theorem div (d a b) : Statement (.div d a b) := of_some rfl (append_bit _ _ (by decide))
theorem divu (d a b) : Statement (.divu d a b) := of_some rfl (append_bit _ _ (by decide))
theorem rem (d a b) : Statement (.rem d a b) := of_some rfl (append_bit _ _ (by decide))
theorem remu (d a b) : Statement (.remu d a b) := of_some rfl (append_bit _ _ (by decide))
theorem mulw (d a b) : Statement (.mulw d a b) := of_some rfl (append_bit _ _ (by decide))
theorem divw (d a b) : Statement (.divw d a b) := of_some rfl (append_bit _ _ (by decide))
theorem remw (d a b) : Statement (.remw d a b) := of_some rfl (append_bit _ _ (by decide))
theorem clz (d a) : Statement (.clz d a) := of_some rfl (append_bit _ _ (by decide))
theorem ctz (d a) : Statement (.ctz d a) := of_some rfl (append_bit _ _ (by decide))
theorem popc (d a) : Statement (.popc d a) := of_some rfl (append_bit _ _ (by decide))
theorem bswap (d a) : Statement (.bswap d a) := of_some rfl (append_bit _ _ (by decide))
theorem sel (d a b) : Statement (.sel d a b) := of_some rfl (append_bit _ _ (by decide))
theorem ext (d a b) : Statement (.ext d a b) := of_some rfl (append_bit _ _ (by decide))
theorem extu (d a b) : Statement (.extu d a b) := of_some rfl (append_bit _ _ (by decide))
theorem ins (d a b) : Statement (.ins d a b) := of_some rfl (append_bit _ _ (by decide))
theorem lui (d n) : Statement (.lui d n) := of_some rfl (append_bit _ _ (by decide))
theorem addpc (d n) : Statement (.addpc d n) := of_some rfl (append_bit _ _ (by decide))
theorem padd (d a b) : Statement (.padd d a b) := of_some rfl (append_bit _ _ (by decide))
theorem psub (d a b) : Statement (.psub d a b) := of_some rfl (append_bit _ _ (by decide))
theorem ptag (d a b) : Statement (.ptag d a b) := of_some rfl (append_bit _ _ (by decide))
theorem pgtag (d a) : Statement (.pgtag d a) := of_some rfl (append_bit _ _ (by decide))
theorem pidx (d a b) : Statement (.pidx d a b) := of_some rfl (append_bit _ _ (by decide))
theorem pblk (d a b) : Statement (.pblk d a b) := of_some rfl (append_bit _ _ (by decide))
theorem pchk (d a b) : Statement (.pchk d a b) := of_some rfl (append_bit _ _ (by decide))
theorem paddi (d a n) : Statement (.paddi d a n) := of_some rfl (append_bit _ _ (by decide))
theorem rget (d a k) : Statement (.rget d a k) := of_some rfl (append_bit _ _ (by decide))
theorem rput (d a k) : Statement (.rput d a k) := of_some rfl (append_bit _ _ (by decide))
theorem ixset (a k) : Statement (.ixset a k) := of_some rfl (append_bit _ _ (by decide))
theorem ixadd (a k) : Statement (.ixadd a k) := of_some rfl (append_bit _ _ (by decide))
theorem ixget (d k) : Statement (.ixget d k) := of_some rfl (append_bit _ _ (by decide))
theorem fadd (d a b w) : Statement (.fadd d a b w) := of_some rfl (append_bit _ _ (by decide))
theorem fsub (d a b w) : Statement (.fsub d a b w) := of_some rfl (append_bit _ _ (by decide))
theorem fmul (d a b w) : Statement (.fmul d a b w) := of_some rfl (append_bit _ _ (by decide))
theorem fdiv (d a b w) : Statement (.fdiv d a b w) := of_some rfl (append_bit _ _ (by decide))
theorem fsqrt (d a w) : Statement (.fsqrt d a w) := of_some rfl (append_bit _ _ (by decide))
theorem fmin (d a b w) : Statement (.fmin d a b w) := of_some rfl (append_bit _ _ (by decide))
theorem fmax (d a b w) : Statement (.fmax d a b w) := of_some rfl (append_bit _ _ (by decide))
theorem fscpy (d a b w) : Statement (.fscpy d a b w) := of_some rfl (append_bit _ _ (by decide))
theorem fsinv (d a b w) : Statement (.fsinv d a b w) := of_some rfl (append_bit _ _ (by decide))
theorem fsxor (d a b w) : Statement (.fsxor d a b w) := of_some rfl (append_bit _ _ (by decide))
theorem feq (d a b w) : Statement (.feq d a b w) := of_some rfl (append_bit _ _ (by decide))
theorem flt (d a b w) : Statement (.flt d a b w) := of_some rfl (append_bit _ _ (by decide))
theorem fle (d a b w) : Statement (.fle d a b w) := of_some rfl (append_bit _ _ (by decide))
theorem fkind (d a w) : Statement (.fkind d a w) := of_some rfl (append_bit _ _ (by decide))
theorem fcvt (d a r u e z) : Statement (.fcvt d a r u e z) := of_some rfl (append_bit _ _ (by decide))
theorem ffma (d a b w c) : Statement (.ffma d a b w c) := of_some rfl (append_bit _ _ (by decide))
theorem beq (a b o) : Statement (.beq a b o) := of_some rfl (append_bit _ _ (by decide))
theorem bne (a b o) : Statement (.bne a b o) := of_some rfl (append_bit _ _ (by decide))
theorem blt (a b o) : Statement (.blt a b o) := of_some rfl (append_bit _ _ (by decide))
theorem bge (a b o) : Statement (.bge a b o) := of_some rfl (append_bit _ _ (by decide))
theorem bltu (a b o) : Statement (.bltu a b o) := of_some rfl (append_bit _ _ (by decide))
theorem bgeu (a b o) : Statement (.bgeu a b o) := of_some rfl (append_bit _ _ (by decide))
theorem j (o) : Statement (.j o) := of_some rfl (append_bit _ _ (by decide))
theorem jal (o) : Statement (.jal o) := of_some rfl (append_bit _ _ (by decide))
theorem jalr (d a n) : Statement (.jalr d a n) := of_some rfl (append_bit _ _ (by decide))
theorem loop (a b o) : Statement (.loop a b o) := of_some rfl (append_bit _ _ (by decide))
theorem ld (d a z m o) : Statement (.ld d a z m o) := of_some rfl (append_bit _ _ (by decide))
theorem ldu (d a z m o) : Statement (.ldu d a z m o) := of_some rfl (append_bit _ _ (by decide))
theorem st (d a z m o) : Statement (.st d a z m o) := of_some rfl (append_bit _ _ (by decide))
theorem ldx (d a b m z) : Statement (.ldx d a b m z) := of_some rfl (append_bit _ _ (by decide))
theorem ldux (d a b m z) : Statement (.ldux d a b m z) := of_some rfl (append_bit _ _ (by decide))
theorem stx (d a b m z) : Statement (.stx d a b m z) := of_some rfl (append_bit _ _ (by decide))
theorem pst (d a z m o) : Statement (.pst d a z m o) := of_some rfl (append_bit _ _ (by decide))
theorem pref (h a o) : Statement (.pref h a o) := of_some rfl (append_bit _ _ (by decide))
theorem ldv (d a m o) : Statement (.ldv d a m o) := of_some rfl (append_bit _ _ (by decide))
theorem stv (d a m o) : Statement (.stv d a m o) := of_some rfl (append_bit _ _ (by decide))
theorem vlds (d a b z m) : Statement (.vlds d a b z m) := of_some rfl (append_bit _ _ (by decide))
theorem vsts (d a b z m) : Statement (.vsts d a b z m) := of_some rfl (append_bit _ _ (by decide))
theorem vgath (d a b z m) : Statement (.vgath d a b z m) := of_some rfl (append_bit _ _ (by decide))
theorem vscat (d a b z m) : Statement (.vscat d a b z m) := of_some rfl (append_bit _ _ (by decide))
theorem vldb (d a z m) : Statement (.vldb d a z m) := of_some rfl (append_bit _ _ (by decide))
theorem amoadd (d a b z o) : Statement (.amoadd d a b z o) := of_some rfl (append_bit _ _ (by decide))
theorem amoand (d a b z o) : Statement (.amoand d a b z o) := of_some rfl (append_bit _ _ (by decide))
theorem amoor (d a b z o) : Statement (.amoor d a b z o) := of_some rfl (append_bit _ _ (by decide))
theorem amoxor (d a b z o) : Statement (.amoxor d a b z o) := of_some rfl (append_bit _ _ (by decide))
theorem amomin (d a b z o) : Statement (.amomin d a b z o) := of_some rfl (append_bit _ _ (by decide))
theorem amomax (d a b z o) : Statement (.amomax d a b z o) := of_some rfl (append_bit _ _ (by decide))
theorem amoswp (d a b z o) : Statement (.amoswp d a b z o) := of_some rfl (append_bit _ _ (by decide))
theorem amofadd (d a b z o) : Statement (.amofadd d a b z o) := of_some rfl (append_bit _ _ (by decide))
theorem cas (d a b o z) : Statement (.cas d a b o z) := of_some rfl (append_bit _ _ (by decide))
theorem cas2 (d a b o) : Statement (.cas2 d a b o) := of_some rfl (append_bit _ _ (by decide))
theorem fence (z k) : Statement (.fence z k) := of_some rfl (append_bit _ _ (by decide))
theorem vadd (d a b z) : Statement (.vadd d a b z) := of_some rfl (append_bit _ _ (by decide))
theorem vsub (d a b z) : Statement (.vsub d a b z) := of_some rfl (append_bit _ _ (by decide))
theorem vmul (d a b z) : Statement (.vmul d a b z) := of_some rfl (append_bit _ _ (by decide))
theorem vmulh (d a b z) : Statement (.vmulh d a b z) := of_some rfl (append_bit _ _ (by decide))
theorem vand (d a b z) : Statement (.vand d a b z) := of_some rfl (append_bit _ _ (by decide))
theorem vor (d a b z) : Statement (.vor d a b z) := of_some rfl (append_bit _ _ (by decide))
theorem vxor (d a b z) : Statement (.vxor d a b z) := of_some rfl (append_bit _ _ (by decide))
theorem vsll (d a b z) : Statement (.vsll d a b z) := of_some rfl (append_bit _ _ (by decide))
theorem vsrl (d a b z) : Statement (.vsrl d a b z) := of_some rfl (append_bit _ _ (by decide))
theorem vsra (d a b z) : Statement (.vsra d a b z) := of_some rfl (append_bit _ _ (by decide))
theorem vmin (d a b z) : Statement (.vmin d a b z) := of_some rfl (append_bit _ _ (by decide))
theorem vmax (d a b z) : Statement (.vmax d a b z) := of_some rfl (append_bit _ _ (by decide))
theorem vminu (d a b z) : Statement (.vminu d a b z) := of_some rfl (append_bit _ _ (by decide))
theorem vmaxu (d a b z) : Statement (.vmaxu d a b z) := of_some rfl (append_bit _ _ (by decide))
theorem vadds (d a b z) : Statement (.vadds d a b z) := of_some rfl (append_bit _ _ (by decide))
theorem vsubs (d a b z) : Statement (.vsubs d a b z) := of_some rfl (append_bit _ _ (by decide))
theorem vabsd (d a b z) : Statement (.vabsd d a b z) := of_some rfl (append_bit _ _ (by decide))
theorem vdot4 (d a b) : Statement (.vdot4 d a b) := of_some rfl (append_bit _ _ (by decide))
theorem vfadd (d a b t) : Statement (.vfadd d a b t) := of_some rfl (append_bit _ _ (by decide))
theorem vfsub (d a b t) : Statement (.vfsub d a b t) := of_some rfl (append_bit _ _ (by decide))
theorem vfmul (d a b t) : Statement (.vfmul d a b t) := of_some rfl (append_bit _ _ (by decide))
theorem vfmin (d a b t) : Statement (.vfmin d a b t) := of_some rfl (append_bit _ _ (by decide))
theorem vfmax (d a b t) : Statement (.vfmax d a b t) := of_some rfl (append_bit _ _ (by decide))
theorem vfabs (d a t) : Statement (.vfabs d a t) := of_some rfl (append_bit _ _ (by decide))
theorem vfneg (d a t) : Statement (.vfneg d a t) := of_some rfl (append_bit _ _ (by decide))
theorem vfdiv (d a b t) : Statement (.vfdiv d a b t) := of_some rfl (append_bit _ _ (by decide))
theorem vfma (d a b f c) : Statement (.vfma d a b f c) := of_some rfl (append_bit _ _ (by decide))
theorem vcvt (d a r u p) : Statement (.vcvt d a r u p) := of_some rfl (append_bit _ _ (by decide))
theorem vqnt (d a b k r) : Statement (.vqnt d a b k r) := of_some rfl (append_bit _ _ (by decide))
theorem vdqnt (d a b k) : Statement (.vdqnt d a b k) := of_some rfl (append_bit _ _ (by decide))
theorem vecfd (d a k m) : Statement (.vecfd d a k m) := of_some rfl (append_bit _ _ (by decide))
theorem vecfe (d a k m) : Statement (.vecfe d a k m) := of_some rfl (append_bit _ _ (by decide))
theorem vbcast (d a z) : Statement (.vbcast d a z) := of_some rfl (append_bit _ _ (by decide))
theorem vmovgv (d a b z) : Statement (.vmovgv d a b z) := of_some rfl (append_bit _ _ (by decide))
theorem vmovvg (d a b z) : Statement (.vmovvg d a b z) := of_some rfl (append_bit _ _ (by decide))
theorem vperm (d a b) : Statement (.vperm d a b) := of_some rfl (append_bit _ _ (by decide))
theorem vred (d a z o) : Statement (.vred d a z o) := of_some rfl (append_bit _ _ (by decide))
theorem vslide (d a b z) : Statement (.vslide d a b z) := of_some rfl (append_bit _ _ (by decide))
theorem vsel (d a b z m) : Statement (.vsel d a b z m) := of_some rfl (append_bit _ _ (by decide))
theorem vrcp (d a t) : Statement (.vrcp d a t) := of_some rfl (append_bit _ _ (by decide))
theorem vrsq (d a t) : Statement (.vrsq d a t) := of_some rfl (append_bit _ _ (by decide))
theorem vexp2 (d a t) : Statement (.vexp2 d a t) := of_some rfl (append_bit _ _ (by decide))
theorem vlog2 (d a t) : Statement (.vlog2 d a t) := of_some rfl (append_bit _ _ (by decide))
theorem vtanh (d a t) : Statement (.vtanh d a t) := of_some rfl (append_bit _ _ (by decide))
theorem vcmp (m c a b t) : Statement (.vcmp m c a b t) := of_some rfl (append_bit _ _ (by decide))
theorem mand (d a b) : Statement (.mand d a b) := of_some rfl (append_bit _ _ (by decide))
theorem mor (d a b) : Statement (.mor d a b) := of_some rfl (append_bit _ _ (by decide))
theorem mxor (d a b) : Statement (.mxor d a b) := of_some rfl (append_bit _ _ (by decide))
theorem mnot (d a) : Statement (.mnot d a) := of_some rfl (append_bit _ _ (by decide))
theorem mcnt (d a x) : Statement (.mcnt d a x) := of_some rfl (append_bit _ _ (by decide))
theorem mset (d a) : Statement (.mset d a) := of_some rfl (append_bit _ _ (by decide))
theorem gang (d a) : Statement (.gang d a) := of_some rfl (append_bit _ _ (by decide))
theorem xchg (d a z) : Statement (.xchg d a z) := of_some rfl (append_bit _ _ (by decide))
theorem gbcast (d a v) : Statement (.gbcast d a v) := of_some rfl (append_bit _ _ (by decide))
theorem gstat (d a) : Statement (.gstat d a) := of_some rfl (append_bit _ _ (by decide))
theorem mpush (d a) : Statement (.mpush d a) := of_some rfl (append_bit _ _ (by decide))
theorem mpop (d) : Statement (.mpop d) := of_some rfl (append_bit _ _ (by decide))
theorem mwait (d a) : Statement (.mwait d a) := of_some rfl (append_bit _ _ (by decide))
theorem mstat (d a) : Statement (.mstat d a) := of_some rfl (append_bit _ _ (by decide))
theorem msplit (a) : Statement (.msplit a) := of_some rfl (append_bit _ _ (by decide))
theorem rgdef (a k) : Statement (.rgdef a k) := of_some rfl (append_bit _ _ (by decide))
theorem rgpush (a k) : Statement (.rgpush a k) := of_some rfl (append_bit _ _ (by decide))
theorem rgstat (d k) : Statement (.rgstat d k) := of_some rfl (append_bit _ _ (by decide))
theorem rgrst (k) : Statement (.rgrst k) := of_some rfl (append_bit _ _ (by decide))
theorem qpush (a n) : Statement (.qpush a n) := of_some rfl (append_bit _ _ (by decide))
theorem qpop (d n) : Statement (.qpop d n) := of_some rfl (append_bit _ _ (by decide))
theorem qpeek (d n) : Statement (.qpeek d n) := of_some rfl (append_bit _ _ (by decide))
theorem qtry (d a n) : Statement (.qtry d a n) := of_some rfl (append_bit _ _ (by decide))
theorem qtryp (d a n) : Statement (.qtryp d a n) := of_some rfl (append_bit _ _ (by decide))
theorem qbind (a n) : Statement (.qbind a n) := of_some rfl (append_bit _ _ (by decide))
theorem qstat (d n) : Statement (.qstat d n) := of_some rfl (append_bit _ _ (by decide))
theorem sopen (d a p) : Statement (.sopen d a p) := of_some rfl (append_bit _ _ (by decide))
theorem sclose (p) : Statement (.sclose p) := of_some rfl (append_bit _ _ (by decide))
theorem sstat (d p) : Statement (.sstat d p) := of_some rfl (append_bit _ _ (by decide))
theorem send (d a) : Statement (.send d a) := of_some rfl (append_bit _ _ (by decide))
theorem send4 (d a) : Statement (.send4 d a) := of_some rfl (append_bit _ _ (by decide))
theorem send1 (d a) : Statement (.send1 d a) := of_some rfl (append_bit _ _ (by decide))
theorem reply (d a) : Statement (.reply d a) := of_some rfl (append_bit _ _ (by decide))
theorem mbxdef (a b) : Statement (.mbxdef a b) := of_some rfl (append_bit _ _ (by decide))
theorem bind (a b c) : Statement (.bind a b c) := of_some rfl (append_bit _ _ (by decide))
theorem unbind (b c) : Statement (.unbind b c) := of_some rfl (append_bit _ _ (by decide))
theorem suspend (a) : Statement (.suspend a) := of_some rfl (append_bit _ _ (by decide))
theorem resumec (d a m) : Statement (.resumec d a m) := of_some rfl (append_bit _ _ (by decide))
theorem recv (d b) : Statement (.recv d b) := of_some rfl (append_bit _ _ (by decide))
theorem xfer (d a) : Statement (.xfer d a) := of_some rfl (append_bit _ _ (by decide))
theorem xmcast (d a) : Statement (.xmcast d a) := of_some rfl (append_bit _ _ (by decide))
theorem xfree (a) : Statement (.xfree a) := of_some rfl (append_bit _ _ (by decide))
theorem xwait (d a) : Statement (.xwait d a) := of_some rfl (append_bit _ _ (by decide))
theorem xstat (d a) : Statement (.xstat d a) := of_some rfl (append_bit _ _ (by decide))
theorem rfork (a) : Statement (.rfork a) := of_some rfl (append_bit _ _ (by decide))
theorem join (a) : Statement (.join a) := of_some rfl (append_bit _ _ (by decide))
theorem klaunch (d a) : Statement (.klaunch d a) := of_some rfl (append_bit _ _ (by decide))
theorem kstat (d a) : Statement (.kstat d a) := of_some rfl (append_bit _ _ (by decide))
theorem dlget (d a) : Statement (.dlget d a) := of_some rfl (append_bit _ _ (by decide))
theorem wrapdone (a) : Statement (.wrapdone a) := of_some rfl (append_bit _ _ (by decide))
theorem budget (d a) : Statement (.budget d a) := of_some rfl (append_bit _ _ (by decide))
theorem barinit (d a l n) : Statement (.barinit d a l n) := of_some rfl (append_bit _ _ (by decide))
theorem bararr (d a l n) : Statement (.bararr d a l n) := of_some rfl (append_bit _ _ (by decide))
theorem barwait (d a l n) : Statement (.barwait d a l n) := of_some rfl (append_bit _ _ (by decide))
theorem bararw (d a l n) : Statement (.bararw d a l n) := of_some rfl (append_bit _ _ (by decide))
theorem bartest (d a l n) : Statement (.bartest d a l n) := of_some rfl (append_bit _ _ (by decide))
theorem shget (d a n) : Statement (.shget d a n) := of_some rfl (append_bit _ _ (by decide))
theorem shslice (d n) : Statement (.shslice d n) := of_some rfl (append_bit _ _ (by decide))
theorem shrec (d n) : Statement (.shrec d n) := of_some rfl (append_bit _ _ (by decide))
theorem creg (d a) : Statement (.creg d a) := of_some rfl (append_bit _ _ (by decide))
theorem cpost (d a) : Statement (.cpost d a) := of_some rfl (append_bit _ _ (by decide))
theorem cstat (d a) : Statement (.cstat d a) := of_some rfl (append_bit _ _ (by decide))
theorem cdereg (a) : Statement (.cdereg a) := of_some rfl (append_bit _ _ (by decide))
theorem csrr (d c) : Statement (.csrr d c) := of_some rfl (append_bit _ _ (by decide))
theorem csrw (a c) : Statement (.csrw a c) := of_some rfl (append_bit _ _ (by decide))
theorem csrs (a c) : Statement (.csrs a c) := of_some rfl (append_bit _ _ (by decide))
theorem csrc (a c) : Statement (.csrc a c) := of_some rfl (append_bit _ _ (by decide))
theorem trap (c) : Statement (.trap c) := of_some rfl (append_bit _ _ (by decide))
theorem wfe (a) : Statement (.wfe a) := of_some rfl (append_bit _ _ (by decide))
theorem brk (c) : Statement (.brk c) := of_some rfl (append_bit _ _ (by decide))
theorem ctxsave (d a) : Statement (.ctxsave d a) := of_some rfl (append_bit _ _ (by decide))
theorem ctxload (d a) : Statement (.ctxload d a) := of_some rfl (append_bit _ _ (by decide))
theorem ldWCompact (d z k) : Statement (.ldWCompact d z k) := of_some rfl (append_bit _ _ (by decide))
theorem ldDCompact (d z k) : Statement (.ldDCompact d z k) := of_some rfl (append_bit _ _ (by decide))
theorem stWCompact (t z k) : Statement (.stWCompact t z k) := of_some rfl (append_bit _ _ (by decide))
theorem stDCompact (t z k) : Statement (.stDCompact t z k) := of_some rfl (append_bit _ _ (by decide))
theorem qpopCompact (d n) : Statement (.qpopCompact d n) := of_some rfl (append_bit _ _ (by decide))
theorem qpushCompact (n z) : Statement (.qpushCompact n z) := of_some rfl (append_bit _ _ (by decide))
theorem mov (d z) : Statement (.mov d z) := of_some rfl (append_bit _ _ (by decide))
theorem li (d n) : Statement (.li d n) := of_some rfl (append_bit _ _ (by decide))
theorem addCompact (d z) : Statement (.addCompact d z) := of_some rfl (append_bit _ _ (by decide))
theorem subCompact (d z) : Statement (.subCompact d z) := of_some rfl (append_bit _ _ (by decide))
theorem addiCompact (d n) : Statement (.addiCompact d n) := of_some rfl (append_bit _ _ (by decide))
theorem andCompact (d z) : Statement (.andCompact d z) := of_some rfl (append_bit _ _ (by decide))
theorem orCompact (d z) : Statement (.orCompact d z) := of_some rfl (append_bit _ _ (by decide))
theorem xorCompact (d z) : Statement (.xorCompact d z) := of_some rfl (append_bit _ _ (by decide))
theorem slliCompact (d h) : Statement (.slliCompact d h) := of_some rfl (append_bit _ _ (by decide))
theorem srliCompact (d h) : Statement (.srliCompact d h) := of_some rfl (append_bit _ _ (by decide))
theorem sraiCompact (d h) : Statement (.sraiCompact d h) := of_some rfl (append_bit _ _ (by decide))
theorem beqz (z o) : Statement (.beqz z o) := of_some rfl (append_bit _ _ (by decide))
theorem bnez (z o) : Statement (.bnez z o) := of_some rfl (append_bit _ _ (by decide))
theorem jCompact (o) : Statement (.jCompact o) := of_some rfl (append_bit _ _ (by decide))
theorem ungang : Statement .ungang := of_some rfl (append_bit _ _ (by decide))
theorem done : Statement .done := of_some rfl (append_bit _ _ (by decide))
theorem xret : Statement .xret := of_some rfl (append_bit _ _ (by decide))
theorem shfence : Statement .shfence := of_some rfl (append_bit _ _ (by decide))
theorem nop : Statement .nop := of_some rfl (append_bit _ _ (by decide))
theorem utret : Statement .utret := of_some rfl (append_bit _ _ (by decide))
theorem seqsync : Statement .seqsync := of_some rfl (append_bit _ _ (by decide))
theorem tret : Statement .tret := of_some rfl (append_bit _ _ (by decide))
theorem halt : Statement .halt := of_some rfl (append_bit _ _ (by decide))
theorem tlbinv : Statement .tlbinv := of_some rfl (append_bit _ _ (by decide))
theorem bkclr : Statement .bkclr := of_some rfl (append_bit _ _ (by decide))
theorem ownset : Statement .ownset := of_some rfl (append_bit _ _ (by decide))
theorem mspill : Statement .mspill := of_some rfl (append_bit _ _ (by decide))
theorem mfill : Statement .mfill := of_some rfl (append_bit _ _ (by decide))
theorem rothold : Statement .rothold := of_some rfl (append_bit _ _ (by decide))
theorem nopCompact : Statement .nopCompact := of_some rfl (append_bit _ _ (by decide))
theorem ret : Statement .ret := of_some rfl (append_bit _ _ (by decide))
theorem doneCompact : Statement .doneCompact := of_some rfl (append_bit _ _ (by decide))
theorem brkCompact : Statement .brkCompact := of_some rfl (append_bit _ _ (by decide))
theorem mma (core ten) : Statement (.mma core ten) := of_none rfl
theorem mmas (core ten) : Statement (.mmas core ten) := of_none rfl
theorem mzero (core ten) : Statement (.mzero core ten) := of_none rfl
theorem mldacc (core ten) : Statement (.mldacc core ten) := of_none rfl
theorem mstacc (core ten) : Statement (.mstacc core ten) := of_none rfl
theorem mperm (core ten) : Statement (.mperm core ten) := of_none rfl
theorem retire (core ten) : Statement (.retire core ten) := of_none rfl
theorem completionPost (core owner ten) : Statement (.completionPost core owner ten) := of_none rfl
theorem matrixStep (stack pair col tc) : Statement (.matrixStep stack pair col tc) := of_none rfl
theorem performHeadEntry (core) : Statement (.performHeadEntry core) := of_none rfl
theorem writeBack (core n) : Statement (.writeBack core n) := of_none rfl
theorem dropCleanCopy (stack addr) : Statement (.dropCleanCopy stack addr) := of_none rfl
theorem performPostedStore (core n) : Statement (.performPostedStore core n) := of_none rfl
theorem memoryReply (core slot) : Statement (.memoryReply core slot) := of_none rfl
theorem hostCompletion (n) : Statement (.hostCompletion n) := of_none rfl
theorem packetDrop (k core n srcOk) : Statement (.packetDrop k core n srcOk) := of_none rfl
theorem classStarvation (out cls) : Statement (.classStarvation out cls) := of_none rfl
theorem issueStarvation (core slot) : Statement (.issueStarvation core slot) := of_none rfl
theorem messageArrival (n) : Statement (.messageArrival n) := of_none rfl
theorem messageStatus (core slot) : Statement (.messageStatus core slot) := of_none rfl
theorem pondMove (core owner) : Statement (.pondMove core owner) := of_none rfl
theorem dispatch (core) : Statement (.dispatch core) := of_none rfl
theorem mbxovf : Statement .mbxovf := of_none rfl
theorem headFlit (core port) : Statement (.headFlit core port) := of_none rfl
theorem streamWord (core port) : Statement (.streamWord core port) := of_none rfl
theorem marker (core port) : Statement (.marker core port) := of_none rfl
theorem attach (owner qcb shadow32 shadow40) : Statement (.attach owner qcb shadow32 shadow40) := of_none rfl
theorem doorbell (owner ring) : Statement (.doorbell owner ring) := of_none rfl
theorem ringPoll (owner ring) : Statement (.ringPoll owner ring) := of_none rfl
theorem placementPass (owner) : Statement (.placementPass owner) := of_none rfl
theorem successorList (owner kid) : Statement (.successorList owner kid) := of_none rfl
theorem deadlineExpiry (owner kid) : Statement (.deadlineExpiry owner kid) := of_none rfl
theorem diversion : Statement .diversion := of_none rfl
theorem wrapupBudgetExpiry (owner kid) : Statement (.wrapupBudgetExpiry owner kid) := of_none rfl
theorem budgetExpiry : Statement .budgetExpiry := of_none rfl
theorem lateFault : Statement .lateFault := of_none rfl
theorem wfeTimeout (core slot) : Statement (.wfeTimeout core slot) := of_none rfl
theorem hangWatchdog (core) : Statement (.hangWatchdog core) := of_none rfl
theorem transferRequest (n) : Statement (.transferRequest n) := of_none rfl
theorem xovfIntake (streamer) : Statement (.xovfIntake streamer) := of_none rfl
theorem transferStart (n) : Statement (.transferStart n) := of_none rfl
theorem transferCompletion (n) : Statement (.transferCompletion n) := of_none rfl
theorem transferInterrupt : Statement .transferInterrupt := of_none rfl
theorem freeIncrement (owner n tile) : Statement (.freeIncrement owner n tile) := of_none rfl
theorem faultRetry (stack n) : Statement (.faultRetry stack n) := of_none rfl
theorem duePoint (stack) : Statement (.duePoint stack) := of_none rfl
theorem deferralEnd (stack) : Statement (.deferralEnd stack) := of_none rfl
theorem rotationPause (stack resends) : Statement (.rotationPause stack resends) := of_none rfl
theorem holdExpiry (stack n) : Statement (.holdExpiry stack n) := of_none rfl
theorem swapRequest (stack pos owner) : Statement (.swapRequest stack pos owner) := of_none rfl
theorem ownerSwap (stack pos) : Statement (.ownerSwap stack pos) := of_none rfl
theorem portTraining (port) : Statement (.portTraining port) := of_none rfl
theorem trainingEnd (port lanes) : Statement (.trainingEnd port lanes) := of_none rfl
theorem laneFailure (port) : Statement (.laneFailure port) := of_none rfl
theorem portStop (port) : Statement (.portStop port) := of_none rfl
theorem collectiveStart (owner handle remote) : Statement (.collectiveStart owner handle remote) := of_none rfl
theorem collectiveEnd (owner handle lost) : Statement (.collectiveEnd owner handle lost) := of_none rfl
theorem hostRead (slot off len) : Statement (.hostRead slot off len) := of_none rfl
theorem hostWrite (slot off bytes) : Statement (.hostWrite slot off bytes) := of_none rfl
theorem hostAtomic (op slot off size x y) : Statement (.hostAtomic op slot off size x y) := of_none rfl
theorem coldStart (st) : Statement (.coldStart st) := of_none rfl
theorem warmStart (st) : Statement (.warmStart st) := of_none rfl
theorem startTimeout : Statement .startTimeout := of_none rfl
theorem configurationRecord (a b c) : Statement (.configurationRecord a b c) := of_none rfl
theorem attestationRequest (nonce) : Statement (.attestationRequest nonce) := of_none rfl
theorem debugToken (token) : Statement (.debugToken token) := of_none rfl
theorem debugLevelSet (level) : Statement (.debugLevelSet level) := of_none rfl
theorem debuggerAccess (core slot reg write) : Statement (.debuggerAccess core slot reg write) := of_none rfl
theorem debuggerResume (core slot) : Statement (.debuggerResume core slot) := of_none rfl
theorem idleEntry (stack) : Statement (.idleEntry stack) := of_none rfl
theorem idleExit (stack) : Statement (.idleExit stack) := of_none rfl
theorem retentionEntry : Statement .retentionEntry := of_none rfl
theorem retentionExit : Statement .retentionExit := of_none rfl
theorem powerOff : Statement .powerOff := of_none rfl
theorem errorContainment (owner kind loc) : Statement (.errorContainment owner kind loc) := of_none rfl
theorem scrub (addr read corrected) : Statement (.scrub addr read corrected) := of_none rfl
theorem zeroFill (core sub) : Statement (.zeroFill core sub) := of_none rfl
theorem powerMeasurement (draw hot) : Statement (.powerMeasurement draw hot) := of_none rfl
theorem capFrame (etherType frame) : Statement (.capFrame etherType frame) := of_none rfl
theorem ptpMessage (m) : Statement (.ptpMessage m) := of_none rfl
theorem managementWrite (reg) : Statement (.managementWrite reg) := of_none rfl
theorem unassignedEncoding (w) : Statement (.unassignedEncoding w) := of_none rfl
theorem fetchFault : Statement .fetchFault := of_none rfl
theorem vectorCompletion (core slot) : Statement (.vectorCompletion core slot) := of_none rfl
theorem holdover : Statement .holdover := of_none rfl
theorem ownerCreation (spec) : Statement (.ownerCreation spec) := of_none rfl
theorem ownerWithdrawal (owner pos) : Statement (.ownerWithdrawal owner pos) := of_none rfl
theorem participantRegistration (p) : Statement (.participantRegistration p) := of_none rfl
theorem participantDeregistration (dom name index) : Statement (.participantDeregistration dom name index) := of_none rfl

end Sys2Proof.Laws.Length
end

