-- ==== Sys2Proof/Laws/Sign.lean ====
section
/-! SUPPORT. Signatures that verify exist: whoever makes a key of the SLH-DSA parameter set by building its top tree can sign any
message under it (R371). The lower trees play no part in whether a signature verifies, so the one made here has zeros there. -/

namespace Sys2Proof.Machine.Sign

theorem sha256_length (m : List Byte) : (sha256 m).length = 32 := by simp [sha256, Sha.beBytes]

theorem tweak_length (seed ad m : List Byte) : (tweak seed ad m).length = 16 := by simp [tweak, sha256_length]

/-- A chain of `a + b` steps is `b` steps from where `a` steps end. -/
theorem chain_add (seed : List Byte) (ad : Nat → List Byte) (a b i : Nat) (x : List Byte) :
    chain seed ad (a + b) i x = chain seed ad b (i + a) (chain seed ad a i x) := by
  induction a generalizing i x with
  | zero => simp [chain]
  | succ a ih => rw [Nat.succ_add, chain, ih, chain, Nat.succ_add_eq_add_succ]

theorem chain_length (seed : List Byte) (ad : Nat → List Byte) (n i : Nat) {x : List Byte} (h : x.length = 16) :
    (chain seed ad n i x).length = 16 := by
  induction n generalizing i x with
  | zero => exact h
  | succ n ih => exact ih (i + 1) (tweak_length ..)

/-- The strings of 16 bytes that a signature joins are its parts. -/
theorem part_flatten (l : List (List Byte)) (h : ∀ x ∈ l, x.length = 16) (i : Nat) (hi : i < l.length) :
    part l.flatten i = l[i] := by
  induction l generalizing i with
  | nil => simp at hi
  | cons a l ih =>
    have ha : a.length = 16 := h a (by simp)
    cases i with
    | zero => simp [part, ha]
    | succ i =>
      have e : 16 * (i + 1) = a.length + 16 * i := by omega
      have := ih (fun x hx => h x (by simp [hx])) i (by simpa using hi)
      simp only [part, List.flatten_cons, List.getElem_cons_succ, e, List.drop_append, List.drop_eq_nil_of_le (Nat.le_add_right ..),
        List.nil_append, Nat.add_sub_cancel_left] at this ⊢
      exact this

theorem digits_length (m : List Byte) : (digits m).length = 2 * m.length + 3 := by
  have : ((m.map fun b => [b.toNat / 16, b.toNat % 16]).flatten).length = 2 * m.length := by
    induction m with
    | nil => rfl
    | cons b m ih => simp only [List.map_cons, List.flatten_cons, List.length_append, List.length_cons, List.length_nil, ih]; omega
  simp [digits, this]

/-- Every digit of a message of 16 bytes, and of its checksum, lies below 16. -/
theorem digits_le (m : List Byte) (h : m.length = 16) : ∀ d ∈ digits m, d ≤ 15 := by
  have sums (l : List Nat) (n : Nat) : l.foldl (fun n d => n + (15 - d)) n ≤ n + 15 * l.length := by
    induction l generalizing n with
    | nil => simp
    | cons a l ih =>
      have := ih (n + (15 - a))
      simp only [List.foldl_cons, List.length_cons]
      omega
  have hl := digits_length m
  intro d hd
  simp only [digits] at hd hl
  set ds := (m.map fun b => [b.toNat / 16, b.toNat % 16]).flatten with hds
  have len : ds.length = 32 := by simp at hl; omega
  have hs := sums ds 0
  rw [len] at hs
  simp only [List.mem_append, List.mem_cons, List.not_mem_nil, or_false] at hd
  rcases hd with hd | rfl | rfl | rfl
  · rw [hds] at hd
    simp only [List.mem_flatten, List.mem_map] at hd
    obtain ⟨_, ⟨b, -, rfl⟩, hd⟩ := hd
    have := b.isLt
    simp only [List.mem_cons, List.not_mem_nil, or_false] at hd
    omega
  all_goals omega

/-! ### A signer whose secret strings are zeros -/

def zero16 : List Byte := List.replicate 16 0

/-- The end of a chain of a leaf. -/
def chainEnd (seed : List Byte) (layer tree leaf i : Nat) : List Byte :=
  chain seed (fun j => adrs layer tree 0 leaf i j) 15 0 zero16

/-- A node of a tree. -/
def node (seed : List Byte) (layer tree : Nat) : Nat → Nat → List Byte
  | 0, i => tweak seed (adrs layer tree 1 i 0 0) ((List.range 35).map (chainEnd seed layer tree i)).flatten
  | h + 1, i => tweak seed (adrs layer tree 2 0 (h + 1) i) (node seed layer tree h (2 * i) ++ node seed layer tree h (2 * i + 1))

theorem node_length (seed : List Byte) (layer tree h i : Nat) : (node seed layer tree h i).length = 16 := by
  cases h <;> exact tweak_length ..

/-- The signature of a message of 16 bytes at a leaf. -/
def wotsSign (seed : List Byte) (layer tree leaf : Nat) (m : List Byte) : List Byte :=
  ((digits m).mapIdx fun i d => chain seed (fun j => adrs layer tree 0 leaf i j) d 0 zero16).flatten

theorem wotsParts (seed : List Byte) (layer tree leaf : Nat) (m : List Byte) :
    ∀ x ∈ (digits m).mapIdx fun i d => chain seed (fun j => adrs layer tree 0 leaf i j) d 0 zero16, x.length = 16 := by
  intro x hx
  rw [List.mem_mapIdx] at hx
  obtain ⟨i, hi, rfl⟩ := hx
  exact chain_length _ _ _ _ (by simp [zero16])

theorem length_flatten16 (l : List (List Byte)) (h : ∀ x ∈ l, x.length = 16) : l.flatten.length = 16 * l.length := by
  induction l with
  | nil => rfl
  | cons a l ih =>
    have := ih fun x hx => h x (by simp [hx])
    have ha := h a (by simp)
    simp only [List.flatten_cons, List.length_append, List.length_cons]
    omega

theorem wotsSign_length (seed : List Byte) (layer tree leaf : Nat) (m : List Byte) (h : m.length = 16) :
    (wotsSign seed layer tree leaf m).length = 560 := by
  rw [wotsSign, length_flatten16 _ (wotsParts seed layer tree leaf m), List.length_mapIdx, digits_length, h]

theorem wotsKey_sign (seed : List Byte) (layer tree leaf : Nat) (m : List Byte) (h : m.length = 16) :
    wotsKey seed layer tree leaf (wotsSign seed layer tree leaf m) m = node seed layer tree 0 leaf := by
  simp only [wotsKey, node]
  congr 2
  refine List.ext_getElem (by simp [digits_length, h]) fun i h1 h2 => ?_
  have hi : i < (digits m).length := by simpa using h1
  simp only [List.getElem_mapIdx, List.getElem_map, List.getElem_range, wotsSign]
  rw [part_flatten _ (wotsParts seed layer tree leaf m) i (by simpa using hi), List.getElem_mapIdx]
  have hd := digits_le m h _ (List.getElem_mem hi)
  have := chain_add seed (fun j => adrs layer tree 0 leaf i j) (digits m)[i] (15 - (digits m)[i]) 0 zero16
  rw [Nat.zero_add, Nat.add_sub_cancel' hd] at this
  exact this.symm

/-- The brother of a node. -/
def brother (i : Nat) : Nat := if i % 2 = 0 then i + 1 else i - 1

/-- The path of a leaf: the brothers on its way to the root. -/
def pathOf (seed : List Byte) (layer tree n leaf : Nat) : List Byte :=
  ((List.range n).map fun j => node seed layer tree j (brother (leaf / 2 ^ j))).flatten

theorem climb_node (seed : List Byte) (layer tree : Nat) (path : List Byte) (n j i : Nat)
    (h : ∀ k < n, part path (j + k) = node seed layer tree (j + k) (brother (i / 2 ^ k))) :
    climb seed (fun j i => adrs layer tree 2 0 j i) path n j i (node seed layer tree j i) = node seed layer tree (j + n) (i / 2 ^ n) := by
  induction n generalizing j i with
  | zero => simp [climb]
  | succ n ih =>
    have h0 := h 0 (Nat.succ_pos n)
    have step : tweak seed (adrs layer tree 2 0 (j + 1) (i / 2))
        (if i % 2 = 0 then node seed layer tree j i ++ part path j else part path j ++ node seed layer tree j i)
        = node seed layer tree (j + 1) (i / 2) := by
      simp only [Nat.add_zero, pow_zero, Nat.div_one, brother] at h0
      rw [h0, node]
      split
      · rw [show 2 * (i / 2) = i by omega]
      · rw [show 2 * (i / 2) = i - 1 by omega, show i - 1 + 1 = i by omega]
    rw [climb, step, ih (j + 1) (i / 2) fun k hk => by
      have := h (k + 1) (by omega)
      rw [Nat.pow_succ', ← Nat.div_div_eq_div_mul] at this
      rw [show j + 1 + k = j + (k + 1) by omega]
      exact this]
    rw [Nat.div_div_eq_div_mul, ← Nat.pow_succ', show j + 1 + n = j + (n + 1) by omega]

theorem pathParts (seed : List Byte) (layer tree n leaf : Nat) :
    ∀ x ∈ (List.range n).map fun j => node seed layer tree j (brother (leaf / 2 ^ j)), x.length = 16 := by
  intro x hx
  rw [List.mem_map] at hx
  obtain ⟨j, -, rfl⟩ := hx
  exact node_length ..

/-- A signature with its path gives the root of its tree. -/
theorem xmssRoot_sign (seed : List Byte) (layer tree leaf : Nat) (m : List Byte) (h : m.length = 16) (hl : leaf < 2 ^ 9) :
    xmssRoot seed layer tree leaf (wotsSign seed layer tree leaf m ++ pathOf seed layer tree 9 leaf) m = node seed layer tree 9 0 := by
  have e := wotsSign_length seed layer tree leaf m h
  rw [xmssRoot, List.take_left' e, List.drop_left' e, wotsKey_sign _ _ _ _ _ h, climb_node _ _ _ _ 9 0 leaf, Nat.zero_add,
    Nat.div_eq_of_lt hl]
  intro k hk
  rw [Nat.zero_add, pathOf, part_flatten _ (pathParts seed layer tree 9 leaf) k (by simpa using hk)]
  simp

theorem climb_length (seed : List Byte) (ad : Nat → Nat → List Byte) (path : List Byte) (n j i : Nat) {x : List Byte}
    (h : x.length = 16) : (climb seed ad path n j i x).length = 16 := by
  induction n generalizing j i x with
  | zero => exact h
  | succ n ih => exact ih _ _ (tweak_length ..)

/-- Whatever stands in the lower layers, the top one signs some string of 16 bytes at some leaf. -/
theorem hyperRoot_top (seed : List Byte) (n layer tree leaf : Nat) (low m : List Byte) (hm : m.length = 16) (hl : leaf < 2 ^ 9)
    (hlow : low.length = 704 * n) : ∃ M L, M.length = 16 ∧ L < 2 ^ 9 ∧ ∀ top : List Byte, top.length = 704 →
      hyperRoot seed (n + 1) layer tree leaf (low ++ top) m = xmssRoot seed (layer + n) (tree / 2 ^ (9 * n)) L top M := by
  induction n generalizing layer tree leaf low m with
  | zero =>
    refine ⟨m, leaf, hm, hl, fun top ht => ?_⟩
    obtain rfl : low = [] := List.length_eq_zero_iff.1 (by simpa using hlow)
    simp [hyperRoot, List.take_of_length_le (Nat.le_of_eq ht)]
  | succ n ih =>
    obtain ⟨M, L, h1, h2, h3⟩ := ih (layer + 1) (tree / 2 ^ 9) (tree % 2 ^ 9) (low.drop 704)
      (xmssRoot seed layer tree leaf (low.take 704) m) (climb_length _ _ _ _ _ _ (tweak_length ..)) (Nat.mod_lt _ (by decide))
      (by simp [hlow]; omega)
    refine ⟨M, L, h1, h2, fun top ht => ?_⟩
    have hle : 704 ≤ low.length := by omega
    rw [hyperRoot, List.drop_append_of_le_length hle, List.take_append_of_le_length hle, h3 top ht, Nat.div_div_eq_div_mul,
      ← Nat.pow_add, show layer + 1 + n = layer + (n + 1) by omega, show 9 + 9 * n = 9 * (n + 1) by omega]

/-- A key: the public seed, and the root of the top tree. -/
def honestKey (seed : List Byte) : List Byte := seed ++ node seed 6 0 9 0

/-- Every message has a signature that verifies under that key. -/
theorem slhVerify_honest (k : SignKeys) (seed m : List Byte) (hs : seed.length = 16) (hk : k.slh = honestKey seed) :
    ∃ sig, slhVerify k m sig = true := by
  have h1 : k.slh.take 16 = seed := by rw [hk, honestKey, List.take_left' hs]
  have h2 : k.slh.drop 16 = node seed 6 0 9 0 := by rw [hk, honestKey, List.drop_left' hs]
  have h3 : k.slh.length = 32 := by rw [hk, honestKey, List.length_append, hs, node_length]
  obtain ⟨low, hlow⟩ : ∃ low : List Byte, low.length = 704 * 6 := ⟨List.replicate _ 0, List.length_replicate⟩
  obtain ⟨head, hhead⟩ : ∃ head : List Byte, head.length = 2928 := ⟨List.replicate _ 0, List.length_replicate⟩
  let r := head.take 16
  let d := mgf1 sha256 (r ++ seed ++ sha256 (r ++ k.slh ++ 0#8 :: 0#8 :: m)) 1 30
  let tree := Sha.ofBe ((d.drop 21).take 7) % 2 ^ 54
  let leaf := Sha.ofBe (d.drop 28) % 2 ^ 9
  obtain ⟨M, L, hM, hL, h⟩ := hyperRoot_top seed 6 0 tree leaf low (forsKey seed tree leaf ((head.drop 16).take 2912) (d.take 21))
    (tweak_length ..) (Nat.mod_lt _ (by decide)) hlow
  let top := wotsSign seed 6 0 L M ++ pathOf seed 6 0 9 L
  have ht : top.length = 704 := by
    simp only [top, List.length_append, wotsSign_length _ _ _ _ _ hM, pathOf, length_flatten16 _ (pathParts seed 6 0 9 L),
      List.length_map, List.length_range]
  have htree : tree / 2 ^ (9 * 6) = 0 := Nat.div_eq_of_lt (Nat.mod_lt _ (by decide))
  have e := h top ht
  rw [htree, Nat.zero_add, xmssRoot_sign _ _ _ _ _ hM hL] at e
  refine ⟨head ++ (low ++ top), ?_⟩
  have g1 : (head ++ (low ++ top)).take 16 = r := List.take_append_of_le_length (by omega)
  have g2 : ((head ++ (low ++ top)).drop 16).take 2912 = (head.drop 16).take 2912 := by
    rw [List.drop_append_of_le_length (by omega), List.take_append_of_le_length (by rw [List.length_drop]; omega)]
  have g3 : (head ++ (low ++ top)).drop 2928 = low ++ top := List.drop_left' hhead
  have g4 : (head ++ (low ++ top)).length = 7856 := by simp [hhead, hlow, ht]
  simp only [slhVerify, h1, h2, h3, g1, g2, g3, g4, beq_self_eq_true, Bool.true_and, beq_iff_eq]
  exact e

end Sys2Proof.Machine.Sign
end

