-- ==== Sys2Proof/Tests/Slice0.lean ====
section
/-! SUPPORT. Small tests of the model: the static rules refuse what breaks them, words written out from the spec's encodings
decode to the instructions they stand for, single steps give what the rules' tables and examples say, and for every
statement of the certificates a state and operands that meet its hypotheses, clause by clause. -/

namespace Sys2Proof.Tests

open Sys2Proof Sys2Proof.Machine

set_option maxRecDepth 20000

/-! ### Small states -/

/-- A pointer from its format code, block length code and address (R24). -/
def mkPtr (f b a : Nat) : Word := BitVec.ofNat 64 (f * 2 ^ 58 + b * 2 ^ 54 + a)

/-- A user-mode thread of owner 1, with 64 registers and 32 vectors. -/
def th : Thread := { st := .running, uid := 1, owner := 1, kid := 1, pc := 0x1000#64, wsz := 2, vsz := 3, g := [(1, 5), (2, 7)] }

/-- The context of owner 1 on core 0: one sub-bank granted. -/
def cx : Ctx := { lscap := 1, banks := [(0, 0)] }

def sub : SubBank := { tag := 1, valid := { dflt := true } }

/-- Core 0 with one thread in slot 0. -/
def co (t : Thread) : Core := { threads := [(0, t)], ctxs := [(1, cx)], active := 1, subs := [(0, sub)] }

def ow : Owner := { grants := [⟨0, 0, 0⟩], svroot := 0x10000 }

/-- A machine with owner 1 and one thread on core 0. -/
def one (t : Thread) : State := { cores := [(0, co t)], owners := [(1, ow)], nextUid := 5 }

/-- The same with another core, another context or another owner's state. -/
def oneCore (t : Thread) (f : Core → Core) : State := { one t with cores := [(0, f (co t))] }
def oneCtx (t : Thread) (f : Ctx → Ctx) : State := oneCore t fun c => { c with ctxs := [(1, f cx)] }
def oneOwner (t : Thread) (f : Owner → Owner) : State := { one t with owners := [(1, f ow)] }

/-- A byte address in the first sub-bank of core 0. -/
def ls (n : Nat) : Nat := lsKey 0 0 n

/-- The cells of little-endian values, each a place, a width and a value, in rising order of places. -/
def cells (l : List (Nat × Nat × Nat)) : List (Nat × Byte) :=
  l.flatMap fun x => ((leBytes x.2.1 x.2.2).mapIdx fun i b => (x.1 + i, b)).filter fun c => c.2 != 0

/-- A leaf of an owner's table (R324): tier, base, flags; readable and writable. -/
def leaf (o tier base flags : Nat) : Nat := o * 2 ^ 48 + base + flags + tier * 512 + 3

/-- A root, a middle table and one table of leaves of 1 GiB for an owner: HBM, LPDDR, host, a pinned page of HBM. -/
def tables (o root : Nat) : List (Nat × Nat × Nat) :=
  [(root, 8, o * 2 ^ 48 + (root + 0x1000) + 1), (root + 0x1000, 8, o * 2 ^ 48 + (root + 0x2000) + 1),
   (root + 0x2000, 8, leaf o 0 0x40000000 0x1C), (root + 0x2008, 8, leaf o 1 0 0x1C), (root + 0x2010, 8, leaf o 2 0 0x1C),
   (root + 0x2018, 8, leaf o 0 0x80000000 0x4C)]

def paged (s : State) : State := { s with mem := cells (tables 1 0 ++ tables 0 0x10000) }

def gib : Nat := 2 ^ 30

/-- An act that goes on, with a test of what it gives. -/
def ok {α : Type} (a : Act α) (p : α → State → Bool) : Bool :=
  match a with
  | .ok x s => p x s
  | _ => false

/-- A step that goes on, with a test of the state it gives. -/
def nx (o : Out) (p : State → Bool) : Bool :=
  match o with
  | .next s => p s
  | _ => false

/-! ### Hypotheses of the statements about scalar instructions -/

theorem witness_RegisterZeroReadsZeroAndDiscardsWrites : Issues (one th) [G (0 : BitVec 6), G (63 : BitVec 6), G (0 : BitVec 6)] [] := by
  unfold Issues
  decide

theorem witness_IntegerResults : Issues (one th) [G (63 : BitVec 6), G (1 : BitVec 6), G (0 : BitVec 6)] [] ∧ Issues (one th) [G (63 : BitVec 6), G (1 : BitVec 6)] [] := by
  unfold Issues
  decide

theorem witness_CompactResults : Issues (one th) [G (15 : BitVec 4), G (0 : BitVec 4)] [] := by
  unfold Issues
  decide

/-- A PC with room for the offsets on both sides, and the two ends of the address part. -/
theorem witness_CompactResults_branch : isFollower (one th) = false ∧ (thr (one th)).pc.getLsbD 63 = false ∧ Issues (one th) [G (15 : BitVec 4)] [] ∧
    Issues (one th) [] [] ∧
    (0 ≤ ((0x40 : Nat) : Int) + 2 * (-32 : BitVec 6).toInt ∧ ((2 ^ 52 - 64 : Nat) : Int) + 2 * (31 : BitVec 6).toInt < 2 ^ 52) ∧
    (0 ≤ ((0x400 : Nat) : Int) + 2 * (-512 : BitVec 10).toInt ∧ ((2 ^ 52 - 1024 : Nat) : Int) + 2 * (511 : BitVec 10).toInt < 2 ^ 52) := by
  unfold Issues
  decide

theorem witness_MultiplyDivideAndBitResults : Issues (one th) [G (63 : BitVec 6), G (1 : BitVec 6), G (0 : BitVec 6)] [] := by
  unfold Issues
  decide

/-- A pointer of each element width, one of format ECF8, one of a block format, one of a reserved format. -/
theorem witness_PointerResults : Issues (one th) [G (63 : BitVec 6), G (1 : BitVec 6), G (0 : BitVec 6)] [] ∧
    (fmtBits (ptrFmt (mkPtr 0x18 5 0)) = 8 * 1 ∧ fmtBits (ptrFmt (mkPtr 0x03 0 0)) = 8 * 2 ∧
      fmtBits (ptrFmt (mkPtr 0x04 0 0)) = 8 * 4 ∧ fmtBits (ptrFmt (mkPtr 0x05 0 0)) = 8 * 8) ∧
    (fmtBits (ptrFmt (mkPtr 0x14 5 0)) = 0 ∧ ptrFmt (mkPtr 0x14 5 0) = 0x14 ∧ ptrFmt (mkPtr 0x19 5 0) = 0x19) ∧
    (fmtBits (ptrFmt (mkPtr 0x3F 0 0)) = 0 ∧ ptrFmt (mkPtr 0x3F 0 0) ≠ 0x14 ∧ ptrFmt (mkPtr 0x3F 0 0) ≠ 0x18 ∧
      ptrFmt (mkPtr 0x3F 0 0) ≠ 0x19) := by
  unfold Issues
  decide

/-- The last register of the window through base and index, and the first one beyond it. -/
theorem witness_PointerResults_relative : Issues (one { th with ix := [(1, 3)] }) [G (5 : BitVec 6)] [] ∧
    ((60 : BitVec 6).toNat + ((thr (one { th with ix := [(1, 3)] })).getIx 1).toNat < windowSize th.wsz ∧
      hazard (thr (one { th with ix := [(1, 3)] })) [.g 63] = false) ∧
    windowSize th.wsz ≤ (61 : BitVec 6).toNat + ((thr (one { th with ix := [(1, 3)] })).getIx 1).toNat := by
  unfold Issues
  decide

/-- Every rounding mode; a division by zero with its trap off and on. -/
theorem witness_FloatResults : (thr (one { th with frm := 4 })).frm.toNat < 5 ∧
    Issues (one th) [G (63 : BitVec 6), G (1 : BitVec 6), G (0 : BitVec 6), G (2 : BitVec 6)] [] ∧
    Issues (one th) [G (63 : BitVec 6), G (1 : BitVec 6)] [] ∧
    (let r := Fp.div Fp.fp32 0 0x3F800000 0
     trapsOn (thr (one th)) r.2 = false ∧ trapsOn (thr (one { th with fen := 31 })) r.2 = true) := by
  unfold Issues
  decide

/-- The modes that no instruction rounds in: 5, 6 and 7. -/
theorem witness_FloatResults_illegal : ∀ m ∈ ([5, 6, 7] : List (BitVec 3)), let s := one { th with frm := m }
      5 ≤ (thr s).frm.toNat ∧ canIssue (thr s) = true ∧ outstanding (thr s) = false := by decide

/-- Numbers in order, equal, and zeros of both signs; infinities at both ends; quiet and signalling NaNs; the binades of the
smallest subnormal and of the least normal number. -/
theorem witness_FloatResults_values :
    let v (n : Nat) := Fp.decode Fp.fp32 n
    (FpBelow (v 0x3F800000) (v 0x40000000) ∧ FpBelow (v 0xFF800000) (v 0x3F800000) ∧ FpBelow (v 0x3F800000) (v 0x7F800000)) ∧
    (FpSame (v 0x80000000) (v 0) ∧ (v 0x80000000).sign = true ∧ (v 0).sign = false) ∧
    (FpSame (v 0x7F800000) (v 0x7F800000) ∧ (v 0x7F800000).isNan = false) ∧
    ((v 0x7FC00000).isNan = true ∧ (v 0x7FC00000).isSig = false ∧ (v 0x7FA00000).isSig = true) ∧
    (isNum (v 1) ∧ (2 : ℚ) ^ (-149 : Int) ≤ |exactVal (v 1)| ∧ |exactVal (v 1)| < (2 : ℚ) ^ (-148 : Int)) ∧
    (isNum (v 0x00800000) ∧ (2 : ℚ) ^ (-126 : Int) ≤ |exactVal (v 0x00800000)| ∧ |exactVal (v 0x00800000)| < (2 : ℚ) ^ (-125 : Int)) ∧
    (isNum (v 0) ∧ exactVal (v 0) = 0) ∧ isInf (v 0xFF800000) := by
  have one : exactVal (Fp.decode Fp.fp32 0x3F800000) = 1 := by decide +kernel
  have two : exactVal (Fp.decode Fp.fp32 0x40000000) = 2 := by decide +kernel
  have least : exactVal (Fp.decode Fp.fp32 1) = 1 / 2 ^ 149 := by decide +kernel
  have normal : exactVal (Fp.decode Fp.fp32 0x00800000) = 1 / 2 ^ 126 := by decide +kernel
  have zero : exactVal (Fp.decode Fp.fp32 0) = 0 := by decide +kernel
  have zero' : exactVal (Fp.decode Fp.fp32 0x80000000) = 0 := by decide +kernel
  refine ⟨⟨.inl ⟨True.intro, True.intro, by rw [one, two]; norm_num⟩, .inr (.inl ⟨True.intro, by decide, .inl True.intro⟩),
      .inr (.inr ⟨True.intro, True.intro, by decide⟩)⟩, ⟨.inl ⟨True.intro, True.intro, by rw [zero, zero']⟩, by decide, by decide⟩,
    ⟨.inr ⟨True.intro, True.intro, rfl⟩, by decide⟩, ⟨by decide, by decide, by decide⟩, ⟨True.intro, ?_, ?_⟩, ⟨True.intro, ?_, ?_⟩,
    ⟨True.intro, zero⟩, True.intro⟩
  all_goals first | rw [least] | rw [normal]
  all_goals norm_num

/-- Integer and floating destinations, SR with and without a destination that admits it, and FRM holding 7. -/
theorem witness_FloatConversionResults : Issues (one th) [G (63 : BitVec 6), G (1 : BitVec 6)] [] ∧
    ((Instr.fcvt 3 1 4 0 0 4).wf = true ∧ trapsOn (thr (one th)) (Fp.toInt 32 4 (cvtSource 4 5)).2 = false) ∧
    ((Instr.fcvt 3 1 0 1 7 1).wf = true ∧ 2 ≤ (7 : BitVec 3).toNat) ∧
    ((Instr.fcvt 3 1 5 0 2 4).wf = true ∧
      trapsOn (thr (one th)) (Fp.toFloatSR (cvtFmt 2) false (Fp.xorshift 1) (cvtSource 4 5)).2 = false) ∧
    ((Instr.fcvt 3 1 6 0 0 4).wf = true ∧ (thr (one { th with frm := 5 })).frm.toNat = 5 ∧
      6 ≤ (thr (one { th with frm := 7 })).frm.toNat) := by
  unfold Issues
  decide

/-- Finite numbers of each kind, with sums, products and quotients that are and are not zero; infinities; quiet and signalling NaNs. -/
theorem witness_RoundingRules :
    (isNum (Fp.decode Fp.fp32 1) ∧ isNum (Fp.decode Fp.fp32 0x7F7FFFFF) ∧ isNum (Fp.decode Fp.fp32 0x80000000)) ∧
    (isInf (Fp.decode Fp.fp32 0x7F800000) ∧ isInf (Fp.decode Fp.fp16 0xFC00) ∧ (Fp.decode Fp.fp16 0xFC00).sign = true) ∧
    ((Fp.decode Fp.fp32 0x7FC00000).isNan = true ∧ (Fp.decode Fp.fp32 0x7FC00000).isSig = false) ∧
    ((Fp.decode Fp.fp32 0x7FA00000).isNan = true ∧ (Fp.decode Fp.fp32 0x7FA00000).isSig = true) ∧ (1 : BitVec 32) ≠ 0 :=
  ⟨⟨True.intro, True.intro, True.intro⟩, ⟨True.intro, True.intro, by decide⟩, by decide, by decide, by decide⟩

/-- The exact values of those numbers: the smallest subnormal, 1.0, −1.0 and zero. -/
theorem witness_RoundingRules_values :
    (exactVal (Fp.decode Fp.fp32 1) : ℝ) > 0 ∧ (exactVal (Fp.decode Fp.fp32 0x3F800000) : ℝ) = 1 ∧
    (exactVal (Fp.decode Fp.fp32 0xBF800000) : ℝ) = -1 ∧ (exactVal (Fp.decode Fp.fp32 0) : ℝ) = 0 := by
  have h1 : exactVal (Fp.decode Fp.fp32 1) > 0 := by decide +kernel
  have h2 : exactVal (Fp.decode Fp.fp32 0x3F800000) = 1 := by decide +kernel
  have h3 : exactVal (Fp.decode Fp.fp32 0xBF800000) = -1 := by decide +kernel
  have h4 : exactVal (Fp.decode Fp.fp32 0) = 0 := by decide +kernel
  exact ⟨by exact_mod_cast h1, by exact_mod_cast h2, by exact_mod_cast h3, by exact_mod_cast h4⟩

/-- A thread whose PC lies in the core's local store. -/
def localTh : Thread := { th with pc := 0x8000000000000040#64 }

/-- Branches: the first and last target in each space, and the first one outside. -/
theorem witness_BranchAndJumpResults_branch : isFollower (one th) = false ∧ Issues (one th) [G (1 : BitVec 6), G (2 : BitVec 6)] [] ∧ Issues (one localTh) [G (1 : BitVec 6), G (2 : BitVec 6)] [] ∧
    (thr (one th)).pc.getLsbD 63 = false ∧ (thr (one localTh)).pc.getLsbD 63 = true ∧
    lsLimit (one localTh) 0 1 = 262144 ∧
    (0 ≤ (((0x40 : Nat) % 2 ^ 22 : Nat) : Int) + 2 * (-32 : BitVec 13).toInt ∧
      ((262142 - 8190 : Nat) : Int) + 2 * (4095 : BitVec 13).toInt < 262144 ∧
      262144 ≤ ((262144 - 8190 : Nat) : Int) + 2 * (4095 : BitVec 13).toInt) ∧
    ((((0x1000 : Nat) % 2 ^ 52 : Nat) : Int) + 2 * (-2049 : BitVec 13).toInt < 0 ∧
      2 ^ 52 ≤ (((2 ^ 52 - 8190 : Nat) % 2 ^ 52 : Nat) : Int) + 2 * (4095 : BitVec 13).toInt) := by
  unfold Issues
  decide

/-- Jumps through a register: an address of global memory, an odd one, one beyond the 52 bits. -/
theorem witness_BranchAndJumpResults_jump : (let s := one { th with g := [(10, 0xFFFFFFFFFFFFE), (1, 0x2001), (2, 0x0010000000000000)] }
     Issues s [] [.g 10] ∧ Issues s [G (0 : BitVec 6), G (10 : BitVec 6)] [] ∧ Issues s [G (10 : BitVec 6)] [] ∧
     ((rg s 10).getLsbD 0 = false ∧ (rg s 10).toNat < 2 ^ 52) ∧ (rg s 1).getLsbD 0 = true ∧
     ((rg s 2).getLsbD 0 = false ∧ (rg s 2).getLsbD 63 = false ∧ 2 ^ 52 ≤ (rg s 2).toNat)) ∧
    (0 ≤ ((0x1000 : Nat) : Int) + 2 * (-2048 : BitVec 25).toInt ∧ ((0x1000 : Nat) : Int) + 2 * (16777215 : BitVec 25).toInt < 2 ^ 52) := by
  unfold Issues
  decide

/-! ### Hypotheses of the statements about memory -/

/-- Pointers to the local store, GLB and LPDDR addresses, and an index. -/
def mt : Thread := { th with g := [(1, mkPtr 4 0 0x100), (2, mkPtr 4 0 0x3FFF8), (3, 1), (4, mkPtr 4 0 (gib + 0x100)),
  (5, mkPtr 4 0 0x40000), (6, mkPtr 0x3F 0 0x100), (7, mkPtr 4 0 0xFFFFFFFFFFFF8), (8, mkPtr 4 0 0x101),
  (9, mkPtr 4 0 (2 * gib + 0x100)), (10, mkPtr 4 0 0x3FFC0), (11, mkPtr 4 0 0)] }

/-- Loads from the own local store, up to its last bytes, in every form. -/
theorem witness_LoadResults : NoVectorMemory (one mt) ∧ NoBuffered (one mt) ∧ (one mt).splitIssue = false ∧
    (Issues (one mt) [G (63 : BitVec 6), G (2 : BitVec 6)] [] ∧ OwnAccess (one mt) (rg (one mt) 2) ((0 : BitVec 8).toInt * 8) 8 (ls 0x3FFF8) ∧
      OwnAccess (one mt) (rg (one mt) 1) ((-128 : BitVec 8).toInt * 2) 2 (ls 0)) ∧
    (Issues (one mt) [G (63 : BitVec 6), G (1 : BitVec 6), G (3 : BitVec 6)] [] ∧
      OwnAccess (one mt) (rg (one mt) 1) ((rg (one mt) 3).toInt * 4) 4 (ls 0x104)) ∧
    (Issues (one mt) [G (15 : BitVec 4), G (1 : BitVec 4)] [] ∧
      OwnAccess (one mt) (rg (one mt) ((1 : BitVec 4).setWidth 6)) (4 * (3 : BitVec 2).toNat : Nat) 4 (ls 0x10C) ∧
      OwnAccess (one mt) (rg (one mt) ((1 : BitVec 4).setWidth 6)) (8 * (3 : BitVec 2).toNat : Nat) 8 (ls 0x118)) := by
  unfold Issues NoVectorMemory NoBuffered OwnAccess
  decide

/-- A load of mode GLB and one of mode GLBO, through the tables, and one of each mode that names a rank or a bank. -/
theorem witness_LoadResults_everyMode : (let s := paged (one mt)
     ok (address s (rg s 4) ((0 : BitVec 8).toInt * 8) 8 6 { r := true }) (fun x s1 =>
       !s1.splitIssue && !parkedAt s1 x.2.key && !s1.hostError && ok (loadBytes s1 false x.2.key 8) fun _ _ => true) = true ∧
     ok (address s (rg s 4) ((rg s 3).toInt * 8) 8 7 { r := true }) (fun x s1 =>
       !s1.splitIssue && !parkedAt s1 x.2.key && ok (loadBytes s1 true x.2.key 8) fun _ _ => true) = true) ∧
    ∀ m ∈ ([0, 2, 3, 4, 5] : List (BitVec 3)),
      ok (address (one mt) (rg (one mt) 11) 0 8 m { r := true }) (fun x s1 =>
        !parkedAt s1 x.2.key && ok (loadBytes s1 false x.2.key 8) fun _ _ => true) = true ∧
      ok (address { one mt with cores := [(0, co mt), (48, co mt)] } (rg (one mt) 11) 0 8 1 { r := true }) (fun x s1 =>
        !parkedAt s1 x.2.key && ok (loadBytes s1 false x.2.key 8) fun _ _ => true) = true := by decide

/-- A load from host memory that the host completes with an error status. -/
theorem witness_LoadResults_hostError : (let s := { paged (one mt) with hostError := true }
     ok (address s (rg s 9) ((0 : BitVec 8).toInt * 8) 8 6 { r := true }) (fun x s1 =>
       !s1.splitIssue && !parkedAt s1 x.2.key && ok (loadBytes s1 false x.2.key 8) fun _ s2 =>
         s2.hostError && isHost x.2.key && (places x.2.key 8).any fun y =>
           (youngest (thr s2).uid y (coreAt s2 s2.core).sb).isNone) = true) := by decide

/-- The first address of each kind that an access refuses before it looks at its mode. -/
theorem witness_AccessTraps_shape : NoVectorMemory (one mt) ∧ Issues (one mt) [G (3 : BitVec 6), G (6 : BitVec 6)] [] ∧
    (Instr.ld 3 6 3 0 0).wf = true ∧ (Instr.pst 3 6 3 2 0).wf = true ∧ (Instr.cas2 12 6 14 0).wf = true ∧
    (Instr.amofadd 3 6 1 2 0).wf = true ∧ (thr (one mt)).frm.toNat < 5 ∧
    wellFormed (rg (one mt) 6) = false ∧
    (wellFormed (rg (one mt) 7) = true ∧ 2 ^ 52 ≤ ptrAddr (rg (one mt) 7) + (1 : BitVec 8).toInt * 8) ∧
    (wellFormed (rg (one mt) 1) = true ∧ ptrAddr (rg (one mt) 1) + (-33 : BitVec 8).toInt * 8 < 0) ∧
    (wellFormed (rg (one mt) 8) = true ∧ ptrAddr (rg (one mt) 8) % 2 ≠ 0 ∧ 0 ≤ ptrAddr (rg (one mt) 8) ∧ ptrAddr (rg (one mt) 8) < 2 ^ 52) := by
  unfold Issues NoVectorMemory
  decide

/-- The first offset beyond the local store, a bank below that the owner has not, and the first rank offset, rank and group
offset beyond what the owner has, mode by mode. -/
theorem witness_AccessTraps_modes : (let s := one mt
     let past (rank off : Nat) : Bool := lsLimit s (rankCore (owner s) rank) 1 ≤ off
     let q := (ctx s).rank
     past q 0x40000 = true ∧ past q 0x3FFFF = false ∧
     (lsLimit s s.core 1 ≤ 0x40000 ∧ 0 < lsLimit s s.core 1) ∧ rankCore (owner s) (rankBelow q) ≠ 0 ∧
     (∀ u ∈ ([none] : List (Option Nat)), Tab.find (ctxAt s (rankCore (owner s) (rankBelow q)) 1).banks (0 / 2 ^ 18) = u) ∧
     (nrank (owner s) = 64 ∧ nrank (owner s) ≤ (64 * 2 ^ 22) / 2 ^ 22 ∧ past (0x40000 / 2 ^ 22) (0x40000 % 2 ^ 22) = true) ∧
     past (4 * (q / 4) + 0x100000 / 8 % 4) (0x100000 / 32 * 8 + 0x100000 % 8) = true ∧
     past (16 * (q / 16) + 0x400000 / 8 % 16) (0x400000 / 128 * 8 + 0x400000 % 8) = true ∧
     past (64 * (q / 64) + 0x1000000 / 8 % 64) (0x1000000 / 512 * 8 + 0x1000000 % 8) = true) := by decide

/-- The first rank window address, a page that no table entry maps, and a page without the permission to write. -/
theorem witness_AccessTraps_global : (let s := { one mt with mem := cells [(0, 8, 2 ^ 48 + 0x1000 + 1), (0x1000, 8, 2 ^ 48 + 0x2000 + 1), (0x2000, 8, leaf 1 0 0x40000000 0x14)] }
     windowBase ≤ windowBase + 64 * 2 ^ 22 ∧ walk s 1 false (gib + 0x100) { r := true } = .page .missing ∧
     walk s 1 false 0x100 { w := true } = .access ∧ 0x100 < windowBase) := by decide

/-- Stores to the own local store, of mode GLB, posted, and released. -/
theorem witness_StoreResults : NoVectorMemory (paged (one mt)) ∧ Issues (paged (one mt)) [G (3 : BitVec 6), G (4 : BitVec 6)] [] ∧
    Issues (paged (one mt)) [G (15 : BitVec 4), G (1 : BitVec 4)] [] ∧
    ok (address (paged (one mt)) (rg (one mt) 4) ((127 : BitVec 8).toInt * 8) 8 6 { w := true }) (fun _ _ => true) = true ∧
    ok (address (one mt) (rg (one mt) 2) 0 8 2 { w := true }) (fun _ _ => true) = true ∧
    ok (address (one mt) (rg (one mt) 1) ((rg (one mt) 3).toInt * 8) 8 0 { w := true }) (fun _ _ => true) = true ∧
    ok (address (paged (one mt)) (rg (one mt) 4) 0 8 7 { w := true }) (fun x s1 =>
      !parkedAt s1 x.2.key && ok (release s1) fun _ _ => true) = true ∧
    (ok (address (paged (one mt)) (rg (one mt) 9) ((127 : BitVec 8).toInt * 8) 8 7 { w := true }) (fun x s1 =>
        isHost x.2.key && !parkedAt s1 x.2.key && ok (release s1) fun _ _ => true) = true ∧
      Issues (paged (one mt)) [G (3 : BitVec 6), G (4 : BitVec 6), G (3 : BitVec 6)] [] ∧
      ok (address (paged (one mt)) (rg (one mt) 4) ((rg (one mt) 3).toInt * 8) 8 7 { w := true }) (fun x s1 =>
        !isHost x.2.key && !parkedAt s1 x.2.key && ok (release s1) fun _ _ => true) = true) ∧
    ok (address (one mt) (rg (one mt) ((1 : BitVec 4).setWidth 6)) (4 * (3 : BitVec 2).toNat : Nat) 4 0 { w := true }) (fun _ _ => true) = true ∧
    ok (address (one mt) (rg (one mt) ((1 : BitVec 4).setWidth 6)) (8 * (3 : BitVec 2).toNat : Nat) 8 0 { w := true }) (fun _ _ => true) = true := by
  unfold Issues NoVectorMemory
  decide

/-- The frame of a store, at the last bytes of the local store; a hint. -/
theorem witness_StoreResults_frame : NoVectorMemory (one mt) ∧ Issues (one mt) [G (3 : BitVec 6), G (2 : BitVec 6)] [] ∧
    OwnAccess (one mt) (rg (one mt) 2) ((0 : BitVec 8).toInt * (2 ^ (3 : BitVec 2).toNat : Nat)) (2 ^ (3 : BitVec 2).toNat) (ls 0x3FFF8) ∧
    nx (exec (.st 3 2 3 0 0) (one mt)) (fun _ => true) = true ∧
    (3 : BitVec 6).toNat < 4 ∧ Issues (one mt) [G (6 : BitVec 6)] [] := by
  unfold Issues NoVectorMemory OwnAccess
  decide

/-- A buffered store in the stack and a posted one, a release-buffer entry, a clean and a dirty copied byte, and a write that the
host has yet to acknowledge. -/
def bufs : State := { oneCore mt fun c => { c with
  sb := [⟨1, 1, ls 0x100, [1, 2], none, false⟩], posted := [⟨1, 1, ls 0x108, [3], none, false⟩],
  rel := [⟨1, [⟨lpddrBase + 5, 9, 3⟩, ⟨hostBase, 1, 2⟩], [1], [], false, 0⟩] } with
  hostWrites := [⟨3, 1, 0⟩]
  compStacks := [(0, { copies := [(lpddrBase + 5, ⟨9, true, 3, 0⟩), (lpddrBase + 6, ⟨9, false, 3, 0⟩)] })] }

theorem witness_BufferAndCopyEvents : Machine.Inv bufs ∧ (coreAt bufs 0).sb = [⟨1, 1, ls 0x100, [1, 2], none, false⟩] ∧ inStack 0 (ls 0x100) = true ∧
    ((coreAt bufs 0).posted[0]? = some ⟨1, 1, ls 0x108, [3], none, false⟩ ∧ parkedAt bufs (ls 0x108) = false ∧ pausing bufs (stackOf 0) = false) ∧
    ((coreAt bufs 0).rel[0]? = some ⟨1, [⟨lpddrBase + 5, 9, 3⟩, ⟨hostBase, 1, 2⟩], [1], [], false, 0⟩ ∧ stackOf 0 < 4 ∧
      parkedAt bufs (lpddrBase + 5) = false ∧ parkedAt bufs hostBase = false) ∧
    Tab.find (stackAt bufs 0).copies (lpddrBase + 6) = some ⟨9, false, 3, 0⟩ ∧
    Tab.find (stackAt bufs 0).copies (lpddrBase + 5) = some ⟨9, true, 3, 0⟩ ∧ bufs.hostWrites[0]? = some ⟨3, 1, 0⟩ ∧ bufs.hostError = false ∧
    { bufs with hostError := true }.hostError = true ∧
    stackOf bufs.core < 4 := by
  unfold Machine.Inv
  decide

/-- A store whose home lies outside the stack, over a byte that an entry of the release buffer holds and the byte after it. -/
theorem witness_BufferAndCopyEvents_outside : (let e : StoreEntry := ⟨1, 1, lpddrBase + 4, [7, 8, 9, 6], none, false⟩
     let s := { bufs with cores := [(0, { coreAt bufs 0 with sb := [e] })] }
     e.lost = false ∧ (coreAt s 0).sb = [e] ∧ inStack 0 e.key = false ∧ copyable (lpddrBase + 4) = true ∧
     nx (exec (.performHeadEntry 0) s) (fun t => (coreAt t 0).rel.length == 1) = true) := by decide

/-- A thread that waits for the reply of a load from host memory, which completes well or with an error status. -/
def replyReq : MemReq := { op := .load true, n := 1, key := hostBase, ea := 0, acq := false, rel := false, glbo := false, rd := 5, tr := none }

theorem witness_BufferAndCopyEvents_reply : (let s := one { mt with st := .blocked, wait := some (.ld 5 1 0 0 0, .reply replyReq) }
     (thrAt s 0 0).wait = some (.ld 5 1 0 0 0, .reply replyReq) ∧ replyReq.op = .load true ∧ replyReq.acq = false ∧ 0 < replyReq.n ∧
     hostBase ≤ replyReq.key ∧ buffered s 0 1 = false ∧ pausing s 0 = false ∧ parkedAt s replyReq.key = false ∧
     s.hostError = false ∧ ({ s with hostError := true }).hostError = true ∧ isHost replyReq.key = true) := by decide

/-- Atomics at LPDDR and at host memory, with each order; an addition of numbers that raises an enabled exception. -/
theorem witness_AtomicAndFenceResults_amo : NoVectorMemory (paged (one mt)) ∧ Issues (paged (one mt)) [G (3 : BitVec 6), G (4 : BitVec 6), G (1 : BitVec 6)] [] ∧
    (2 ≤ (2 : BitVec 2).toNat) ∧
    ok (address (paged (one mt)) (rg (one mt) 4) 0 8 6 { r := true, w := true }) (fun x s1 =>
      !s1.splitIssue && !buffered s1 s1.core (thr s1).uid && !isHost x.2.key && !parkedAt s1 x.2.key && ok (release s1) fun _ _ => true) = true ∧
    ok (address (paged (one mt)) (rg (one mt) 9) 0 4 6 { r := true, w := true }) (fun x s1 =>
      isHost x.2.key && !parkedAt s1 x.2.key && ok (release { s1 with hostError := true }) fun _ s2 => s2.hostError) = true ∧
    (let s := paged (one { mt with frm := 0, fen := 31 })
     (thr s).frm.toNat < 5 ∧ trapsOn (thr s) (Fp.add Fp.fp64 0 0 0x7FF0000000000001).2 = true ∧ trapsOn (thr (one mt)) (Fp.add Fp.fp64 0 0 0x7FF0000000000001).2 = false) := by
  unfold Issues NoVectorMemory
  decide

/-- Comparisons that find the value and that do not; a pair of even registers; host memory that fails. -/
theorem witness_AtomicAndFenceResults_compareAndSwap : (let s := paged (one mt)
     ok (address s (rg s 4) 0 8 6 { r := true, w := true }) (fun x s1 =>
       !parkedAt s1 x.2.key && homeNat s1 x.2.key 8 == (rg s 0).toNat && homeNat s1 x.2.key 8 != (rg s 3).toNat) = true ∧
     ((0 : BitVec 2).getLsbD 1 = false ∧ (3 : BitVec 2).getLsbD 1 = true ∧ (2 : BitVec 2).getLsbD 0 = false) ∧
     Issues s [G (3 : BitVec 6), G (4 : BitVec 6), G (1 : BitVec 6)] [] ∧ NoVectorMemory s ∧
     ok (address s (rg s 4) 0 8 6 { r := true, w := true }) (fun x s1 => !s1.splitIssue && !buffered s1 s1.core (thr s1).uid &&
       ok (release s1) fun _ s2 => homeNat s1 x.2.key 8 == (rg s 0).toNat && homeNat s2 x.2.key 8 == (rg s 0).toNat) = true ∧
     Issues s [G (12 : BitVec 6), G (4 : BitVec 6), G (14 : BitVec 6), .g 13, .g 15] [] ∧
     ok (address s (rg s 4) 0 16 6 { r := true, w := true }) (fun x s1 =>
       homeNat s1 x.2.key 8 == 0 && homeNat s1 (x.2.key + 8) 8 == 0 && (thr s).getG 12 == 0 && (thr s).getG 13 == 0 && (thr s).getG 2 != 0) = true ∧
     ok (address { s with hostError := true } (rg s 9) 0 8 6 { r := true, w := true }) (fun x s1 => s1.hostError && isHost x.2.key) = true) := by
  unfold Issues NoVectorMemory
  decide

/-- A fence with nothing outstanding; a full fence with a buffered and with a posted store. -/
theorem witness_AtomicAndFenceResults_fence : (2 : BitVec 2) ≠ 3 ∧ NoVectorMemory (one mt) ∧ Issues (one mt) [] [] ∧ NoBuffered (one mt) ∧
    postedOut (one mt) 0 1 = false ∧ ok (waitEngines (one mt)) (fun _ s => s == one mt) = true ∧
    (coreAt (one mt) 0).rel.any (fun e => e.uids.contains 1) = false ∧ (one mt).hostWrites.any (fun w => w.uid == 1) = false ∧
    buffered bufs 0 1 = true ∧ postedOut bufs 0 1 = true ∧ Issues bufs [] [] := by
  unfold Issues NoVectorMemory NoBuffered
  decide

/-! ### Hypotheses of the statements about vector instructions -/

theorem witness_VectorIntegerResults : VecIssues (one th) [V (31 : BitVec 6), V (0 : BitVec 6), V (1 : BitVec 6)] ∧ VecIssues (one th) [V (31 : BitVec 6), G (63 : BitVec 6)] ∧
    VecIssues (one th) [V (31 : BitVec 6), G (63 : BitVec 6), G (0 : BitVec 6)] ∧ VecIssues (one th) [G (0 : BitVec 6), V (31 : BitVec 6), G (1 : BitVec 6)] ∧
    VecIssues (one th) [V (31 : BitVec 6), V (0 : BitVec 6), G (1 : BitVec 6)] ∧ VecIssues (one th) [V (31 : BitVec 6), V (0 : BitVec 6)] ∧
    (thr (one th)).frm.toNat < 5 := by
  unfold VecIssues Issues
  decide

/-- Every type of lanes and rounding; a trap off and on; conversions of each kind, SR with a pair that admits it. -/
theorem witness_VectorFloatResults : (2 : BitVec 2) ≠ 3 ∧ VecIssues (one th) [V (31 : BitVec 6), V (0 : BitVec 6)] ∧
    VecIssues (one th) [V (31 : BitVec 6), V (0 : BitVec 6), V (1 : BitVec 6)] ∧
    VecIssues (one th) [V (31 : BitVec 6), V (0 : BitVec 6), V (1 : BitVec 6), V (2 : BitVec 6)] ∧
    VecIssues (one th) [V (31 : BitVec 6), V (0 : BitVec 6), G (1 : BitVec 6)] ∧
    (thr (one { th with frm := 4 })).frm.toNat < 5 ∧
    ((Instr.vcvt 1 2 4 0 2).wf = true ∧ (Instr.vcvt 1 2 5 1 0).wf = true ∧ srPair 0 = true) ∧
    ((Instr.vqnt 1 2 3 0 4).wf = true ∧ (Instr.vqnt 1 2 3 1 5).wf = true) ∧
    trapsOn (thr (one { th with fen := 31 })) Fp.NX = true ∧ trapsOn (thr (one th)) Fp.NX = false := by
  unfold VecIssues Issues
  decide

/-- The modes that are none: under FRM, named by the instruction, and SR for a pair or a destination that has none. -/
theorem witness_VectorFloatResults_illegal : (∀ m ∈ ([5, 6, 7] : List (BitVec 3)), let s := one { th with frm := m }
      5 ≤ (thr s).frm.toNat ∧ canIssue (thr s) = true ∧ outstanding (thr s) = false) ∧
    (let mode (f r : BitVec 3) := if r = 6 then (thr (one { th with frm := f })).frm.toNat else r.toNat
     (mode 0 5 = 5 ∧ mode 0 7 = 7 ∧ mode 5 6 = 5 ∧ mode 7 6 = 7) ∧ srPair 2 = false ∧ (0 : BitVec 1) ≠ 1 ∧
     ¬ (mode 5 6 < 5 ∨ (mode 5 6 = 5 ∧ srPair 2 = true)) ∧ ¬ (mode 0 5 < 5 ∨ (mode 0 5 = 5 ∧ (0 : BitVec 1) = 1))) := by decide

theorem witness_MaskResults : VecIssues (one th) [] ∧ (7 : BitVec 6).toNat < 8 ∧ VecIssues (one th) [G (63 : BitVec 6)] ∧
    VecIssues (one th) [V (31 : BitVec 6), V (0 : BitVec 6)] ∧ (3 : BitVec 4).toNat < 4 ∧ (4 ≤ (4 : BitVec 4).toNat ∧ (6 : BitVec 4).toNat ≤ 6) := by
  unfold VecIssues Issues
  decide

/-- Vector loads and stores: whole vectors up to the last 64 bytes, and elements with all lanes on or one on. -/
def vt : Thread := { mt with m := [(0, 0xFFFFFFFFFFFFFFFE)], v := [(1, 0)] }

theorem witness_VectorMemoryResults : NoBuffered (one mt) ∧ VecIssues (one mt) [V (31 : BitVec 6), G (10 : BitVec 6)] ∧
    OwnAccess (one mt) (rg (one mt) 10) ((0 : BitVec 8).toInt * 64) 64 (ls 0x3FFC0) ∧
    elemTag (rg (one mt) 1) 4 = true ∧ OwnAccess (one mt) (rg (one mt) 1) 0 4 (ls 0x100) ∧
    VecIssues (one vt) [V (31 : BitVec 6), G (1 : BitVec 6), G (3 : BitVec 6)] ∧ VecIssues (one vt) [V (31 : BitVec 6), G (1 : BitVec 6), V (1 : BitVec 6)] ∧
    (((thr (one vt)).getM 0).getLsbD 0 = false ∧ ((thr (one vt)).getM 0).getLsbD 15 = true) ∧
    OwnAccess (one vt) (rg (one vt) 1) ((0 : Nat) * (rg (one vt) 3).toInt) 4 (ls 0x100) ∧
    OwnAccess (one vt) (rg (one vt) 1) (sLane 32 (lane 32 (rv (one vt) 1) 0) * 4) 4 (ls 0x100) := by
  unfold NoBuffered OwnAccess VecIssues Issues
  decide

/-- A stride of 4 keeps every lane aligned and inside. -/
theorem witness_VectorMemoryResults_stride : (let s := one { mt with g := (11, 4) :: mt.g }
     (List.range 16).all (fun i => decide (wellFormed (rg s 1) = true ∧ 0 ≤ ptrAddr (rg s 1) + (i : Nat) * (rg s 11).toInt ∧
       (ptrAddr (rg s 1) + (i : Nat) * (rg s 11).toInt).toNat % 4 = 0 ∧
       lsPlace s 0 1 (ptrAddr (rg s 1) + (i : Nat) * (rg s 11).toInt).toNat = some (ls (0x100 + 4 * i)) ∧
       parkedAt s (ls (0x100 + 4 * i)) = false)) = true) := by decide

/-- A thread with a pointer to ECF8 blocks of 16 elements, one off by four bytes, and one of another format. -/
def ecfTh : Thread := { th with g := [(1, mkPtr 0x14 4 0x100), (2, mkPtr 0x14 4 0x104), (3, mkPtr 0x14 5 0x100), (4, mkPtr 4 0 0x100)] }

/-- The block of the example of R33, the block of zeros, and a header of a reserved version. -/
def ecfExample : List Byte :=
  [0x0F, 0x00, 0x2C, 0x00, 0x40, 0x28, 0xC0, 0x10, 0x07, 0xF0, 0x00, 0x04, 0x22, 0xEF, 0x8E, 0x14, 0xF4, 0x80, 0, 0, 0, 0, 0, 0]

def ecfState (b : List Byte) : State := { one ecfTh with mem := (b.mapIdx fun i x => (ls (0x100 + i), x)).filter fun c => c.2 != 0 }

theorem witness_VectorBlocksAndCompletion_decode : (let s := ecfState ecfExample
     let p := rg s 1
     VecIssues s [V (3 : BitVec 6), G (1 : BitVec 6)] ∧ NoBuffered s ∧
     (wellFormed p = true ∧ ptrFmt p = 0x14 ∧ ptrBlen p = 4 ∧ ptrAddr p % 8 = 0) ∧
     (∀ j < 3, OwnAccess s p (8 * (j : Nat)) 8 (ls (0x100 + 8 * j))) ∧
     homeBytes s (ls 0x100) 8 = ecfExample.take 8 ∧ ecfLength 16 ecfExample = 24 ∧
     (List.range 3).flatMap (fun j => homeBytes s (ls (0x100 + 8 * j)) 8) = ecfExample) ∧
    ecfHeader 16 ecfExample ∧ ¬ecfHeader 16 [0x2F, 0, 0, 0, 0, 0, 0, 0] ∧ ¬ecfHeader 16 [0, 0, 81, 0, 0, 0, 0, 0] ∧
    ¬(ptrFmt (rg (ecfState []) 4) = 0x14) ∧ ¬(ptrBlen (rg (ecfState []) 3) = 4) ∧ ptrAddr (rg (ecfState []) 2) % 8 ≠ 0 := by
  unfold NoBuffered OwnAccess VecIssues ecfHeader ecfZero Issues
  decide

theorem tokenOf {bit : Nat → Bool} {len p v k : Nat} {t : Ecf.Token} (h : p + k ≤ len) (hc : (v, k, t) ∈ ecfCodes) (hv : v < 2 ^ k)
    (hb : ∀ i < k, bit (p + i) = v.testBit (k - 1 - i)) : TokenAt bit len p (p + k) t :=
  ⟨h, .inl ⟨_, hc, rfl, rfl, hv, hb⟩⟩

/-- A decode that succeeds: the one of R33's table, by its sixteen tokens' places and running exponents. -/
theorem witness_VectorBlocksAndCompletion_decoded :
    EcfDecodes 16 ecfExample [120, 124, 384, 130, 120, 364, 0, 105, 135, 128, 128, 383, 120, 120, 36, 32] := by
  have hh : ecfHeader 16 ecfExample := by unfold ecfHeader ecfZero; decide
  have hz : ¬ecfZero ecfExample := by unfold ecfZero; decide
  refine ⟨by decide, hh, fun h => absurd h hz, fun _ =>
    ⟨fun j => [0, 1, 2, 5, 6, 9, 13, 19, 20, 25, 26, 27, 30, 31, 32, 43, 44].getD j 0,
     fun j => ([15, 15, 15, 16, 16, 15, 13, 13, 13, 16, 16, 16, 15, 15, 15, 4, 4] : List Int).getD j 0, by decide, by decide, by decide, ?_⟩⟩
  intro j hj
  have hraw : ¬(ecfByte ecfExample 1 / 64 % 2 = 1) := by decide
  refine ⟨fun h => absurd h hraw, fun _ => ?_⟩
  interval_cases j
  · exact ⟨.delta (0), tokenOf (v := 0) (k := 1) (by decide) (by decide) (by decide) (by decide), by decide, by decide, by decide, by decide⟩
  · exact ⟨.delta (0), tokenOf (v := 0) (k := 1) (by decide) (by decide) (by decide) (by decide), by decide, by decide, by decide, by decide⟩
  · exact ⟨.delta (1), tokenOf (v := 4) (k := 3) (by decide) (by decide) (by decide) (by decide), by decide, by decide, by decide, by decide⟩
  · exact ⟨.delta (0), tokenOf (v := 0) (k := 1) (by decide) (by decide) (by decide) (by decide), by decide, by decide, by decide, by decide⟩
  · exact ⟨.delta (-1), tokenOf (v := 5) (k := 3) (by decide) (by decide) (by decide) (by decide), by decide, by decide, by decide, by decide⟩
  · exact ⟨.delta (-2), tokenOf (v := 13) (k := 4) (by decide) (by decide) (by decide) (by decide), by decide, by decide, by decide, by decide⟩
  · exact ⟨.zero, tokenOf (v := 0b111100) (k := 6) (by decide) (by decide) (by decide) (by decide), by decide, by decide⟩
  · exact ⟨.delta (0), tokenOf (v := 0) (k := 1) (by decide) (by decide) (by decide) (by decide), by decide, by decide, by decide, by decide⟩
  · exact ⟨.delta (3), tokenOf (v := 28) (k := 5) (by decide) (by decide) (by decide) (by decide), by decide, by decide, by decide, by decide⟩
  · exact ⟨.delta (0), tokenOf (v := 0) (k := 1) (by decide) (by decide) (by decide) (by decide), by decide, by decide, by decide, by decide⟩
  · exact ⟨.delta (0), tokenOf (v := 0) (k := 1) (by decide) (by decide) (by decide) (by decide), by decide, by decide, by decide, by decide⟩
  · exact ⟨.delta (-1), tokenOf (v := 5) (k := 3) (by decide) (by decide) (by decide) (by decide), by decide, by decide, by decide, by decide⟩
  · exact ⟨.delta (0), tokenOf (v := 0) (k := 1) (by decide) (by decide) (by decide) (by decide), by decide, by decide, by decide, by decide⟩
  · exact ⟨.delta (0), tokenOf (v := 0) (k := 1) (by decide) (by decide) (by decide) (by decide), by decide, by decide, by decide, by decide⟩
  · exact ⟨.absolute 4, ⟨by decide, .inr ⟨4, rfl, rfl, ⟨by decide, by decide⟩, ⟨by decide, by decide⟩⟩⟩, by decide, by decide, by decide, by decide⟩
  · exact ⟨.delta (0), tokenOf (v := 0) (k := 1) (by decide) (by decide) (by decide) (by decide), by decide, by decide, by decide, by decide⟩

/-- Blocks that VECFE builds are within the local store; a dispatched instruction that executes, one that faults. -/
theorem witness_VectorBlocksAndCompletion_encode : (let s := one ecfTh
     VecIssues s [V (3 : BitVec 6), G (1 : BitVec 6)] ∧ (∀ j < 3, OwnAccess s (rg s 1) (8 * (j : Nat)) 8 (ls (0x100 + 8 * j))) ∧
     ok (locBlock (dispatchSeq s 0).2 0 { w := true } (ptrAddr (rg s 1)) 0 3) (fun ls t => ls.length == 3 && (thr t).vq == [] && (thr t).v == (thr s).v) = true ∧
     ok (blockBytes (dispatchSeq s 0).2 0 (ptrAddr (rg s 1)) 0 1) (fun b t => b.length == 8 && (thr t).vq == []) = true) := by
  unfold OwnAccess VecIssues Issues
  decide

theorem witness_VectorBlocksAndCompletion_completion : (let e : VDisp := { seq := 4, instr := .vfadd 1 2 3 0, a := 0, b := 0, frm := 0 }
     let u := one { th with vq := [e, { e with seq := 5 }], seq := 6 }
     let g := one { th with vq := [{ e with instr := .ldv 1 2 0 0, a := mkPtr 4 0 4 }], seq := 5 }
     (thrAt u 0 0).vq = [e, { e with seq := 5 }] ∧ pausing u (stackOf 0) = false ∧ pausing g (stackOf 0) = false ∧
     ok (vecBody e (updThr u fun t => { t with vq := [{ e with seq := 5 }] })) (fun fl v => trapsOn (thr v) fl == false) = true ∧
     (match vecBody { e with instr := .ldv 1 2 0 0, a := mkPtr 4 0 4 } (updThr g fun t => { t with vq := [] }) with
      | .trap _ _ v => v.core == 0 && v.slot == 0
      | _ => false) = true) := by decide

/-! ### Hypotheses of the statements about gangs, queues, streams and messages -/

/-- `n` cores of owner 1, ranks 0 to n − 1, with the threads given. -/
def many (n : Nat) (f : Nat → Tab Thread) : State :=
  { cores := (List.range n).map fun i => (i, { threads := f i, ctxs := [(1, { cx with rank := i })], active := 1, subs := [(0, sub)] })
    owners := [(1, ow)], nextUid := 50 }

def lone (t : Thread) (i : Nat) : Tab Thread := if i = 0 then [(0, t)] else []

/-- The largest gang; size codes outside; a member whose core already holds a gang. -/
theorem witness_GangAndExchangeResults_gang : (let s := many 8 (lone { th with g := [(1, 3), (2, 4)] })
     (1 : BitVec 6) ≠ 0 ∧ Issues s [G (1 : BitVec 6), G (1 : BitVec 6)] [] ∧ isControl s.core = false ∧ (thr s).gang = none ∧
     idleUnits s s.core (thr s) = true ∧ (rg s 1).toNat = 3 ∧ 3 < (rg s 2).toNat ∧ rg s 0 = 0 ∧
     (∀ r ∈ [1, 2, 3, 4, 5, 6, 7], holdsGang s (rankCore (owner s) r) = false ∧
       (roomFor s (rankCore (owner s) r) (thr s).wsz (thr s).vsz).isSome = true ∧ rankCore (owner s) r = r)) ∧
    (let s := many 2 fun i => [(0, { th with gang := if i = 0 then none else some ⟨1, 0, 2, 1⟩ })]
     holdsGang s (rankCore (owner s) 1) = true) := by
  unfold Issues
  decide

/-- A gang of two at an UNGANG: the leader in core 0, the follower waiting at it. -/
def pair : State := many 2 fun i => [(0, { th with uid := 10 + i, gang := some ⟨0, 0, 2, i⟩, v := [(1, 5)]
                                                   g := [(1, 1), (2, 9)], gstat := 77 })]

theorem witness_GangAndExchangeResults_ungang : Issues pair [] [] ∧ isControl pair.core = false ∧ (thr pair).gang.isSome = true ∧ isFollower pair = false ∧
    followerWaits pair = false ∧ (∀ p ∈ followers pair pair.core pair.slot, (thrAt pair p.1 p.2).gangTrap = none) ∧
    followers pair 0 0 = [(1, 0)] ∧ (thr (one th)).gang = none ∧ followers (one th) 0 0 = [] := by
  unfold Issues
  decide

theorem witness_GangAndExchangeResults_reads : (let s := { pair with core := 1 }
     Issues s [G (3 : BitVec 6), G (2 : BitVec 6)] [] ∧ hazard (gangLeader s) [G (2 : BitVec 6)] = false ∧
     Issues s [V (3 : BitVec 6), V (1 : BitVec 6)] [] ∧ (thr s).vq = [] ∧ (gangLeader s).vq = [] ∧
     rg s 0 = 0 ∧ (thr s).gang = some ⟨0, 0, 2, 1⟩ ∧ rg s 1 = 1) ∧
    rg (one th) 0 = 0 ∧ (thr (one th)).gang = none := by
  unfold Issues
  decide

/-- An exchange of two: the first to arrive, and the last. -/
theorem witness_GangAndExchangeResults_exchange : Issues pair [V (31 : BitVec 6), V (1 : BitVec 6)] [] ∧ exchanging (thr pair) = false ∧
    (exchange pair 0).isSome = true ∧ idleUnits pair pair.core (thr pair) = true ∧ isControl pair.core = false ∧
    (match exchange pair 0 with
      | some (p, j, n) =>
        let me : XArrival := { part := j, core := 0, slot := 0, uid := 10, val := rv pair 1, dest := 31 }
        let he : XArrival := { part := 1, core := 1, slot := 0, uid := 11, val := 9, dest := 2 }
        p == 2 && (firstArrivals p [me]).length == 1 && (firstArrivals p [he, me]).length == 2 && (firstArrivals p [he, me]).contains me &&
          Tab.get [] (owner { pair with owners := [(1, { ow with xbars := [(n, [he])] })] }).xbars n == [he]
      | none => false) = true := by
  unfold Issues
  decide

/-- Queue registers: 0 holds an element, 1 is empty, 2 full, 3 feeds the matrix unit, 4 an open out-port, 5 unbound. -/
def qd (kind prod cons any port : Nat) : Word := BitVec.ofNat 64 (kind + prod * 16 + cons * 256 + any * 4096 + port * 65536)
def qs : State := oneCtx { th with g := [(1, qd 2 0 0 1 0), (2, 0x100000)] } fun x => { x with
  queues := [(0, { desc := qd 1 0 0 0 0, kid := 1, elems := [5, 6] }), (1, { desc := qd 1 0 0 0 0, kid := 1 }),
             (2, { desc := qd 1 0 0 0 0, kid := 1, elems := List.replicate 16 7 }), (3, { desc := qd 5 0 0 0 0, kid := 1 }),
             (4, { desc := qd 7 0 0 0 1, kid := 1 }), (6, { desc := qd 1 0 2 0 0, kid := 1, elems := [4] })]
  outs := [(1, { st := .opened })] }

theorem witness_QueueResults_pop : bindKind (queue qs 0).desc ∈ [1, 2, 3, 4, 6] ∧ qs.slot = bindCons (queue qs 0).desc ∧ reserved qs 0 = 0 ∧ (coreAt qs 0).threads.length = 1 ∧ (thr qs).st = .running ∧
    Issues qs [G (63 : BitVec 6)] [] ∧ (queue qs 0).elems = [5, 6] ∧ (queue qs 0).pending = [] ∧ (queue qs 1).elems = [] ∧
    bindKind (queue qs 1).desc ∈ [1, 2, 3, 4, 6] ∧ Issues qs [G (3 : BitVec 6), G (4 : BitVec 6)] [] ∧ Issues qs [G (15 : BitVec 4)] [] := by
  unfold Issues
  decide

theorem witness_QueueResults_push : NoVectorMemory qs ∧ bindKind (queue qs 1).desc = 1 ∧ qs.slot = bindProd (queue qs 1).desc ∧
    (bindKind (queue qs 4).desc = 7 ∧ (portAt (ctx qs) true (bindPort (queue qs 4).desc)).st = .opened ∧ qs.slot = bindProd (queue qs 4).desc) ∧
    ok (release qs) (fun _ s1 => decide ((queue s1 1).elems.length < 16) && decide (16 ≤ (queue s1 2).elems.length)) = true ∧
    Issues qs [G (63 : BitVec 6)] [] ∧ Issues qs [G (15 : BitVec 4)] [] := by
  unfold Issues NoVectorMemory
  decide

theorem witness_QueueResults_bind : (bindKind (rg qs 1) ≠ 0 ∧ bindKind (queue qs 5).desc = 0 ∧ badBinding (ctx qs) (rg qs 1) = false) ∧
    (bindKind (rg qs 0) = 0 ∧ holdsQueue qs 1 = false) ∧
    (bindKind (queue qs 2).desc ≠ 0 ∧ (queue qs 2).elems.length ≤ 16) ∧
    (bindKind (queue qs 3).desc = 5 ∧ bindAny (queue qs 6).desc = false ∧ qs.slot ≠ bindCons (queue qs 6).desc) := by decide

/-- Two cores with an out-queue on the first and an in-queue on the second. -/
def strm (out : Port) (el : List Word) (inp : Port) (iq : Tab Queue) (t : Thread) : State :=
  { cores := [(0, { co t with ctxs := [(1, { cx with queues := [(0, { desc := qd 7 0 0 0 1, kid := 1, elems := el })], outs := [(1, out)] })] }),
              (1, { co th with threads := [], ctxs := [(1, { cx with rank := 1, queues := iq, ins := [(2, inp)] })] })]
    owners := [(1, ow)], nextUid := 50 }
def inq : Tab Queue := [(5, { desc := qd 6 0 0 1 2, kid := 1 })]
def st : Thread := { th with g := [(1, 0x801)] }

theorem witness_StreamResults_open : (let s := strm {} [] {} inq st
     (2 : BitVec 6) ≠ 0 ∧ (1 : BitVec 3).toNat < 4 ∧ Issues s [G (2 : BitVec 6), G (1 : BitVec 6)] [] ∧ awaitsStream (thr s) = none ∧
     s.splitIssue = false ∧ (rg s 1).toNat < 2 ^ 12 ∧ (rg s 1).toNat % 2 ^ 10 < nrank (owner s) ∧
     streamHeld s 0 1 = false ∧ (portAt (ctx s) true 1).st = .closed ∧ (portQueue (ctx s) true 1).isSome = true ∧
     rankCore (owner s) ((rg s 1).toNat % 2 ^ 10) = 1 ∧ (portQueue (ctxAt s 1 1) false 2).isSome = true ∧
     (portAt (ctxAt s 1 1) false 2).st = .closed ∧ portQueue (ctxAt (strm {} [] {} [] st) 1 1) false 2 = none) ∧
    (let s := strm { st := .opened, rank := 1023, port := 3 } [] {} inq st
     (3 : BitVec 3).toNat < 4 ∧ Issues s [] [] ∧ (portAt (ctx s) true 1).st = .opened ∧ (portAt (ctx s) true 3).st ≠ .opened ∧
     Issues s [G (2 : BitVec 6)] [] ∧ (portAt (ctx s) true 1).rank < 1024 ∧ (portAt (ctx s) true 1).port < 4 ∧
     (portQueue (ctx s) true 1).getD 0 < 16) := by
  unfold Issues
  decide

theorem witness_StreamResults_events : (let t : Thread := { st with st := .blocked, wait := some (.sopen 2 1 1, .stream { st := .closed }) }
     let s := strm { st := .opening, rank := 1, port := 2 } [] {} inq t
     (coreAt s 0).threads.find? (fun t => t.2.owner == 1 && t.2.st == .blocked &&
       (match t.2.wait with | some (.sopen _ _ p', .stream _) => p'.toNat == 1 | _ => false)) = some (0, t) ∧ thrAt s 0 0 = t ∧
     streamHeld s 0 1 = false ∧ rankCore (ownerAt s 1) 1 = 1 ∧
     (portQueue (ctxAt s 1 1) false 2).isSome = true ∧ (portAt (ctxAt s 1 1) false 2).st = .closed) ∧
    (let s := strm { st := .opened, rank := 1, port := 2 } [4] { st := .opened } inq st
     portQueue (ctxAt s 0 1) true 1 = some 0 ∧ portQueue (ctxAt s 1 1) false 2 = some 5 ∧ (queueAt s 0 1 0).elems = [4] ∧
     streamHeld s 0 1 = false ∧ (queueAt s 1 1 5).elems.length < 16) ∧
    (let s := strm { st := .closing, rank := 1, port := 2 } [] { st := .opened } inq st
     (portAt (ctxAt s 0 1) true 1).st = .closing ∧ (portAt (ctxAt s 0 1) true 1).lost = false ∧ (queueAt s 0 1 0).elems = []) := by decide

/-- Two cores; mailbox 3 of each holds a number of messages. -/
def mbx (n : Nat) : Mailbox := { defined := true, base := 0x8000, k := 3, count := n, head := 6 }
def post (t : Thread) (n : Nat) : State :=
  { cores := [(0, { co t with ctxs := [(1, { cx with mbxs := [(3, mbx n)], msgCtr := 0xFFFF })] }),
              (1, { co th with threads := [], ctxs := [(1, { cx with rank := 1, mbxs := [(3, mbx n)] })] })]
    owners := [(1, ow)], nextUid := 50 }
/-- Descriptors: to mailbox 3 of rank 1; a reply to it; a reserved bit; a rank beyond the owner's; a reply to a reply; and the
lowest and highest of each of the reserved fields. -/
def pt : Thread := { th with g := [(1, 0x6001), (2, 0x10006000000), (3, 0x1000000006000), (4, 0x6046), (5, 0x7000000), (6, 0x10000006000),
  (7, 0x6400), (8, 0x806000), (9, 0x9000000), (20, 17)] }

theorem witness_MessageSendResults : (let s := post pt 7
     Machine.Inv s ∧ (1 : BitVec 6) ≠ 0 ∧ NoVectorMemory s ∧
     ok (release s) (fun _ s1 => !s1.splitIssue && s1.flights == [] && !pausing s1 0 && (mbxAt s1 1 1 3).defined && !(mbxAt s1 1 1 3).spilled && decide (0 < (mbxAt s1 1 1 3).count) &&
       decide ((mbxAt s1 1 1 3).count < 2 ^ (mbxAt s1 1 1 3).k) &&
       (lsPlace s1 1 1 ((mbxAt s1 1 1 3).base + 128 * (((mbxAt s1 1 1 3).head + (mbxAt s1 1 1 3).count) % 2 ^ (mbxAt s1 1 1 3).k))).isSome &&
       (lsPlace s1 0 1 (0x8000 + 128 * (13 % 8))).isSome) = true ∧
     (ownerAt s 1).stopped = false ∧
     Issues s [G (1 : BitVec 6), G (56 : BitVec 6), .g 63] ((List.range 8).map fun k => .g (56 + k)) ∧
     badDesc true (rg s 1) = false ∧ badDesc false (rg s 1) = false ∧ (rg s 1).getLsbD 24 = false ∧ field (rg s 1) 32 8 = 0 ∧
     field (rg s 1) 0 10 < nrank (owner s) ∧ rankCore (owner s) (field (rg s 1) 0 10) = 1 ∧ field (rg s 1) 13 3 = 3 ∧
     (Issues s [G (2 : BitVec 6), G (20 : BitVec 6), .g 23] ((List.range 4).map fun k => .g (20 + k)) ∧ (rg s 2).getLsbD 24 = false ∧
       field (rg s 2) 40 8 = 1 ∧ field (rg s 2) 0 10 < nrank (owner s) ∧ field (rg s 2) 25 3 = 3)) := by
  unfold Issues NoVectorMemory Machine.Inv
  decide

/-- The greatest value of each field of a header. -/
theorem witness_MessageSendResults_header : (255 : Nat) < 2 ^ 8 ∧ (3 : Nat) < 4 ∧ (15 : Nat) < 2 ^ 4 ∧ (7 : Nat) < 8 ∧ (1023 : Nat) < 2 ^ 10 ∧ (0 : Nat) < 2 ^ 10 := by decide

theorem witness_MessageSendResults_refused : (let s := post pt 7
     NoVectorMemory s ∧ Issues s [G (3 : BitVec 6), G (20 : BitVec 6), .g 20] [.g 20] ∧ field (rg s 3) 40 24 ≠ 0 ∧
     (Issues s [G (6 : BitVec 6), G (20 : BitVec 6), .g 23] ((List.range 4).map fun k => .g (20 + k)) ∧ field (rg s 6) 40 24 ≠ 0) ∧
     (Issues s [G (7 : BitVec 6), G (20 : BitVec 6), .g 23] ((List.range 4).map fun k => .g (20 + k)) ∧ field (rg s 7) 10 3 ≠ 0) ∧
     (Issues s [G (8 : BitVec 6), G (20 : BitVec 6), .g 23] ((List.range 4).map fun k => .g (20 + k)) ∧ (rg s 8).getLsbD 24 = false ∧
       field (rg s 8) 20 4 ≠ 0) ∧
     (Issues s [G (9 : BitVec 6), G (20 : BitVec 6), .g 20] [.g 20] ∧ (rg s 9).getLsbD 24 = true ∧ field (rg s 9) 25 7 ≠ 0) ∧
     badDesc true (rg s 4) = false ∧ field (rg s 4) 32 8 = 0 ∧ nrank (owner s) ≤ field (rg s 4) 0 10 ∧
     Issues s [G (5 : BitVec 6), G (20 : BitVec 6), .g 23] ((List.range 4).map fun k => .g (20 + k)) ∧ (rg s 5).getLsbD 24 = true) := by
  unfold Issues NoVectorMemory
  decide

/-! ### Hypotheses of the statements about events of messages, threads, kernels and launches -/

/-- Doublewords laid down above what the memory holds, in rising order of places. -/
def put (s : State) (l : List (Nat × Nat)) : State := { s with mem := s.mem ++ cells (l.map fun p => (p.1, 8, p.2)) }

def flying (i : Nat) (ev : Option Nat) (m : Nat) : Flight :=
  { id := i, core := 0, slot := 0, uid := 1, srcOwner := 1, owner := 1, rank := 1, mbx := m, event := ev, desc := 0, msg := ⟨0, [0x77]⟩ }

/-- Two cores, with the contexts given and a thread in slot 2 of the second. -/
def duo (t : Thread) (x0 : Ctx) (fls : List Flight) : State :=
  { cores := [(0, { co t with ctxs := [(1, x0)] }), (1, { co th with threads := [(2, th)], ctxs := [(1, { cx with rank := 1 })] })]
    owners := [(1, ow)], nextUid := 50, flights := fls }

/-- A core that dispatches from mailbox 3, spilled, with two of its eight places taken. -/
def dis (st : KState) : Owner := { ow with kernels := [(1, { st := st, record := [], ring := 0, depth := 0, order := 0, entered := 0 })] }
def inbox (p : List (Nat × Nat)) : State :=
  put (paged { oneCtx th fun x => { x with
      mbxs := [(3, { mbx 2 with head := 7, spilled := true })]
      classes := [(49, { entry := 0x2000, word1 := BitVec.ofNat 64 (2 + 0xA5 * 256 + 7 * 2 ^ 20), budget := 100, kid := 1 })]
      mbxpond := BitVec.ofNat 64 (0xC0000 * 4096 + 5), pond := p } with owners := [(1, dis .running)] })
    [(ls (0x8000 + 7 * 128), (header 5 1 true 2 0 0 false 1 3 0).toNat), (ls (0x8010 + 7 * 128), 0x1111)]

/-- A receiver on the second core with mailbox 3 as given and room in its pond, and a thread that waits for a status. -/
def dest (m : Mailbox) (p : List (Nat × Nat)) (f : Flight) : State :=
  paged { cores := [(0, { co { th with st := .blocked, wait := some (.send1 4 5, .status 9 none) } with ctxs := [(1, cx)] }),
              (1, { co th with threads := [(2, th)], ctxs := [(1, { cx with
                  rank := 1, mbxs := [(3, m)], mbxpond := BitVec.ofNat 64 (0xC0000 * 4096 + 5), pond := p, pondTail := p.length % 32
                  classes := [(48, { entry := 0x2000, word1 := BitVec.ofNat 64 (2 + 0xA5 * 256), budget := 100, kid := 1 })] })] })]
          owners := [(1, dis .running)], nextUid := 50, flights := [f] }

theorem witness_MessageEvents_event : (let s := duo { th with st := .blocked, wait := some (.send1 4 5, .status 9 none) } cx [flying 9 (some 2) 0]
     s.flights[0]? = some (flying 9 (some 2) 0) ∧ firstOnChannel s (flying 9 (some 2) 0) = true ∧ 1 < nrank (ownerAt s 1) ∧
     rankCore (ownerAt s 1) 1 = 1 ∧ pausing s 0 = false ∧ (thrAt s 1 2).st ≠ .free ∧ (thrAt s 1 2).owner = 1 ∧
     (thrAt s 0 0).st ≠ .free ∧ (thrAt s 0 0).uid = 1 ∧ (thrAt s 0 0).wait = some (.send1 4 5, .status 9 none)) := by decide

/-- Refused: an Undefined mailbox, mailbox 0 from an owner; taken: an empty mailbox, one with a message, a full one, a Spilled one
with its pond one short of full, and a full pond. -/
theorem witness_MessageEvents_arrival : (let s := dest (mbx 0) [] (flying 9 none 4)
     s.flights[0]? = some (flying 9 none 4) ∧ firstOnChannel s (flying 9 none 4) = true ∧ (mbxAt s 1 1 4).defined = false ∧
     (flying 9 none 0).srcOwner ≠ 0) ∧
    (let f := flying 9 none 3
     (let s := dest (mbx 0) [] f
      s.flights[0]? = some f ∧ firstOnChannel s f = true ∧ f.srcOwner = f.owner ∧ (mbxAt s 1 1 3).defined = true ∧
      (ownerAt s 1).stopped = false ∧ (mbxAt s 1 1 3).spilled = false ∧ (mbxAt s 1 1 3).count = 0 ∧
      chooseMailbox s 1 1 (fun j => if j = 3 then some f.msg else headMsg s 1 1 j) = some 3 ∧ (mayDispatch s 1 1 3 f.msg).isSome = true) ∧
     (let s := dest (mbx 7) [] f
      Machine.Inv s ∧ 0 < (mbxAt s 1 1 3).count ∧ (mbxAt s 1 1 3).count + 1 = 2 ^ (mbxAt s 1 1 3).k ∧ f.msg.payload.length ≤ 8 ∧
      (lsPlace s 1 1 ((mbxAt s 1 1 3).base + 128 * ((6 + 7) % 8))).isSome = true) ∧
     (let s := dest (mbx 8) [] f
      2 ^ (mbxAt s 1 1 3).k ≤ (mbxAt s 1 1 3).count ∧ pondSpan (ctxAt s 1 1) < pondSize (ctxAt s 1 1) ∧
      (pondKey s 1 (ctxAt s 1 1) (ctxAt s 1 1).pondTail { w := true }).isSome = true) ∧
     (let s := dest { mbx 8 with spilled := true } ((List.range 31).map fun i => (i, 3)) f
      (mbxAt s 1 1 3).spilled = true ∧ pondSpan (ctxAt s 1 1) < pondSize (ctxAt s 1 1)) ∧
     (let s := dest { mbx 8 with spilled := true } ((List.range 32).map fun i => (i, 3)) f
      (mbxAt s 1 1 3).spilled = true ∧ pondSize (ctxAt s 1 1) ≤ pondSpan (ctxAt s 1 1))) := by
  unfold Machine.Inv
  decide

theorem witness_MessageEvents_after : (let s := duo { th with st := .blocked, wait := some (.send 4 5, .status 9 (some 3)) } cx []
     (thrAt s 0 0).wait = some (.send 4 5, .status 9 (some 3)) ∧ pausing s (stackOf 0) = false) ∧
    (let s := inbox [(7, 3), (8, 3)]
     (ctxAt s 0 1).pond = [(7, 3), (8, 3)] ∧ (mbxAt s 0 1 3).defined = true ∧ (mbxAt s 0 1 3).count < 2 ^ (mbxAt s 0 1 3).k ∧
     (pondKey s 1 (ctxAt s 0 1) 7 { r := true }).isSome = true ∧ pausing s (stackOf 0) = false) ∧
    (let s := inbox []
     nextMailbox s 0 (coreAt s 0).active = some 3 ∧ pausing s (stackOf 0) = false ∧
     (match headMsg s 0 1 3 with | some m => (mayDispatch s 0 1 3 m).isSome | none => false) = true) := by decide

/-- Two words of a binding and of a class in the local store; mailbox 3 holds a message for a pull class, 2 none. -/
def boxes (sup : Bool) : State :=
  put (oneCtx { th with g := [(1, 0x100), (2, 0x200)], sup := sup } fun x => { x with
      mbxs := [(2, mbx 0), (3, { mbx 1 with head := 7 })]
      classes := [(50, { entry := 0, word1 := BitVec.ofNat 64 (2 + 0xA5 * 256 + 7 * 2 ^ 20), budget := 100, kid := 1 })] })
    [(ls 0x100, 0x3E000), (ls 0x108, 6), (ls 0x200, 0x2000), (ls 0x208, 2 + 0xA5 * 256 + 7 * 2 ^ 20), (ls 0x210, 7),
     (ls (0x8000 + 7 * 128), (header 5 1 false 2 0 0 false 2 3 0).toNat)]

theorem witness_MailboxResults : (let s := boxes false
     isControl s.core = false ∧ NoVectorMemory s ∧ NoBuffered s ∧ Issues s [G (1 : BitVec 6)] [] ∧ holdsMessages s 2 = false ∧
     OwnAccess s (rg s 1) 0 16 (ls 0x100) ∧ homeNat s (ls 0x100) 8 % 128 = 0 ∧ 4 ≤ homeNat s (ls 0x108) 8 ∧
     homeNat s (ls 0x108) 8 ≤ 12 ∧ homeNat s (ls 0x100) 8 + 128 * 2 ^ homeNat s (ls 0x108) 8 ≤ lsLimit s s.core 1 ∧
     (Issues s [G (2 : BitVec 6)] [] ∧ (mbxAt s s.core 1 3).defined = true ∧ OwnAccess s (rg s 2) 0 32 (ls 0x200) ∧
       badClass ((List.range 4).map fun i => BitVec.ofNat 64 (homeNat s (ls 0x200 + 8 * i) 8)) = false) ∧ Issues s [] [] ∧
     (∀ q ∈ [(classAt s s.core 1 3 2)], q.isSome = true) ∧ (kernelAt s 1 1).all (fun j => j.st != .closing) = true ∧
     (Issues s [G (20 : BitVec 6), .g 28] ((List.range 9).map fun k => .g (20 + k)) ∧
       (match headMsg s s.core 1 3 with
         | some h => (classAt s s.core 1 3 (hdrClass h.header)).any fun q => q.entry == 0
         | none => false) = true)) ∧
    (let s := boxes true
     (thr s).sup = true ∧ Issues s [G (0 : BitVec 6)] [] ∧ holdsMessages s 0 = false) := by
  unfold Issues NoVectorMemory NoBuffered OwnAccess
  decide

/-- What each of the four traps on: in user mode mailbox 0, Defined or not, a mailbox that holds messages, one that is Undefined,
descriptors that do not fit. -/
theorem witness_MailboxResults_traps : let s := updMbx (boxes false) 0 1 0 fun _ => mbx 0
    let word (k i : Nat) : Word := BitVec.ofNat 64 (homeNat s (k + 8 * i) 8)
    isControl s.core = false ∧ NoVectorMemory s ∧ NoBuffered s ∧ (thr s).sup = false ∧ Issues s [G (0 : BitVec 6)] [] ∧ Issues s [] [] ∧
    Issues s [G (1 : BitVec 6)] [] ∧ Issues s [G (2 : BitVec 6)] [] ∧ holdsMessages s 3 = true ∧
    OwnAccess s (rg s 1) 0 16 (ls 0x100) ∧ OwnAccess s (rg s 2) 0 16 (ls 0x200) ∧ 12 < (word (ls 0x200) 1).toNat ∧
    ((word (ls 0x100) 0).toNat % 128 = 0 ∧ 4 ≤ (word (ls 0x100) 1).toNat ∧ (word (ls 0x100) 1).toNat ≤ 12 ∧
      (word (ls 0x100) 0).toNat + 128 * 2 ^ (word (ls 0x100) 1).toNat ≤ lsLimit s s.core 1) ∧
    (word (ls 0x100) 0).toNat % 128 = 0 ∧ (word (ls 0x100) 1).toNat = 6 := by
  unfold Issues NoVectorMemory NoBuffered OwnAccess
  decide

theorem witness_MailboxResults_bindingTraps : let s := updMbx (boxes false) 0 1 0 fun _ => mbx 0
    let word (k i : Nat) : Word := BitVec.ofNat 64 (homeNat s (k + 8 * i) 8)
    OwnAccess s (rg s 1) 0 32 (ls 0x100) ∧ OwnAccess s (rg s 2) 0 32 (ls 0x200) ∧
    badClass [word (ls 0x100) 0, word (ls 0x100) 1, word (ls 0x100) 2, word (ls 0x100) 3] = true ∧
    badClass [word (ls 0x200) 0, word (ls 0x200) 1, word (ls 0x200) 2, word (ls 0x200) 3] = false ∧
    (mbxAt s 0 1 5).defined = false ∧ (mbxAt s 0 1 3).defined = true ∧ (mbxAt s 0 1 0).defined = true ∧
    (mbxAt (boxes false) 0 1 0).defined = false ∧
    Issues s [G (20 : BitVec 6), .g 28] ((List.range 9).map fun k => .g (20 + k)) := by
  unfold Issues OwnAccess
  decide

/-- A thread whose registers hold the addresses of continuation records; the records are in its local store. -/
def lt : Thread := { th with prio := 9, g := [(1, 0x100), (2, 0x200), (3, 0x300), (4, mkPtr 4 0 0x400)] }
def recs : List (Nat × Nat) :=
  [(ls 0x200, 0x2000 + 9 * 2 ^ 54), (ls 0x208, 0x77), (ls 0x300, 3 * 2 ^ 52 + 0x2000), (ls 0x400, 2 ^ 63 + 0x2000 + 2 ^ 22)]
/-- A core with other threads besides. -/
def crowd (t : Thread) (n : Nat) (st : KState) : State :=
  { oneCore t fun c => { c with threads := (0, t) :: (List.range n).map fun i => (i + 1, { th with uid := 20 + i }) } with
      owners := [(1, dis st)] }
def life (t : Thread) (n : Nat) : State := put (crowd t n .running) recs

theorem witness_ThreadLife : (let s := life lt 0
     Issues s [] [] ∧ isControl s.core = false ∧ (thr s).sup = false ∧ (thr s).gang = none ∧ idleUnits s s.core (thr s) = true ∧
     dueLate (thr s) = none ∧ Machine.Inv s ∧ Issues s [G (1 : BitVec 6)] [] ∧ NoVectorMemory s ∧ OwnAccess s (rg s 1) 0 64 (ls 0x100) ∧
     ok (release s) (fun _ s1 => (coreAt s1 s.core).sb == [] && !s1.splitIssue) = true) ∧
    (let s := life { lt with sup := true } 0
     Issues s [] [] ∧ isControl s.core = false ∧ (thr s).sup = true) := by
  unfold Issues NoVectorMemory OwnAccess Machine.Inv
  decide

theorem witness_ThreadLife_resume : (let s := life lt 1
     Machine.Inv s ∧ Issues s [G (7 : BitVec 6), G (1 : BitVec 6)] [] ∧ isControl s.core = false ∧ NoVectorMemory s ∧ (thr s).gang = none ∧
     (Instr.resumec 7 2 0).wf = true ∧ wrapping s (thr s).owner (thr s).kid = false ∧
     ok (address s (rg s 1) 0 64 0 { r := true, w := true }) (fun p t => homeNat t p.2.key 8 == 0) = true ∧
     ok (address s (rg s 3) 0 64 0 { r := true, w := true }) (fun p t => field (BitVec.ofNat 64 (homeNat t p.2.key 8)) 52 2 == 3) = true ∧
     ok (address s (rg s 4) 0 64 0 { r := true, w := true }) (fun p t =>
       let w := BitVec.ofNat 64 (homeNat t p.2.key 8)
       w.getLsbD 63 && field w 22 30 != 0) = true ∧
     ok (address s (rg s 2) 0 64 0 { r := true, w := true }) (fun p t =>
       let w := BitVec.ofNat 64 (homeNat t p.2.key 8)
       w != 0 && field w 52 2 != 3 && !w.getLsbD 63 && !w.getLsbD 62 &&
         (match roomFor t s.core (w.extractLsb' 52 2) 0 with | some (sl, _, _) => sl != s.slot | none => false)) = true) ∧
    (let s := life lt 15
     ok (address s (rg s 2) 0 64 0 { r := true, w := true }) (fun p t =>
       let w := BitVec.ofNat 64 (homeNat t p.2.key 8)
       w != 0 && field w 52 2 != 3 && (roomFor t s.core (w.extractLsb' 52 2) 0).isNone) = true) := by
  unfold Issues NoVectorMemory Machine.Inv
  decide

/-- The places of a record's words 1 to 7: in the thread's own local store, over the ranks of a group, and where the group has not
that rank. -/
theorem witness_ThreadLife_words : let t : Thread := { lt with g := [(1, mkPtr 4 0 0x400)] }
    (∀ p ∈ ([(life lt 0, 0), (many 8 (lone t), 4)] : List (State × BitVec 3)),
      (Instr.resumec 7 1 p.2).wf = true ∧
      ok (address p.1 (rg p.1 1) 0 64 p.2 { r := true, w := true }) (fun x s1 => (List.range 7).all fun i =>
        ok (locate s1 p.2 (x.1 + 8 * (i + 1)) { r := true }) fun _ s2 => s2 == s1) = true) ∧
    (∀ n ∈ [1, 7], let s := many n (lone t)
      Issues s [G (7 : BitVec 6), G (1 : BitVec 6)] [] ∧ isControl s.core = false ∧ NoVectorMemory s ∧ (thr s).gang = none ∧
      ok (address s (rg s 1) 0 64 4 { r := true, w := true }) (fun x s1 =>
        ((List.range (n - 1)).all fun i => ok (locate s1 4 (x.1 + 8 * (i + 1)) { r := true }) fun _ s2 => s2 == s1) &&
        match locate s1 4 (x.1 + 8 * (n - 1 + 1)) { r := true } with
        | .trap c _ s2 => c == Cause.lsbound && s2 == s1
        | _ => false) = true) := by
  unfold Issues NoVectorMemory
  decide

/-- Task records in registers: one of kernel 1, a malformed one, and one of a kernel that does not run. -/
def task (b e k p : Nat) : Tab Word :=
  [(b, BitVec.ofNat 64 e), (b + 1, BitVec.ofNat 64 k), (b + 2, BitVec.ofNat 64 p), (b + 3, 0x12345), (b + 4, 10), (b + 5, 11), (b + 6, 12), (b + 7, 13)]
def tt : Thread := { th with sup := true, g := task 1 0x2000 (1 + 5 * 2 ^ 32 + 7 * 2 ^ 42) 0x90 ++ task 9 0x2001 1 0 ++ task 17 0x2000 2 0x90 }

theorem witness_KernelResults_klaunch : (let s := crowd tt 1 .running
     let fits (a : Nat) : Prop := field ((thr s).getG (a + 1)) 53 11 = 0 ∧ field ((thr s).getG (a + 2)) 19 45 = 0 ∧
       field ((thr s).getG (a + 2)) 0 2 ≠ 3 ∧ codeAddress ((thr s).getG a) = true
     (thr s).sup = true ∧ Issues s [G (30 : BitVec 6), G (1 : BitVec 6), .g 8] ((List.range 8).map fun k => .g (1 + k)) ∧
     fits 1 ∧ kstate s 1 (field ((thr s).getG 2) 0 32) = some .running ∧
     (match roomFor s s.core (((thr s).getG 3).extractLsb' 0 2) (((thr s).getG 3).extractLsb' 2 2) with
       | some (sl, _, _) => sl != s.slot
       | none => false) = true ∧
     Issues s [G (30 : BitVec 6), G (9 : BitVec 6), .g 16] ((List.range 8).map fun k => .g (9 + k)) ∧ codeAddress ((thr s).getG 9) = false ∧
     Issues s [G (30 : BitVec 6), G (17 : BitVec 6), .g 24] ((List.range 8).map fun k => .g (17 + k)) ∧ fits 17 ∧
     kstate s 1 (field ((thr s).getG 18) 0 32) = none) ∧
    (let s := crowd tt 15 .running
     roomFor s s.core (((thr s).getG 3).extractLsb' 0 2) (((thr s).getG 3).extractLsb' 2 2) = none) ∧
    (let s := crowd { tt with sup := false } 1 .running
     (thr s).sup = false ∧ canIssue (thr s) = true ∧ outstanding (thr s) = false) := by
  unfold Issues
  decide

theorem witness_KernelResults_reads : (let s := crowd { th with budgetEn := true, budget := 2 ^ 48 - 1, g := [(1, 1), (2, 9), (3, -1)] } 0 .running
     Issues s [G (5 : BitVec 6), G (2 : BitVec 6)] [] ∧ kernelAt s 1 (rg s 2).toNat = none ∧ rg s 0 = 0 ∧
     Issues s [G (5 : BitVec 6), G (1 : BitVec 6)] [] ∧ rg s 1 ≠ 0 ∧ (thr s).budget < 2 ^ 48 ∧
     (kernelAt s 1 (rg s 1).toNat).any (fun k => k.cause < 2 ^ 8 && k.flag < 2 ^ 8) = true) ∧
    (let s := crowd { th with sup := true, g := [(1, 1)] } 0 .running
     Issues s [G (5 : BitVec 6), G (1 : BitVec 6)] [] ∧ rg s 1 ≠ 0 ∧ (thr s).budget < 2 ^ 48) := by
  unfold Issues
  decide

theorem witness_KernelResults_wrapdone : let s := crowd th 1 .wrappingUp
    Issues s [G (1 : BitVec 6)] [] ∧ NoVectorMemory s ∧ (thr s).sup = false ∧ (thr s).gang = none ∧ NoBuffered s ∧
    postedOut s s.core (thr s).uid = false ∧
    ok (release s) (fun _ s1 =>
      let x := closeKernel s1 (thr s).owner (thr s).kid (thr s).uid 3
      idleUnits x s.core (thr x) && (dueLate (thr x)).isNone && (thr x).gang.isNone &&
        (kernelAt s1 (thr s).owner (thr s).kid).any (fun k => k.live && k.flag == 0)) = true ∧
    Machine.Inv s ∧ (thr s).kid < 2 ^ 32 ∧
    (let u := paged s
     Machine.Inv u ∧ ok (release u) (fun _ s1 => (kernelAt s1 1 1).any fun k =>
       (userPlace s1 1 (ptrAddr k.flagAddr) { w := true }).isSome) = true ∧ Issues u [G (1 : BitVec 6)] []) := by
  unfold Issues NoVectorMemory NoBuffered Machine.Inv
  decide

/-- Cores of one owner, the first with a forker, whose registers hold operands of RFORK. -/
def ops5 (b e c g l : Nat) : Tab Word :=
  [(b, BitVec.ofNat 64 e), (b + 1, BitVec.ofNat 64 c), (b + 2, BitVec.ofNat 64 g), (b + 3, BitVec.ofNat 64 l), (b + 4, 0x55)]
def ft : Thread := { th with g := ops5 1 0x2000 10 3 0 ++ ops5 6 0x2000 0 3 0 ++ ops5 11 0x2000 100 1 3 }
def forks (t : Thread) (st : KState) (j : Tab JoinCell) : State := { many 6 (lone t) with owners := [(1, { dis st with joins := j })] }
def cell (p : Nat) : JoinCell := ⟨0, 1, p, 5, 0x3000, (List.range 7).map (BitVec.ofNat 64), 0, 3, false, false⟩

theorem witness_ForkAndJoinResults_fork : (let s := forks ft .running []
     Issues s [G (1 : BitVec 6), .g 5] ((List.range 5).map fun k => .g (1 + k)) ∧ NoVectorMemory s ∧ (thr s).gang = none ∧
     badFork ((List.range 5).map fun k => (thr s).getG (1 + k)) = false ∧ wrapping s 1 1 = false ∧ (freeCell (owner s) 0).isSome = true ∧
     idleUnits s s.core (thr s) = true ∧ dueLate (thr s) = none ∧
     ok (release s) (fun _ s1 => (forkOrder 0).contains 0 && (Tab.find (coreAt s1 (rankCore (owner s) 0)).ctxs 1).isSome &&
       (roomFor (freeSlot s1 s.core s.slot) (rankCore (owner s) 0) 0 0).isSome) = true ∧
     (∀ r < 64, rankCore (owner s) r = r) ∧
     Issues s [G (6 : BitVec 6), .g 10] ((List.range 5).map fun k => .g (6 + k)) ∧
     badFork ((List.range 5).map fun k => (thr s).getG (6 + k)) = false ∧ (thr s).getG 7 = 0) ∧
    wrapping (forks ft .wrappingUp []) 1 1 = true ∧
    freeCell (owner (forks ft .running ((List.range 256).map fun i => (i, cell 1)))) 0 = none := by
  unfold Issues NoVectorMemory
  decide

/-- The last task of a fork, and one of two, whose first register holds the handle of cell 0. -/
def joiner (p : Nat) : State := forks { th with g := [(1, Config.joinHandle 0)] } .running [(0, cell p)]

theorem witness_ForkAndJoinResults_join : (let s := forks th .running []
     Issues s [G (1 : BitVec 6)] [] ∧ NoVectorMemory s ∧ (thr s).gang = none ∧ cellNamed (owner s) (rg s 1) = none) ∧
    ∀ p ∈ [1, 2], let s := joiner p
      Issues s [G (1 : BitVec 6)] [] ∧ NoVectorMemory s ∧ (thr s).gang = none ∧
      idleUnits s s.core (thr s) = true ∧ dueLate (thr s) = none ∧ ok (release s) (fun _ _ => true) = true ∧
      (cell p).regs.length = 7 ∧ (cell p).total < 2 ^ 64 ∧ (cell p).discarded = false := by
  unfold Issues NoVectorMemory
  decide

theorem witness_ForkAndJoinResults_named (p : Nat) : cellNamed (owner (joiner p)) (rg (joiner p) 1) = some (0, cell p) := by
  have h : rg (joiner p) 1 = Config.joinHandle 0 := rfl
  have o : (owner (joiner p)).joins = [(0, cell p)] := rfl
  simp only [cellNamed, h, o]
  simp

/-! ### Hypotheses of the statements about launches, transfers, barriers, shape records and the arcade -/

/-- Doublewords from an address on. -/
def words (a : Nat) (l : List Nat) : List (Nat × Nat) := l.mapIdx fun i x => (a + 8 * i, x)
def hbm (n : Nat) : Nat := 0x40000000 + n
def launch (ng list ver : Nat) : List Nat :=
  [ver + 5 * 256 + ng * 2 ^ 32 + 9 * 2 ^ 48, 0x2000, 1000, 2 ^ 64 - 1, 0x3000, 0, 0x5000, 0, 0, list, 1, 2, 3, 4, 0]
def kern (st : KState) (l : List Nat) : Kernel := { st := st, record := l.map (BitVec.ofNat 64), ring := 0, depth := 0, order := 0, entered := 0 }
def rq (r : Nat) : CmdRing := { qcb := 0x1000, base := 0x10000, n := 4, ceil := 200, host := true, running := true, r := r }
/-- A command ring with a ready slot, one whose kernel asks for nine groups, an old one and one of another number; a list of
one record; and kernels that have ended, with lists. -/
def rings (r : Nat) : State :=
  put (paged { one th with owners := [(1, { ow with
      cmdRings := [(0, rq r)]
      kernels := [(3, kern .closed (launch 1 0 1)), (4, { kern .closed (launch 1 0x20000 1) with flag := 1 }),
                  (6, { kern .closed (launch 1 (6 * gib) 1) with flag := 1 })] })] })
    (words (hbm 0x1000) [3, 0, 0, 0, 0x10004, 1 + 200 * 256 + 65536, 0, 0] ++ words (hbm 0x10000) (1 :: launch 1 0 1) ++
     words (hbm 0x10080) (2 :: launch 9 0 1) ++ words (hbm 0x10100) ((2 ^ 64 - 13) :: launch 1 0 1) ++ words (hbm 0x10180) (9 :: launch 1 0 1) ++
     words (hbm 0x20000) [1] ++ words (hbm 0x20080) (0 :: launch 1 0 1))

theorem witness_LaunchEvents_attach : let s := rings 0
    (Tab.find s.owners 1).isSome = true ∧ (userWords s 1 0x1000 8).isSome = true ∧ Machine.Inv s ∧
    (userPlace s 1 (0x1000 + 16) { w := true }).isSome = true := by
  unfold Machine.Inv
  decide +kernel

theorem witness_LaunchEvents_rings : ∀ p ∈ [(0, 1), (1, 2), (2, 2 ^ 64 - 13), (3, 9)], let s := rings p.1
      (Tab.find (ownerAt s 1).cmdRings 0).map (fun q => (q.running, q.r)) = some (true, p.1) ∧ (ownerAt s 1).stopped = false ∧
      (userWords s 1 (0x10000 + 128 * (p.1 % 16)) 16).map (fun ws => (ws.getD 0 0).toNat) = some p.2 ∧
      (match userWords s 1 (0x10000 + 128 * (p.1 % 16)) 16 with
        | some ws => (rejection s 1 { kern .placing [] with record := ws.drop 1, order := s.nextUid, entered := timeNow s } 200).isSome == (p.1 == 1)
        | none => false) = true ∧
      ((ownerAt s 1).kernels.filter fun k => k.2.over).length < 4096 := by decide +kernel

theorem witness_LaunchEvents_successors : let s := rings 0
    ((kernelAt s 1 3).map fun k => (k.st, k.listDone, k.listAddr)) = some (.closed, false, 0) ∧
    ((kernelAt s 1 6).map fun k => (k.st, k.listDone, k.listAddr)) = some (.closed, false, BitVec.ofNat 64 (6 * gib)) ∧ userWords s 1 (6 * gib) 16 = none ∧
    ((kernelAt s 1 4).map fun k => (k.st, k.listDone, k.listAddr, k.flag)) = some (.closed, false, 0x20000, 1) ∧ (ownerAt s 1).nextKid ≠ 4 ∧
    (match userWords s 1 0x20000 16, userWords s 1 (0x20000 + 128) 16 with
      | some ws, some rec => badHeader ws == false && field (ws.getD 0 0) 0 5 == 1 &&
          (rejection s 1 { kern .placing [] with record := rec.drop 1, depth := 1, order := s.nextUid, entered := timeNow s }
            (((Tab.find (ownerAt s 1).cmdRings 0).map CmdRing.ceil).getD 0)).isNone
      | _, _ => false) = true := by decide +kernel

/-- Kernels in Placing, wrapping up, and with a deadline of 100, on an owner of three positions. -/
def placing (ks : Tab Kernel) (n clk : Nat) : State :=
  { one th with owners := [(1, { grants := [⟨0, 0, 0⟩, ⟨0, 1, 0⟩, ⟨1, 3, 2⟩].take n, kernels := ks })], timeU := clk }

theorem witness_PlacementAndDeadlineEvents_placement : (∀ p ∈ [(1, 1), (4, 1), (9, 3)], let s := placing [(1, kern .placing (launch p.1 0 1))] p.2 0
      (Tab.find s.owners 1).isSome = true ∧ (ownerAt s 1).stopped = false ∧ kernelAt s 1 1 = some (kern .placing (launch p.1 0 1)) ∧
      (placingOrder s 1).map (fun q => (q.1, q.2.2)) = [(1, kern .placing (launch p.1 0 1))] ∧
      (fit p.1 (ownerAt s 1).grants.length (usable s 1)).isSome = true) ∧
    (let s := placing [(1, kern .placing (launch 5 0 1))] 1 0
     (placingOrder s 1).map (fun q => (q.1, q.2.2)) = [(1, kern .placing (launch 5 0 1))] ∧
     fit 5 (ownerAt s 1).grants.length (usable s 1) = none) ∧
    (let s := placing [(1, kern .placing (launch 1 0 1))] 1 0
     let s := { s with owners := [(1, { ownerAt s 1 with pass := { kids := [1], groups := 4, usable := usable s 1, free := [0, 1, 2, 3] } })], cycle := 3299999 }
     let last := (ownerAt s 1).pass
     ¬(1 ∉ last.kids ∨ last.groups ≠ 4 * (ownerAt s 1).grants.length ∨ last.done + 3300000 ≤ s.cycle ∨ ∃ g ∈ usable s 1, g ∉ last.usable) ∧
     (∀ g < 4, g ∈ last.free) ∧ last.done + 3300000 ≤ s.cycle + 1 ∧
     (let s := { s with owners := [(1, { ownerAt s 1 with pass := { last with free := [0, 1, 2] } })] }
      (ownerAt s 1).pass.free.contains 3 = false ∧ ∀ p ∈ (ownerAt s 1).kernels, p.2.live = true → 3 ∉ p.2.groups)) := by decide

/-- Choices among the groups of three positions: up to four, more with whole positions and a rest, and sets too small for each. -/
theorem witness_PlacementAndDeadlineEvents_fit : (let u := [1, 2, 4, 5, 6, 7, 8]
     u.Pairwise (· < ·) ∧ (∀ g ∈ u, g < 4 * 3) ∧ fit 3 3 u = some [4, 5, 6] ∧ fit 4 3 u = some [4, 5, 6, 7] ∧
     fit 5 3 u = some [1, 4, 5, 6, 7] ∧ fit 7 3 u = none ∧ fit 8 3 u = none ∧ fit 4 3 [1, 2, 5] = none) := by decide

def due : List Nat := (launch 1 0 1).set 3 100

theorem witness_PlacementAndDeadlineEvents_deadline : let ks : Tab Kernel := [(1, kern .running due), (2, kern .placing due), (3, kern .wrappingUp due), (4, { kern .wrappingUp due with wrapLeft := 5 }),
      (5, kern .running (launch 1 0 1))]
    let s := placing ks 3 (165000 * 100)
    (∀ p ∈ ks, kernelAt s 1 p.1 = some p.2 ∧ p.2.flag = 0) ∧ ((ownerAt s 1).kernels.filter fun k => k.2.over).length < 4096 ∧
    (kern .running due).hasDeadline = true ∧ (kern .running due).dline ≤ timeNow s ∧ (kern .running (launch 1 0 1)).hasDeadline = false ∧
    timeNow (placing ks 3 (165000 * 99)) < (kern .running due).dline ∧ (kern .wrappingUp due).wrapLeft = 0 := by decide

/-- The slack of a kernel: with no deadline, with one that no rotation of its stacks comes before, and with one after the next. -/
theorem witness_KernelResults_deadline : let by' (d : Nat) : State :=
      { one th with owners := [(1, { ow with kernels := [(1, { kern .running (((launch 1 0 1).set 3 d).set 7 1000) with groups := [0] })] })] }
    (∀ p ∈ [(2 ^ 64 - 1, false), (100, true), (2 ^ 40, true)], let s := by' p.1
      Issues s [G (5 : BitVec 6), G (1 : BitVec 6)] [] ∧ rg s 0 = 0 ∧ rg s 1 ≠ 0 ∧
      (kernelAt s 1 1).any (fun k => k.hasDeadline == p.2 && k.groups == [0] && k.expected == 1000 && k.rem.isNone && k.placed == 0) = true ∧
      timeNow s = 0) ∧
    (let s := by' 100
     stackOf (rankCore (ownerAt s 1) (16 * 0)) = 0 ∧ (stackAt s 0).rotEn = true ∧ ((100 : Nat) : Int) - 1000 ≤ ((rotNext s 0).toNat : Int) ∧
     ((rotNext s 0).toNat : Int) < ((2 ^ 40 : Nat) : Int) - 1000) ∧
    kernelAt (one th) 1 1 = none := by
  unfold Issues
  decide

/-- A thread whose registers hold places of parameter blocks: a valid copy, one with a bad flag, a multicast; and transfers. -/
def xt : Thread := { th with g := [(1, 0x1000), (2, 0x1040), (3, 0x1080), (7, 1), (8, 3), (9, 0x10001), (10, BitVec.ofNat 64 (200 * 2 ^ 16 + 1)), (11, 2)] }
def xblk (flags src len words : Nat) : List Nat := [flags, src, 0x800, len, 0, 0, 0, words]
def xrq (n : Nat) (mc : Bool) (b : List Nat) : XferReq :=
  { num := BitVec.ofNat 16 n, owner := 1, core := 0, uid := 1, slot := 0, sup := false, mcast := mc, block := b.map (BitVec.ofNat 64) }
def moving (f : Ctx → Ctx) (t : Thread) (xs : List Xfer) : State :=
  { put (paged (oneCtx t f)) (words (ls 0x1000) (xblk 0 0x100 32 0) ++ words (ls 0x1040) (xblk 3 0x101 32 0) ++ words (ls 0x1080) (xblk 0 0x100 32 0)) with
      xfers := xs }

theorem witness_TransferResults : let s := moving (fun x => { x with xferCtr := 0xFFFF }) xt []
    (∀ a ∈ [(1, false, true), (2, false, false), (3, true, true)], let r := BitVec.ofNat 6 a.1
      Issues s [G (5 : BitVec 6), G r] [] ∧ OwnAccess s (rg s r) 0 64 (ls (0x1000 + 64 * (a.1 - 1))) ∧
      (xferFault s { xrq 0 a.2.1 [] with block := (List.range 8).map fun i => BitVec.ofNat 64 (homeNat s (ls (0x1000 + 64 * (a.1 - 1)) + 8 * i) 8) }).isNone
        = a.2.2) ∧
    NoVectorMemory s ∧ NoBuffered s ∧ copied (thr s) = none ∧ answered (thr s) = none ∧ s.xflights = [] ∧ xfersOut s (thr s).uid < 64 ∧
    ok (release s) (fun _ s1 => !s1.splitIssue && (ctx s1).xovfReqs.isEmpty && !holdsWrite s1 s1.core 1 &&
      !streamerPaused s1 (streamerOf s1 { xrq 0xFFFF false (xblk 0 0x100 32 0) with num := (ctx s1).xferCtr }) && decide (onChip s1 (streamerOf s1
      { xrq 0xFFFF false (xblk 0 0x100 32 0) with num := (ctx s1).xferCtr }) < 32)) = true := by
  unfold Issues NoVectorMemory NoBuffered OwnAccess
  decide +kernel

theorem witness_TransferResults_reads : (let s := moving id { xt with xferid := 0x8000000000000005, xepc := 0x2000 } [
       ⟨xrq 3 false (xblk 0 0x100 32 0), .running, 0, [], 0, [], []⟩, ⟨xrq 2 false (xblk 0 0x100 32 0), .faulted, 0, [], 8, [], []⟩]
     Issues s [G (5 : BitVec 6), G (7 : BitVec 6)] [] ∧ (rg s 0).toNat < xfersOut s (thr s).uid ∧ xfersOut s (thr s).uid ≤ (rg s 8).toNat ∧
     ((unreported s (thr s).uid).map Xfer.reason) = some 8 ∧
     (s.xfers.find? fun x => x.req.num == (rg s 7).setWidth 16 && x.req.owner == 1 && x.req.core == s.core) = none ∧
     ((s.xfers.find? fun x => x.req.num == (rg s 11).setWidth 16 && x.req.owner == 1 && x.req.core == s.core).map fun x => x.req.mcast) = some false ∧
     Issues s [G (9 : BitVec 6)] [] ∧ NoVectorMemory s ∧ field (rg s 9) 16 10 < nrank (owner s) ∧ nrank (owner s) ≤ field (rg s 10) 16 10 ∧
     ok (release s) (fun _ _ => true) = true ∧ Issues s [] [] ∧ (thr s).xferid.getLsbD 63 = true ∧ (thr s).xepc.getLsbD 0 = false ∧
     (thr s).xepc.toNat < 2 ^ 52) ∧
    (let s := moving id xt []
     unreported s (thr s).uid = none ∧ xfersOut s (thr s).uid ≤ (rg s 0).toNat ∧ (thr s).xferid.getLsbD 63 = false) := by
  unfold Issues NoVectorMemory
  decide

/-- A copy of four words from one place of the core's local store to another. -/
def copier : XferReq := xrq 5 false (xblk 0 0x100 32 0)
def copying : State := moving id xt [⟨copier, .queued, 0, [], 0, [], []⟩]

theorem copierSides (u : State) (ho : u.owners = copying.owners) (hc : ∀ c o, ctxAt u c o = ctxAt copying c o) :
    ∀ j < 4, sidePlace u copier copier.sglb (copier.w 1) (field (copier.w 1) 22 10) (0 * copier.sstride + 8 * j) { r := true } =
        .inl (ls (0x100 + 8 * j)) ∧
      ∀ q ∈ copier.dests, sidePlace u copier (copier.dglb && !copier.mcast) (copier.w 2) q (0 * copier.dstride + 8 * j) { w := true } =
        .inl (ls (0x800 + 8 * j)) := by
  have hx : ctxAt u = ctxAt copying := by funext c o; exact hc c o
  have hy : ownerAt u = ownerAt copying := by funext o; simp only [ownerAt, ho]
  have e (w : Word) (k d : Nat) (n : Need) : sidePlace u copier false w k d n = sidePlace copying copier false w k d n := by
    unfold sidePlace lsLimit lsPlace
    rw [hx, hy]
    simp only [Bool.false_eq_true, if_false]
  have hs : copier.sglb = false := by decide
  have hd : (copier.dglb && !copier.mcast) = false := by decide
  simp only [hs, hd, e]
  decide +kernel

theorem witness_TransferEvents_copy : Machine.Inv copying ∧ copying.hostError = false ∧ (copying.xfers[0]?).any (mayRun copying) = true ∧
    copier.rows = 1 ∧ copier.len / 8 = 4 ∧ copier.dests = [0] ∧
    (∀ j < 4, ls (0x100 + 8 * j) % 8 = 0 ∧ ls (0x800 + 8 * j) % 8 = 0 ∧ ∀ k < 4, ls (0x100 + 8 * j) ≠ ls (0x800 + 8 * k) ∧
      (ls (0x800 + 8 * j) = ls (0x800 + 8 * k) → j = k)) := by
  unfold Machine.Inv
  decide +kernel

/-- A running transfer with one word left, to be read or to be written. -/
def wordOf (v : Option Word) : XWord := { row := 0, off := 24, val := v, left := [0] }
def wording (v : Option Word) : State := moving id xt [⟨copier, .running, 0, [wordOf v], 0, [], []⟩]

theorem witness_TransferEvents_word : (let s := wording (some 7)
     (s.xfers[0]?).map (fun x => (x.req, x.st, x.todo, x.paused s)) = some (copier, .running, [wordOf (some 7)], false) ∧
     (wordOf (some 7)).left[0]? = some 0 ∧ s.hostError = false ∧ Machine.Inv s ∧
     sidePlace s copier (copier.dglb && !copier.mcast) (copier.w 2) 0 24 { w := true } = .inl (ls 0x818) ∧ ls 0x818 % 8 = 0) ∧
    (let s := wording none
     (s.xfers[0]?).map (fun x => (x.req, x.st, x.todo, x.paused s)) = some (copier, .running, [wordOf none], false) ∧
     sidePlace s copier copier.sglb (copier.w 1) (field (copier.w 1) 22 10) 24 { r := true } = .inl (ls 0x118)) := by
  unfold Machine.Inv
  decide +kernel

/-- A context that has spilled transfers to a ring in the page given, and a core that holds a request. -/
def spillsTo (page : Nat) (l : List (Nat × XferReq)) (x : Ctx) : Ctx :=
  { x with xovf := BitVec.ofNat 64 (page * 4096 + 5), xovfHead := 31, xovfReqs := l }
def spills : List (Nat × XferReq) → Ctx → Ctx := spillsTo 0xC0000
def holding (h : XHold) (l : List (Nat × XferReq)) : State :=
  updCore (moving (spills l) th []) 0 fun c => { c with xhold := some h }

theorem witness_TransferEvents_request : (∀ i ∈ [Instr.xfer 3 4, .xmcast 3 4],
      let f : XFlight := { id := 9, slot := 0, streamer := 0, req := xrq 5 false (xblk 0 0x100 32 0) }
      let s := { moving id { th with st := .blocked, wait := some (i, .answer 9 none) } [] with xflights := [f] }
      s.xflights[0]? = some f ∧ (ctxAt s 0 1).xovfReqs = [] ∧ holdsWrite s 0 1 = false ∧ onChip s 0 < 32 ∧
      streamerPaused s 0 = false ∧ pausing s (stackOf 0) = false ∧ (thrAt s 0 0).st = .blocked ∧ (thrAt s 0 0).uid = 1 ∧
      (thrAt s 0 0).wait = some (i, .answer 9 none)) := by decide +kernel

theorem witness_TransferEvents_intake : (let s := moving (spills [(0, xrq 5 false (xblk 1 2 3 4)), (3, xrq 6 false [])]) th [
       ⟨xrq 5 false (xblk 1 2 3 4), .spilled, 0, [], 0, [], []⟩, ⟨xrq 6 false [], .spilled, 3, [], 0, [], []⟩]
     onChip s 0 < 32 ∧ streamerPaused s 0 = false ∧
     (∀ q ∈ (intakeOrder s 0).takeWhile fun p => (headPlace s p).isNone, q.2 ≠ 1) ∧ ((intakeOrder s 0).find? fun p => (headPlace s p).isSome) = some (0, 1) ∧ (headPlace s (0, 1)).isSome = true ∧
     sameXfer (xrq 5 false (xblk 1 2 3 4)) (xrq 5 false (xblk 1 2 3 4)) = true) ∧
    (let s := moving (spillsTo 0x100000 [(0, xrq 5 false (xblk 1 2 3 4))]) th [⟨xrq 5 false (xblk 1 2 3 4), .spilled, 0, [], 0, [], []⟩]
     onChip s 0 < 32 ∧ streamerPaused s 0 = false ∧ intakeOrder s 0 = [(0, 1)] ∧ headPlace s (0, 1) = none ∧ (coreAt s 0).xhold = none) := by decide +kernel

theorem witness_TransferEvents_ends : (let x : Xfer := ⟨xrq 6 false (xblk 4 0x100 32 0), .running, 0, [], 0, [], []⟩
     let s := moving id th [x]
     s.xfers[0]? = some x ∧ pausing s (stackOf 0) = false ∧ x.todo = [] ∧ x.reason = 0 ∧ (boundQueue (ctxAt s 0 1) fun d => bindKind d == 3) = none ∧
     (thrAt s 0 0).uid = x.req.uid ∧ x.req.notify = false ∧ x.req.ring = false ∧ x.req.mcast = false ∧ x.req.irq = true) ∧
    (let r := xrq 7 true (xblk 0 0x100 32 (2 ^ 18 * 6))
     ∀ st ∈ [XState.running, .awaitingFree], let x : Xfer := ⟨r, st, 0, [], 0, [0, 1, 2, 3, 4, 5, 6], [0]⟩
       x.req.mcast = true ∧ x.req.tilesOf.contains 1 = true ∧ x.tiles.contains 1 = false ∧
       (x.req.ranks.all fun q => q / 4 != 1 || x.freed.contains q) = true ∧ (x.req.tilesOf.all fun u => u == 1 || x.tiles.contains u) = true) := by decide +kernel

theorem witness_TransferEvents_held : ∀ read ∈ [false, true], let h : XHold := ⟨1, 4, xrq 5 false [], read⟩
    let s := holding h [(3, xrq 6 false [])]
    ((s.cores.filter fun k => stackOf k.1 == 0 && k.2.xhold.isSome).map Prod.fst) = [0] ∧ (coreAt s 0).xhold = some h ∧
    h.req.core = 0 ∧ h.req.owner = h.owner ∧ holdOpen s 0 h = false ∧
    (areaPlace s 1 (xovfAddr (ctxAt s 0 1) (ctxAt s 0 1).xovfReqs.length) { w := true }).isSome = true ∧
    (areaPlace s 1 (xovfAddr (ctxAt s 0 1) 0) { r := true }).isSome = true ∧
    (let s := { s with compStacks := Tab.set { Tab.get {} s.compStacks 0 with faults := [(0, ⟨1, true, 0xC0000⟩)] } s.compStacks 0 }
     Tab.find (stackAt s 0).faults 0 = some ⟨1, true, 0xC0000⟩ ∧ holdOpen s 0 h = true) := by decide +kernel

/-- Barrier cells and barriers in memory at several points of a phase. -/
def bart : Thread := { th with g := [(1, 5), (2, 6), (3, 7), (6, -1), (7, 65536), (8, mkPtr 4 0 0x2000), (9, mkPtr 4 0 0x2010)] }
def bars (t : Thread) : State :=
  put (paged { one t with owners := [(1, { ow with cells := [(barIndex 0 0 0, ⟨5, 2, 1, 0⟩), (barIndex 0 0 1, ⟨5, 2, 0, 2⟩), (barIndex 0 0 2, ⟨5, 3, 0, 0⟩)] })] })
    (words (hbm 0x2000) [5 + 2 ^ 32, 2] ++ words (hbm 0x2010) [5, 3])

theorem witness_BarrierResults : let s := bars bart
    (∀ p ∈ [(0, 0, (0 : BitVec 6)), (0, 1, 0), (0, 2, 0), (3, 0, 8), (3, 0, 9)], let l := BitVec.ofNat 2 p.1; let i := BitVec.ofNat 4 p.2.1
      barrierFields i l p.2.2 = true ∧ Issues s (if l = 3 then [G (1 : BitVec 6), G p.2.2] else [G (1 : BitVec 6)]) [] ∧
      ok (barRef s p.2.2 l i { r := true, w := true }) (fun _ s1 => ok (release s1) (fun _ _ => true) && s1.cores.all fun c => c.2.sb.isEmpty) = true ∧
      ok (barRef s p.2.2 l i { r := true }) (fun r s1 => (readBar s1 1 r).cell.cur < 2 ^ 16 && (readBar s1 1 r).cell.nxt < 2 ^ 16) = true) ∧
    NoVectorMemory s ∧ arrivedAt (thr s) = none ∧
    ok (barRef s 0 0 2 { r := true, w := true }) (fun r s1 => (readBar s1 1 r).cell.cur == 0 && (readBar s1 1 r).cell.nxt == 0 && !anyWaits s1 1 r) = true ∧
    ok (barRef s 0 0 0 { r := true, w := true }) (fun r s1 => (readBar s1 1 r).cell.cur != 0) = true ∧
    (rg s 1).toNat ≤ barLimit 0 ∧ barLimit 0 < (rg s 6).toNat ∧
    ok (barRef s 0 0 0 { r := true, w := true }) (fun r s1 => match arriveBar (readBar s1 1 r) false 7 with | .inl e => decide (e < 8) | .inr _ => false) = true ∧
    ok (barRef s 0 0 0 { r := true, w := true }) (fun r s1 => match arriveBar (readBar s1 1 r) false 5 with
      | .inr c => barDone (readBar (writeBar s1 1 r c false) 1 r).cell 6
      | .inl _ => false) = true ∧
    ok (barRef s 0 0 2 { r := true, w := true }) (fun r s1 => match arriveBar (readBar s1 1 r) false 5 with
      | .inr c => !barDone (readBar (writeBar s1 1 r c false) 1 r).cell 6
      | .inl _ => false) = true ∧
    barDone ⟨5, 2, 1, 0⟩ 5 = true ∧ barDone ⟨5, 2, 1, 0⟩ 6 = false := by
  unfold Issues NoVectorMemory
  decide +kernel

/-- Tests of a barrier in memory and of a cell whose phase has ended, and has not. -/
theorem witness_BarrierResults_test : let s := bars bart
    NoVectorMemory s ∧ Issues s [G (1 : BitVec 6), G (8 : BitVec 6)] [] ∧ Issues s [G (2 : BitVec 6), G (8 : BitVec 6)] [] ∧ Issues s [G (2 : BitVec 6)] [] ∧
    ∀ p ∈ [(0, 0, (0 : BitVec 6)), (3, 0, 8)], let l := BitVec.ofNat 2 p.1; let i := BitVec.ofNat 4 p.2.1
      ok (barRef s p.2.2 l i { r := true }) (fun r s1 => !buffered s1 s1.core (thr s1).uid &&
        ((readBar s1 1 r).cell.p - (5 : BitVec 32)).toNat < 2 ^ 31 && !(((readBar s1 1 r).cell.p - (6 : BitVec 32)).toNat < 2 ^ 31)) = true := by
  unfold Issues NoVectorMemory
  decide +kernel

/-- Shape sets: two records by value, and one by a pointer to memory. -/
def shape : List Nat := [0x404, 0x10000, 100, 7, 0, 0, 400, 0, 0, 0, 4, 4, 0, 0, 0, 0] ++ List.replicate 8 0
def shaped (l : Tab ShapeSet) : State := put (paged (oneCtx { th with kcount := 16, kindex := 6, g := [(6, 23)] } fun x => { x with shapes := l })) (words (hbm 0x3000) shape)

theorem witness_ShapeResults : (let s := shaped [(0, ⟨9, 1, false, 0x3000, []⟩), (1, ⟨1, 2, false, 0x3000, [shape.map (BitVec.ofNat 64)]⟩)]
     NoVectorMemory s ∧ (shapeSet s).isSome = true ∧ (shapeSet s).any (fun x => !x.pointer && x.nshape == 2 && x.addr + 192 * 1 < 2 ^ 52) = true ∧
     ok (record s ⟨1, 2, false, 0x3000, [shape.map (BitVec.ofNat 64)]⟩ 0) (fun r _ => (List.range 4).all fun j => (shSlice r (thr s).kindex j).2 < 2 ^ 32) = true ∧
     Issues s [G (5 : BitVec 6), G (6 : BitVec 6)] [] ∧ (rg s 6).toNat < 24 ∧
     Issues s [G (10 : BitVec 6), .g 14] ((List.range 5).map fun k => .g (10 + k)) ∧ Issues s [G (5 : BitVec 6)] [] ∧
     Issues s [] [] ∧ ok (fence s 0 4) (fun _ _ => true) = true) ∧
    (let s := shaped [(1, ⟨1, 2, true, 0x3000, []⟩)]
     (shapeSet s).any (fun x => x.pointer && x.nshape == 2) = true ∧
     ok (record s ⟨1, 2, true, 0x3000, []⟩ 0) (fun r _ => (shContradiction r (thr s).kcount).isNone) = true) ∧
    shapeSet (shaped []) = none ∧ (0 : Nat) < 1 := by
  unfold Issues NoVectorMemory
  decide +kernel

def arc (p : Tab ArcPort) (clk : Nat) : State := { one th with sys := { (one th).sys with ports := p }, cycle := clk }

theorem witness_ArcadeResults_ports : let s := arc [(1, { st := .training, since := 5 }), (2, { st := .up, lanes := 8 }), (3, { st := .degraded, lanes := 4 })] (5 + trainingLimit)
    (arcPort s 23).st = .down ∧ (arcPort s 1).st = .training ∧ trainingLimit ≤ s.cycle - (arcPort s 1).since ∧
    (s.sys.ports.any fun q => q.2.works) = true ∧ (arcPort s 2).works = true ∧ 4 < (arcPort s 2).lanes ∧ (arcPort s 3).works = true ∧ (arcPort s 3).lanes ≤ 4 ∧
    (arc [] (4 + trainingLimit)).cycle - (arcPort s 1).since < trainingLimit := by decide

/-- Descriptors of collectives in the local store, a thread that names them, and registrations. -/
def ct : Thread := { th with g := [(1, 0x2000), (2, 0x2040), (3, BitVec.ofNat 64 (2 ^ 32 * 7)), (4, BitVec.ofNat 64 (0x101 + 2 ^ 32 * 9)), (6, 77), (7, 3)] }
def reg (st : RegState) (k : Nat) (ps : List Post) : Registration :=
  { st := st, dom := 5, name := 7, addr := 3 * gib, pages := [0x80000000], len := 64, kind := k, index := 0, count := 2, gather := false, bar := 0x80001000, posts := ps }
def coll (d : Nat) (rs : Tab Registration) (ps : List Participant) : State :=
  { put (paged { one ct with owners := [(1, { ow with dom := BitVec.ofNat 32 d, regs := rs })] })
      (words 0x80001000 [5 + 2 ^ 32, 3] ++ words (ls 0x2000) [9, 3 * gib + 64, 128, 65536, 3 * gib + 0x1000] ++
       words (ls 0x2040) [9, 3 * gib + 63, 128, 65536, 3 * gib + 0x1000]) with remotes := ps }

theorem witness_ArcadeResults_instructions : (let s := coll 5 [(0, reg .ready 0 []), (1, reg .ready 1 [⟨1, 0, 5⟩])] []
     let ws (k : Nat) := (List.range 8).map fun i => BitVec.ofNat 64 (homeNat s (k + 8 * i) 8)
     Issues s [G (10 : BitVec 6), G (1 : BitVec 6)] [] ∧ NoVectorMemory s ∧ NoBuffered s ∧ OwnAccess s (rg s 1) 0 64 (ls 0x2000) ∧
     OwnAccess s (rg s 2) 0 64 (ls 0x2040) ∧ (owner s).dom ≠ 0 ∧ badDescriptor (ws (ls 0x2040)) = true ∧ badDescriptor (ws (ls 0x2000)) = false ∧
     (spanPages s 1 ((64 + 128 + 4095) / 4096) (3 * gib)).isSome = true ∧ (collPage s 1 (3 * gib + 0x1000) 1).isSome = true ∧
     freeHandle (owner s) = some 2 ∧ regCount s < 4096 ∧ localRegs s 5 9 = [] ∧
     field (rg s 3) 10 22 = 0 ∧ field (rg s 4) 10 22 = 0 ∧ (Tab.find (owner s).regs (field (rg s 6) 0 8)) = none ∧
     ((localRegs s (owner s).dom.toNat (ws (ls 0x2000))[0]!.toNat).any fun x => x.2.2.index == 0) = false ∧
     (∀ r ∈ [reg .ready 0 [], { reg .ready 1 [⟨1, 0, 5⟩] with st := .failed }], r.gather = false ∧ r.kind ≠ 5 ∧ r.posts.length < 16 ∧ r.code < 2 ^ 8) ∧
     (Tab.find (owner { s with owners := [(1, { ow with regs := [(0, { reg .ready 1 [⟨1, 0, 5⟩] with st := .failed })] })] }).regs 0).map
       Registration.st = some .failed ∧
     field (rg s 3) 8 2 = 0 ∧ field (rg s 4) 8 2 = 1 ∧ (Tab.find (owner s).regs (field (rg s 3) 0 8)) = some (reg .ready 0 []) ∧
     (Tab.find (owner s).regs (field (rg s 4) 0 8)) = some (reg .ready 1 [⟨1, 0, 5⟩]) ∧ ok (release s) (fun _ _ => true) = true) ∧
    (owner (coll 0 [] [])).dom = 0 := by
  unfold Issues NoVectorMemory NoBuffered OwnAccess
  decide +kernel

/-- Registrations of other modules that settle a name, agreeing or not; one of them is deregistered. -/
theorem witness_ArcadeResults_names : (let r := reg .pending 0 [⟨1, 0, 5⟩]
     let s := coll 5 [(0, r)] [⟨4, 7, 0, 1, 64, 2, false⟩, ⟨5, 8, 1, 1, 64, 2, false⟩]
     Machine.Inv s ∧ Tab.find (ownerAt s 1).regs 0 = some r ∧ localRegs s 5 7 = [(1, 0, r)] ∧ r.posts.length ≤ 16 ∧
     ∀ p ∈ [((⟨5, 7, 1, 0, 64, 2, false⟩ : Participant), true), (⟨5, 7, 1, 0, 63, 2, false⟩, false)],
       p.1.dom = r.dom ∧ p.1.name = r.name ∧ r.count ≤ (participants s 5 7 ++ [p.1]).length ∧ agree r (participants s 5 7 ++ [p.1]) = p.2) ∧
    (let p : Participant := ⟨5, 7, 1, 0, 64, 2, false⟩
     let s := coll 5 [(0, reg .ready 0 [])] [p]
     p ∈ s.remotes ∧ (reg .ready 0 []).posts = [] ∧ localRegs s 5 7 = [(1, 0, reg .ready 0 [])]) := by
  unfold Machine.Inv
  decide +kernel

/-- A collective whose participants have all posted, and one where a post or its length is missing; a route that it loses, with a
participant elsewhere and without one. -/
theorem witness_ArcadeResults_collective : (let r := reg .ready 0 [⟨1, 0, 5⟩]
     let s := coll 5 [(0, r)] [⟨5, 7, 1, 0, 64, 2, false⟩]
     let remote : List RemotePost := [⟨1, 0, List.replicate 64 7⟩]
     Machine.Inv s ∧ Tab.find (ownerAt s 1).regs 0 = some r ∧ localRegs s r.dom r.name = [(1, 0, r)] ∧ r.count = 2 ∧ r.posts ≠ [] ∧
     (s.remotes.any fun y => y.dom == r.dom && y.name == r.name && y.index == 1) = true ∧
     (remote.find? fun q => q.index == 1) = some ⟨1, 0, List.replicate 64 7⟩ ∧ (List.replicate 64 (7 : Byte)).length = r.len ∧
     (List.replicate 63 (7 : Byte)).length ≠ r.len ∧ (([] : List RemotePost).find? fun q => q.index == 1) = none ∧ r.run = none) ∧
    (∀ st ∈ [RegState.ready, .running], let r := reg st 0 [⟨1, 0, 5⟩]
     let s := coll 5 [(0, r)] [⟨5, 7, 1, 0, 64, 2, false⟩]
     Machine.Inv s ∧ localRegs s r.dom r.name = [(1, 0, r)] ∧
     (s.remotes.any fun y => y.dom == r.dom && y.name == r.name) = true ∧
     (match arriveBar (readBar s 0 (.mem r.bar)) true 5 with | .inr _ => true | .inl _ => false) = true) ∧
    ((coll 5 [(0, reg .ready 0 [⟨1, 0, 5⟩])] []).remotes.any fun y => y.dom == 5 && y.name == 7) = false := by
  unfold Machine.Inv
  decide

/-- The contributions of a running collective as the statement has them. -/
def contributes (s : State) (r : Registration) (remote : List RemotePost) : List (Nat × List Byte) :=
  let buffered (k : Nat) : Word := (Tab.find r.got k).getD (BitVec.ofNat 64 (ofLeBytes (readBuffer s r (r.start + 8 * k) 8)))
  (List.range r.count).filterMap fun i =>
    if i = r.index then r.posts.head?.map fun p => (p.op, ((List.range (r.len / 8)).map fun k => leBytes 8 (buffered k).toNat).flatten)
    else (remote.find? fun q => q.index == i).map fun q => (q.op, q.bytes)

/-- A running collective of two participants with a post of its own: its words read and not, its result, and its failure where the
operations differ. -/
theorem witness_ArcadeResults_running : let run (op : Nat) (got : Tab Word) : Registration :=
      { reg .running 0 [⟨1, 0, 5⟩] with run := some [⟨1, op, List.replicate 64 7⟩], got := got }
    let all : Tab Word := (List.range 8).map fun k => (k, BitVec.ofNat 64 k)
    (∀ p ∈ [(0, ([] : Tab Word)), (0, all), (1, all)], let r := run p.1 p.2
     let s := { coll 5 [(0, r)] [⟨5, 7, 1, 0, 64, 2, false⟩] with sys := { (one th).sys with ports := [(2, { st := .up, lanes := 8 })] } }
     let xs := contributes s r [⟨1, p.1, List.replicate 64 7⟩]
     Machine.Inv s ∧ Tab.find (ownerAt s 1).regs 0 = some r ∧ localRegs s r.dom r.name = [(1, 0, r)] ∧ xs.length = r.count ∧
     (outcomeOf r xs).1 = p.1 ∧ (p.1 = 0 → (outcomeOf r xs).2.length = 64) ∧ routeLost s r = false ∧ (∀ x ∈ xs, x.2.length = r.len) ∧
     r.len % 16 = 0 ∧ r.done = [] ∧ r.addr % 8 = 0 ∧ 0 < r.count ∧ 8 * 7 + 8 ≤ 64 ∧
     (match arriveBar (readBar s 0 (.mem r.bar)) true 5 with | .inr _ => true | .inl _ => false) = true) ∧
    (8 * 7 < (run 0 []).len ∧ Tab.find (run 0 []).got 7 = none ∧ ∀ j < 8, (Tab.find (run 0 all).got j).isSome = true) ∧
    (let r := run 0 all
     (∀ i < 64, ∀ j < 64, r.key i = r.key j → i = j) ∧ ∀ i < 64, r.key i < r.bar ∨ r.bar + 16 ≤ r.key i) := by
  unfold Machine.Inv
  decide +kernel

/-- The last route of a collective lost with the last port. -/
theorem witness_ArcadeResults_lost : let r := { reg .running 0 [⟨1, 0, 5⟩] with run := some [⟨1, 0, List.replicate 64 7⟩] }
    let s := coll 5 [(0, r)] [⟨5, 7, 1, 0, 64, 2, false⟩]
    (s.sys.ports.any fun q => q.2.works) = false ∧ (s.owners.flatMap fun w => w.2.regs.map fun g => (w.1, g)) = [(1, 0, r)] ∧
    Tab.find (ownerAt s 1).regs 0 = some r ∧ (s.remotes.any fun y => y.dom == r.dom && y.name == r.name) = true ∧
    (match arriveBar (readBar s 0 (.mem r.bar)) true 5 with | .inr _ => true | .inl _ => false) = true := by decide

/-- Elements of each kind: two and one of a width; block elements with an exponent in 16 bits and beyond; segments that are
joined, operations that differ, and elements of which one cannot be combined. -/
theorem witness_ArcadeResults_elements : (∀ k ∈ [0, 1, 2, 3, 4, 5], let w := [4, 8, 4, 2, 2, 16].getD k 16
      ∀ y ∈ [List.replicate w (0 : Byte), List.replicate w 0x7F], y.length = w) ∧
    ((List.replicate 16 (0 : Byte)).length = 16 ∧ ofLeBytes ((List.replicate 16 (0 : Byte)).drop 8) < 2 ^ 16 ∧
      2 ^ 16 ≤ ofLeBytes ((List.replicate 16 (1 : Byte)).drop 8)) ∧
    (let r := { reg .running 5 [] with len := 16 }
     let xs : List (Nat × List Byte) := [(0, List.replicate 16 0), (0, List.replicate 16 1)]
     xs ≠ [] ∧ r.gather = false ∧ r.len % 16 = 0 ∧ (∀ x ∈ xs, x.1 = 0 ∧ x.2.length = r.len) ∧
     reduceElem 5 0 (xs.map fun x => (x.2.drop (16 * 0)).take 16) = none ∧
     reduceElem 5 0 ([xs.head!, xs.head!].map fun x => (x.2.drop (16 * 0)).take 16) ≠ none ∧
     { r with gather := true }.gather = true ∧ ∃ x ∈ [(0, xs), (1, xs)], ∃ y ∈ [(0, xs), (1, xs)], x.1 ≠ y.1) := by decide

/-- Floating elements: sums that are not zero and that are, with and without a term that is no minus zero; infinities of one sign
and of both; a NaN. -/
theorem witness_ArcadeResults_sums :
    let v (n : Nat) := Fp.decode Fp.fp32 n
    let total (ns : List Nat) : ℝ := ((((ns.map v).map exactVal).sum : ℚ) : ℝ)
    (isNum (v 0x3F800000) ∧ total [0x3F800000, 0x3F800000] = 2) ∧ (isNum (v 0xBF800000) ∧ total [0x3F800000, 0xBF800000] = 0) ∧
    (isNum (v 0x80000000) ∧ exactVal (v 0x80000000) = 0 ∧ (v 0x80000000).sign = true ∧ total [0x80000000, 0x80000000] = 0) ∧
    ((v 0).sign = false ∧ total [0, 0x80000000] = 0) ∧
    (isInf (v 0x7F800000) ∧ (v 0x7F800000).sign = false ∧ isInf (v 0xFF800000) ∧ (v 0xFF800000).sign = true) ∧
    (v 0x7FC00000).isNan = true := by
  intro v total
  have sums (ns : List Nat) (q : ℚ) (h : ((ns.map v).map exactVal).sum = q) : total ns = (q : ℝ) := congrArg (Rat.cast : ℚ → ℝ) h
  refine ⟨⟨True.intro, ?_⟩, ⟨True.intro, ?_⟩, ⟨True.intro, by decide +kernel, by decide, ?_⟩, ⟨by decide, ?_⟩,
    ⟨True.intro, by decide, True.intro, by decide⟩, by decide⟩
  · exact (sums _ 2 (by decide +kernel)).trans (by norm_num)
  all_goals exact (sums _ 0 (by decide +kernel)).trans (by norm_num)

/-- Block sums: a quotient that is a tie, a total within 64 bits at the greatest exponent, one above it, and totals beyond, with
and without room for the exponent. -/
theorem witness_ArcadeResults_blocks :
    ((0 : Int) ≤ 1 ∧ RneQuotient 5 (1 - 0 : Int).toNat 2) ∧
    (RneQuotient 7 (32767 - 32767 : Int).toNat 7 ∧ ¬ (2 ^ 63 ≤ (7 + 1 : Int) ∨ (7 + 1 : Int) < -(2 ^ 63)) ∧ (32767 : Int) < 32768) ∧
    (RneQuotient (2 ^ 63 - 1) (0 - 0 : Int).toNat (2 ^ 63 - 1) ∧ (2 ^ 63 : Int) ≤ 2 ^ 63 - 1 + 1 ∧ RneQuotient (2 ^ 63 - 1 + 1) 1 (2 ^ 62)) ∧
    RneQuotient (-(2 ^ 63)) 0 (-(2 ^ 63)) ∧ (-(2 ^ 63) + -1 : Int) < -(2 ^ 63) := by
  unfold RneQuotient
  decide

/-! ### Hypotheses of the statements about traps, system instructions, CSRs, boundaries and contexts -/

/-- A thread whose traps of some causes are delegated, with return addresses. -/
def at1 : Thread := { th with utvec := 0x4000, tepc := 0x5000, uepc := 0x6000, seq := 9 }
def trapping (t : Thread) : State := oneOwner t fun w => { w with udeleg := 0x240308 }

/-- Delegated; in supervisor mode with TSTAT.in set; in supervisor mode; in user mode with the cause pending; with UTVEC zero. -/
theorem witness_TrapDelivery : (let s := trapping at1
     (thr s).gang = none ∧ (thr s).sup = false ∧ (owner s).udeleg.getLsbD (3 : BitVec 8).toNat = true ∧ (thr s).ucause.getLsbD 63 = false ∧
     (thr s).utvec ≠ 0 ∧ (owner s).udeleg.getLsbD (255 : BitVec 8).toNat = false) ∧
    (let s := trapping { at1 with sup := true, tin := true }
     (thr s).gang = none ∧ (thr s).sup = true ∧ (thr s).tin = true) ∧
    (let s := trapping { at1 with ucause := 1 <<< 63 }
     (thr s).gang = none ∧ (thr s).sup = false ∧ (thr s).ucause.getLsbD 63 = true) ∧
    (let s := trapping { at1 with utvec := 0 }
     (thr s).gang = none ∧ (thr s).utvec = 0) := by decide

theorem witness_PrivilegeAndRegisterChecks : (∀ b ∈ [false, true], let s := one { at1 with sup := b, wsz := 0, vsz := 1 }
      canIssue (thr s) = true ∧ outstanding (thr s) = false ∧ (thr s).gang = none ∧ isControl s.core = false ∧ (thr s).sup = b ∧
      windowSize (thr s).wsz = 16 ∧ windowSize (thr s).wsz ≤ (16 : BitVec 6).toNat ∧ (15 : BitVec 6).toNat < windowSize (thr s).wsz ∧
      vectorSize (thr s).vsz ≤ (63 : BitVec 6).toNat) ∧
    (let s : State := { one at1 with core := 2048 + 2, cores := [(2050, { threads := [(0, at1)] })] }
     canIssue (thr s) = true ∧ outstanding (thr s) = false ∧ (thr s).gang = none ∧ isControl s.core = true) := by decide

/-- Registers beyond the allocation: the first that a field list reaches, in a general, a vector and a further register; the checks
before REGBOUND pass. -/
def reaches (i : Instr) (k : Nat) (n : Nat) : Bool :=
  let s := one { th with wsz := 0, vsz := 1 }
  canIssue (thr s) && !outstanding (thr s) && (thr s).gang.isNone && ((regFields i).take k).all (fun g => beyondAlloc (thr s) g == none) &&
    ((regFields i)[k]?).any (fun f => beyondAlloc (thr s) f == some n) &&
    nx (exec i s) fun t => (thr t).tcause.extractLsb' 0 8 == Cause.regbound

theorem witness_PrivilegeAndRegisterChecks_registers : ∀ p ∈ [(Instr.add 16 1 2, 0, 16), (.ffma 1 2 3 0 63, 3, 63), (.vadd 1 63 2 1, 1, 256 + 63), (.vfma 1 2 3 0 8, 3, 256 + 8),
      (.send 1 9, 2, 16), (.recv 8 3, 1, 16), (.cas2 2 1 16 0, 2, 16), (.rfork 12, 1, 16), (.shslice 12 0, 1, 16), (.mpush 1 16, 1, 16)],
      reaches p.1 p.2.1 p.2.2 = true ∧ Cause.regbound ≠ Cause.illegal ∧ Cause.regbound ≠ Cause.priv := by decide +kernel

/-- A thread with a vector instruction pending; one in a user handler of a machine that a debugger may halt. -/
def busyT : Thread := { at1 with vq := [{ seq := 3, instr := .vadd 1 1 1 1, a := 0, b := 0, frm := 0 }] }
def debugged : State := { one { at1 with ucause := 1 <<< 63 } with sys := { dbg := 2, sec := 2 } }

theorem witness_SystemInstructionResults : (let s := one at1
     Issues s [] [] ∧ idleUnits s s.core (thr s) = true ∧ halts s (thr s).owner = false ∧ (thr s).ucause.getLsbD 63 = false ∧
     canIssue (thr s) = true ∧ (thr s).st ≠ .blocked) ∧
    (let s := one busyT
     idleUnits s s.core (thr s) = false ∧ Issues s [] []) ∧
    (let s := one { at1 with sup := true }
     Issues s [] [] ∧ (thr s).sup = true ∧ (thr s).tepc.getLsbD 0 = false ∧ (thr s).tepc.toNat < 2 ^ 52) ∧
    (let s := one { at1 with sup := true, tepc := 0x5001 }
     (thr s).sup = true ∧ (thr s).tepc.getLsbD 0 = true) ∧
    (let s := one { at1 with pc := 0x8000000000040000 }
     canIssue (thr s) = true ∧ (thr s).pc.getLsbD 63 = true ∧ (thr s).pc.extractLsb' 22 41 = 0 ∧ lsLimit s s.core 1 ≤ (thr s).pc.toNat % 2 ^ 22) ∧
    (let s := one { at1 with pc := 0x0010000000000000 }
     (thr s).pc.getLsbD 63 = false ∧ (thr s).pc.extractLsb' 52 11 ≠ 0) := by
  unfold Issues
  decide

/-- PCs whose halfword does not come: no code address; beyond the local store; a rank that the owner has not, one beyond its store; a
page that is missing and one without X; and the halfword after one that begins a long instruction, beyond the local store, of a
missing page and of a page without X. -/
def fetching (pc : Nat) : State :=
  let s := put { one { at1 with pc := BitVec.ofNat 64 pc } with mem := cells [(0, 8, 2 ^ 48 + 0x1000 + 1), (0x1000, 8, 2 ^ 48 + 0x2000 + 1), (0x2000, 8, leaf 1 0 0x40000000 0x14)] }
    [(0x7FFFFFF8, 2 ^ 48)]
  put s [(ls 0x3FFF8, 2 ^ 48)]
def unexecutable : State :=
  { one { at1 with pc := 0x40000000 } with mem := cells [(0, 8, 2 ^ 48 + 0x1000 + 1), (0x1000, 8, 2 ^ 48 + 0x2000 + 1), (0x2000, 8, leaf 1 0 0x40000000 0x14),
      (0x2008, 8, leaf 1 0 0x40000000 4), (0x7FFFFFF8, 8, 2 ^ 48)] }

theorem witness_SystemInstructionResults_fetch : let x : Need := { x := true }
    let near (a : Word) : Bool := a.getLsbD 63 && decide (a.toNat < 2 ^ 63 + 2 ^ 22)
    (∀ pc ∈ [2 ^ 63 + 2 ^ 22, 2 ^ 63 + 0x40000, 2 ^ 52, windowBase + 64 * 2 ^ 22, windowBase + 0x40000, 0x40000000], let s := fetching pc
      canIssue (thr s) = true ∧ (thr s).st ≠ .blocked ∧ (thr s).pc.toNat = pc) ∧
    (near (thr (fetching (2 ^ 63 + 2 ^ 22))).pc = false ∧ near (thr (fetching (2 ^ 63 + 0x40000))).pc = true) ∧
    lsLimit (fetching 0) 0 1 ≤ 0x40000 ∧ nrank (owner (fetching 0)) ≤ 64 * 2 ^ 22 % 2 ^ 32 / 2 ^ 22 ∧
    lsLimit (fetching 0) (rankCore (owner (fetching 0)) (0x40000 / 2 ^ 22)) 1 ≤ 0x40000 ∧
    walk (fetching 0) 1 false 0x40000000 x = .page .missing ∧ walk unexecutable 1 false 0x40000000 x = .access := by decide +kernel

theorem witness_SystemInstructionResults_secondHalfword : let x : Need := { x := true }
    (let s := fetching (2 ^ 63 + 0x3FFFE)
     0x3FFFE < lsLimit s 0 1 ∧ lsPlace s 0 1 0x3FFFE = some (ls 0x3FFFE) ∧ (fetchPair s (ls 0x3FFFE)).getLsbD 0 = true ∧
     (linkAfter s 2).toNat = 2 ^ 63 + 0x40000) ∧
    (∀ s ∈ [fetching 0x3FFFFFFE, { unexecutable with cores := (fetching 0x3FFFFFFE).cores }], s.hostError = false ∧ (thr s).pc = 0x3FFFFFFE ∧
      walk s 1 false 0x3FFFFFFE x = .found 0 0x7FFFFFFE false ∧ placeOf 0 0x7FFFFFFE = some 0x7FFFFFFE ∧
      (fetchPair (walked s 1 false 0x3FFFFFFE) 0x7FFFFFFE).getLsbD 0 = true ∧ (linkAfter s 2).toNat = 0x40000000) ∧
    walk (walked (fetching 0x3FFFFFFE) 1 false 0x3FFFFFFE) 1 false 0x40000000 x = .page .missing ∧
    walk (walked { unexecutable with cores := (fetching 0x3FFFFFFE).cores } 1 false 0x3FFFFFFE) 1 false 0x40000000 x = .access := by decide +kernel

theorem witness_SystemInstructionResults_debugged : Issues debugged [] [] ∧ halts debugged (thr debugged).owner = true ∧ (thr debugged).ucause.getLsbD 63 = true ∧
    (thr debugged).uepc.getLsbD 0 = false ∧ (thr debugged).uepc.toNat < 2 ^ 52 := by
  unfold Issues
  decide

/-- FRM, a user CSR with a rule of R67; SRSEED, MBXPOND, XOVF and MQSTAT; and modes that may not name a CSR. -/
theorem witness_CsrResults : (∀ b ∈ [false, true], let s := one { at1 with sup := b }
      Issues s [G (1 : BitVec 6)] [] ∧ (thr s).sup = b ∧ (thr s).vq = [] ∧ (owner s).cap < 2 ^ 16 ∧ (csrRead s 0x121).toNat < 2 ^ 36) ∧
    (∀ n ∈ [8, 0x00B, 0x083, 0x0C0, 0x0E3, 0x121], n ∈ csrNumbers ∧ n ∉ csrReadOnly) ∧ 8 ∉ csrSupervisor ∧ 8 ∉ csrUserReadOnly ∧
    0x49 ∈ csrSupervisor ∧ (∀ n ∈ csrUserReadOnly, n ∈ csrNumbers) ∧ csrUserReadOnly ≠ [] ∧
    (ctx (one at1)).pond = [] ∧ (ctx (one at1)).xovfReqs = [] ∧ (ctx (oneCtx at1 fun x => { x with pond := [(3, 4)] })).pond ≠ [] ∧
    (ctx (oneCtx at1 (spills [(0, xrq 5 false [])]))).xovfReqs ≠ [] := by
  unfold Issues
  decide

/-- A thread at a boundary, of a kernel that is wrapping up, with everything due; and with the first of it taken away. -/
def bt1 : Thread := { at1 with resident := true, irqs := [⟨0x7FFFFFFFFFFFFFFF, 0x7000, 5⟩], budgetDue := true, late := [⟨4, 5, 6⟩, ⟨2, 9, 7⟩], seq := 8 }
def wraps (t : Thread) (st : KState) (ovf : List Word) : State :=
  { oneCtx t fun x => { x with ovf := ovf } with owners := [(1, dis st)] }

theorem witness_BoundaryEvents : (let s := wraps bt1 .wrappingUp [7, 8]
     (thr s).gang = none ∧ pausing s (stackOf s.core) = false ∧ atBoundary (thr s) = true ∧ (dueLate (thr s)).isSome = true ∧
     pausing { s with compStacks := [(0, { rot := .pausing 0 0 0 none })] } (stackOf s.core) = true) ∧
    (let s := wraps { bt1 with late := [] } .wrappingUp [7, 8]
     atBoundary (thr s) = true ∧ dueLate (thr s) = none ∧ (dueOvf s).isSome = true) ∧
    (let s := wraps { bt1 with late := [] } .wrappingUp []
     atBoundary (thr s) = true ∧ dueLate (thr s) = none ∧ dueOvf s = none ∧ (thr s).budgetDue = true) ∧
    (let s := wraps { bt1 with late := [], budgetDue := false } .wrappingUp []
     atBoundary (thr s) = true ∧ dueLate (thr s) = none ∧ dueOvf s = none ∧ (thr s).budgetDue = false ∧ dueDivert s = true ∧ (thr s).wait = none) ∧
    (let s := wraps { bt1 with late := [], budgetDue := false } .running []
     atBoundary (thr s) = true ∧ dueLate (thr s) = none ∧ dueOvf s = none ∧ (thr s).budgetDue = false ∧ dueDivert s = false ∧
     (dueIrq (thr s)).isSome = true) ∧
    (let s := wraps { bt1 with late := [], budgetDue := false, st := .blocked, wait := some (.qpop 3 4, .retry) } .wrappingUp []
     (thr s).st = .blocked ∧ dueLate (thr s) = none ∧ dueOvf s = none ∧ (thr s).budgetDue = false ∧ dueDivert s = true) ∧
    (∀ i ∈ [Instr.recv 20 3, .mwait 4 4], let s := wraps { bt1 with late := [], st := .blocked, wait := some (i, .retry) } .running [7, 8]
     (thr s).st = .blocked ∧ (thr s).wait = some (i, .retry) ∧ dueLate (thr s) = none ∧ (dueOvf s).isSome = true) := by decide

theorem witness_BoundaryEvents_wfe : (∀ b ∈ [false, true], let s := one { at1 with evt := b }
      Issues s [G (1 : BitVec 6)] [] ∧ (thr s).evt = b ∧ (thr s).wait = none) ∧
    (∀ p ∈ [(15, true), (14, false)], let s := { one { at1 with st := .blocked, wait := some (.wfe 1, .wfe 10) } with cycle := p.1 }
      (thrAt s 0 0).st = .blocked ∧ (thrAt s 0 0).wait = some (.wfe 1, .wfe 10) ∧ (thrAt s 0 0).getG 1 ≠ 0 ∧
      (decide (((thrAt s 0 0).getG 1).toNat ≤ s.cycle - 10)) = p.2) := by
  unfold Issues
  decide

/-- A supervisor thread beside a held one, in a machine whose owner's table maps a page for save areas; its registers point to an
area there, to one of a page that is not mapped and to one that is misaligned. -/
def heldT : Thread := { th with st := .held, uid := 7, sup := true, pc := 0x1234, v := [(1, 5)], m := [(2, 7)], budget := 55, seq := 3, wsz := 1 }
def saver : Thread := { th with sup := true, g := [(1, 1), (3, 2), (8, mkPtr 4 0 (3 * gib + 0x10000)), (9, mkPtr 4 0 (5 * gib)), (10, mkPtr 4 0 (3 * gib + 8))] }
def saves (f : Core → Core) : State :=
  paged (oneCore saver fun c => f { c with threads := [(0, saver), (1, heldT)] })

/-- A CTXSAVE begun, and its image of the area. -/
def begunSave (s : State) (area : Nat) : State := updProg s fun _ => { act := true, slot := 1, area := area, began := s.cycle }
def saveImage (s : State) (n : Nat) : List Byte := headerBytes heldT n 1 0 s.cycle

theorem witness_ContextSaveAndLoad_save : (let s := saves id
     Issues s [G (1 : BitVec 6), G (8 : BitVec 6)] [] ∧ (thr s).sup = true ∧ (coreAt s s.core).ctxprog.act = false ∧
     field (rg s 1) 0 4 ≠ s.slot ∧ (thrAt s s.core (field (rg s 1) 0 4)).st = .held ∧ field (rg s 0) 0 4 = s.slot ∧
     (thrAt s s.core (field (rg s 3) 0 4)).st = .free ∧ rankOf s 0 1 = 0 ∧
     ok (checkArea s (rg s 8) { w := true }) (fun area s0 =>
       let begun := begunSave s0 area
       saveReady begun (thrAt begun 0 1) && thrAt begun 0 1 == heldT) = true) ∧
    (let s := saves fun c => { c with mqueues := [(0, [{ words := [], owner := 1, ten := 0, core := 0, slot := 1, uid := 7, kid := 1, sup := false, seq := 0, st := .queued, left := 0 }])] }
     ok (checkArea s (rg s 8) { w := true }) (fun area s0 => !saveReady (begunSave s0 area) heldT) = true) := by
  unfold Issues
  decide +kernel

/-- The bytes of the table entries through which the area is found. -/
def tableBytes : List Nat := [0x10000, 0x11000, 0x12018].flatMap fun a => (List.range 8).map fun i => a + i

theorem tableBytes_low : ∀ k ∈ tableBytes, k < 0x80000000 := by decide

/-- A state whose tables are those of `saves`, with the same owner at work and nothing in its core's buffers. -/
structure Mapped (s : State) : Prop where
  core : s.core = 0
  owners : s.owners = [(1, ow)]
  copies : s.compStacks = (saves id).compStacks
  owner : (thr s).owner = 1
  host : s.hostWrites = []
  sb : (coreAt s s.core).sb = []
  rel : (coreAt s s.core).rel = []
  wf : Memory.wf s.mem = true
  low : ∀ k ∈ tableBytes, Memory.get s.mem k = Memory.get (saves id).mem k

theorem homeByte_low (s : State) {k : Nat} (h : k < 2 ^ 48) : homeByte s k = Memory.get s.mem k := by
  have : isLs k = false := decide_eq_false (by unfold lsBase; omega)
  simp only [homeByte, lineClear, this, Bool.false_and, Bool.false_eq_true, if_false]

theorem Mapped.homeNat {s : State} (h : Mapped s) {k : Nat} (hk : ∀ j < 8, k + j ∈ tableBytes) : homeNat s k 8 = homeNat (saves id) k 8 := by
  have e (j : Nat) (hj : j < 8) : homeByte s (k + j) = homeByte (saves id) (k + j) := by
    have hl := tableBytes_low _ (hk j hj)
    rw [homeByte_low _ (by omega), homeByte_low _ (by omega), h.low _ (hk j hj)]
  simp only [Machine.homeNat, homeBytes, Nat.add_assoc, e 1 (by omega), e 2 (by omega), e 3 (by omega), e 4 (by omega),
    e 5 (by omega), e 6 (by omega), e 7 (by omega), Nat.reduceAdd]
  rw [show homeByte s k = homeByte (saves id) k from e 0 (by omega)]

theorem levelEntry {s : State} {va own k : Nat} (need : Need) (lvl : Nat) (t : Nat × Nat) (e : BitVec 64)
    (hk : placeOf t.1 (t.2 + 8 * vaIndex va lvl) = some k) (hb : Machine.homeNat s k 8 = e.toNat) (hv : e.getLsbD 0 = true)
    (hm : malformedPte e lvl own = false) :
    walkLevel s own va need lvl t = if e.getLsbD 1 then .inl (leafWalk e va lvl need) else .inr (nextTable e) := by
  have hb : BitVec.ofNat 64 (Machine.homeNat s k 8) = e := by rw [hb, BitVec.ofNat_toNat, BitVec.setWidth_eq]
  simp only [walkLevel, pteAt, hk, Option.map_some, hb, hv, hm, Bool.not_true, Bool.false_eq_true, if_false]

/-- Every unit of the area has its place. -/
theorem Mapped.area {s : State} (h : Mapped s) {u : Nat} (hu : u < 128) (need : Need) (hx : need.x = false) :
    saveArea s (3 * gib + 0x10000 + 64 * u) need = .ok (0x80010000 + 64 * u) s := by
  have hw : inWindow (3 * gib + 0x10000 + 64 * u) = false := by
    rw [inWindow, decide_eq_false (by unfold windowBase gib; omega)]; rfl
  have hr : rootOf (ownerAt s 1).svroot = (0, 0x10000) := by simp only [ownerAt, h.owners]; decide
  have h4 : vaIndex (3 * gib + 0x10000 + 64 * u) 4 = 0 := by simp only [vaIndex, gib, if_true]; omega
  have h3 : vaIndex (3 * gib + 0x10000 + 64 * u) 3 = 0 := by simp only [vaIndex, gib, Nat.reduceEqDiff, if_false]; omega
  have h2 : vaIndex (3 * gib + 0x10000 + 64 * u) 2 = 3 := by simp only [vaIndex, gib, Nat.reduceEqDiff, if_false]; omega
  have hp : (3 * gib + 0x10000 + 64 * u) % levelSize 2 = 0x10000 + 64 * u := by simp only [levelSize, gib]; omega
  have t4 : Machine.homeNat s (0x10000 + 8 * 0) 8 = 0x11001 := (h.homeNat (by decide)).trans (by decide +kernel)
  have t3 : Machine.homeNat s (17 * 4096 + 8 * 0) 8 = 0x12001 := (h.homeNat (by decide)).trans (by decide +kernel)
  have t2 : Machine.homeNat s (18 * 4096 + 8 * 3) 8 = 0x8000004F := (h.homeNat (by decide)).trans (by decide +kernel)
  have e4 := levelEntry (va := 3 * gib + 0x10000 + 64 * u) (own := 0) need 4 (0, 0x10000) 0x11001#64 (by rw [h4]; rfl) t4 (by decide) (by decide)
  have e3 := levelEntry (va := 3 * gib + 0x10000 + 64 * u) (own := 0) need 3 (0, 0x11000) 0x12001#64 (by rw [h3]; rfl) t3 (by decide) (by decide)
  have e2 := levelEntry (va := 3 * gib + 0x10000 + 64 * u) (own := 0) need 2 (0, 0x12000) 0x8000004F#64 (by rw [h2]; rfl) t2 (by decide) (by decide)
  have hf : walk s 1 true (3 * gib + 0x10000 + 64 * u) need = .found 0 (0x80010000 + 64 * u) true := by
    simp only [show (0x11001#64).getLsbD 1 = false from by decide, show (0x12001#64).getLsbD 1 = false from by decide,
      show (0x8000004F#64).getLsbD 1 = true from by decide, show nextTable 0x11001#64 = (0, 0x11000) from by decide,
      show nextTable 0x12001#64 = (0, 0x12000) from by decide, Bool.false_eq_true, if_false, if_true] at e4 e3 e2
    have hl : leafWalk 0x8000004F#64 (3 * gib + 0x10000 + 64 * u) 2 need = .found 0 (0x80010000 + 64 * u) true := by
      have hbase : field 0x8000004F#64 12 36 * 4096 = 0x80000000 := by decide
      simp only [leafWalk, hp, hx, hbase, show (0x8000004F#64).getLsbD 2 = true from by decide, show (0x8000004F#64).getLsbD 3 = true from by decide,
        show (0x8000004F#64).getLsbD 5 = false from by decide, show (0x8000004F#64).getLsbD 6 = true from by decide,
        show field 0x8000004F#64 9 2 = 0 from by decide, Bool.not_true, Bool.and_false, Bool.or_self, Bool.false_and, Bool.false_eq_true, if_false]
      rw [show (0x80000000 + (0x10000 + 64 * u)) % 2 ^ 48 = 0x80010000 + 64 * u by omega]
    unfold walk
    simp only [hr, if_true, walkFrom, e4, e3, e2, hl]
  have hc : walked s 1 true (3 * gib + 0x10000 + 64 * u) = s := by
    have e : Tab.mapAll (fun _ k => { k with faults := k.faults.filter fun x =>
        !(x.2.owner == 1 && x.2.sup == true && x.2.page == (3 * gib + 0x10000 + 64 * u) / 4096) }) s.compStacks = s.compStacks := by
      rw [h.copies]; rfl
    exact congrArg (fun c => { s with compStacks := c }) e
  have hk : placeOf 0 (0x80010000 + 64 * u) = some (0x80010000 + 64 * u) := by
    simp only [placeOf]
    exact if_pos (by unfold Config.hbmStack; omega)
  simp only [saveArea, hw, h.owner, hf, Bool.false_eq_true, if_false, Bool.not_true, hc, hk]

/-- A write above the tables keeps them. -/
theorem Mapped.write (bs : List Byte) : ∀ {s : State} {k : Nat}, Mapped s → 0x80000000 ≤ k → k + bs.length ≤ 2 ^ 48 →
    (∃ m, setHomes s k bs = { s with mem := m }) ∧ Mapped (setHomes s k bs) := by
  induction bs with
  | nil => intro s k h _ _; exact ⟨⟨_, rfl⟩, h⟩
  | cons b bs ih =>
    intro s k h hk hl
    have hl : k + 1 + bs.length ≤ 2 ^ 48 := by simp only [List.length_cons] at hl; omega
    have hf : fillLine s k = s := by
      have : isLs k = false := decide_eq_false (by unfold lsBase; omega)
      simp only [fillLine, lineClear, this, Bool.false_and, Bool.false_eq_true, if_false]
    have e : setHome s k b = { s with mem := Memory.set b s.mem k } := by simp only [setHome, hf]
    have hm : Mapped (setHome s k b) := by
      rw [e]
      refine ⟨h.core, h.owners, h.copies, h.owner, h.host, h.sb, h.rel, Memory.wf_set _ _ _ h.wf, fun n hn => ?_⟩
      have := tableBytes_low n hn
      rw [Memory.get_set_ne b s.mem (by omega) h.wf]
      exact h.low n hn
    obtain ⟨⟨m, e'⟩, h'⟩ := ih hm (k := k + 1) (by omega) hl
    exact ⟨⟨m, by rw [setHomes, e', e]⟩, h'⟩

/-- A unit of the area written. -/
theorem Mapped.put {s : State} (h : Mapped s) {u : Nat} (hu : u < 128) (bs : List Byte) (hb : bs.length ≤ 64) :
    ∃ t, putUnit s (3 * gib + 0x10000 + 64 * u) bs = .ok () t ∧ Mapped t ∧ t.cores = s.cores := by
  obtain ⟨⟨m, e⟩, h'⟩ := Mapped.write bs h (k := 0x80010000 + 64 * u) (by omega) (by omega)
  have hw : writeThrough s (0x80010000 + 64 * u) bs = setHomes s (0x80010000 + 64 * u) bs := by
    unfold writeThrough
    generalize setHomes s (0x80010000 + 64 * u) bs = t at h'
    induction storeCells (0x80010000 + 64 * u) bs with
    | nil => rfl
    | cons c cs ih =>
      have hn : Tab.find (stackAt t (stackOf t.core)).copies c.1 = none := by rw [h'.core]; simp only [stackAt, h'.copies]; rfl
      simp only [List.foldl_cons, hn]
      exact ih
  refine ⟨_, ?_, h', by rw [e]⟩
  rw [putUnit, h.area hu _ rfl, ← hw]
  rfl

theorem Mapped.prog {s : State} (h : Mapped s) (f : CtxProg → CtxProg) : Mapped (updProg s f) := by
  have e : coreAt (updProg s f) s.core = { coreAt s s.core with ctxprog := f (coreAt s s.core).ctxprog } := coreAt_updCore_self _ _ _
  have ht : thr (updProg s f) = thr s := by
    unfold thr thrAt
    rw [show (updProg s f).core = s.core from rfl, show (updProg s f).slot = s.slot from rfl, e]
  exact ⟨h.core, h.owners, h.copies, ht ▸ h.owner, h.host, (congrArg Core.sb e).trans h.sb, (congrArg Core.rel e).trans h.rel, h.wf, h.low⟩

/-- The units of the area written, one after another. -/
theorem Mapped.puts (image : List Byte) (n : Nat) : ∀ {s : State} {u : Nat}, Mapped s → u + n ≤ 128 →
    ∃ t, putUnits (3 * gib + 0x10000) image n u s = .ok () t ∧ Mapped t := by
  induction n with
  | zero => intro s u h _; exact ⟨s, rfl, h⟩
  | succ n ih =>
    intro s u h hn
    obtain ⟨t, e, h', -⟩ := h.put (u := u) (by omega) ((image.drop (64 * u)).take 64) (List.length_take_le _ _)
    obtain ⟨v, e', h''⟩ := ih (h'.prog fun p => { p with done := u + 1 }) (u := u + 1) (by omega)
    exact ⟨v, by rw [putUnits, e]; exact e', h''⟩

theorem Mapped.release {s : State} (h : Mapped s) : ∃ t, release s = .ok () t := by
  have hb : waitBuffer s = .ok () s := by simp only [waitBuffer, buffered, h.sb, List.any_nil]; rfl
  obtain ⟨t, hw, hr, hh⟩ : ∃ t, writeBackOf s s.core (thr s).uid = t ∧ relHeld t = false ∧ t.hostWrites = [] := by
    refine ⟨_, rfl, ?_, ?_⟩
    · simp only [writeBackOf, h.rel, List.filter_nil, List.foldl_nil, relHeld]
      rw [show (updCore s s.core fun c => { c with rel := c.rel.filter fun e => !(e.uids.contains (thr s).uid && !e.held s) }).core = s.core from rfl,
        coreAt_updCore_self]
      simp only [h.rel, List.filter_nil, List.any_nil]
    · simp only [writeBackOf, h.rel, List.filter_nil, List.foldl_nil]
      exact h.host
  refine ⟨t, ?_⟩
  rw [Machine.release, hb]
  simp only [Act.bind, hw, hr, Bool.false_eq_true, if_false, waitHost, hh, List.any_nil]

theorem mem_places {k : Nat} (n : Nat) : ∀ {a : Nat}, k ∈ places a n → k < a + n := by
  induction n with
  | zero => intro a h; cases h
  | succ n ih =>
    intro a h
    rcases List.mem_cons.1 h with rfl | h
    · omega
    · have := ih h; omega

theorem Mapped.get {s : State} (h : Mapped s) {u : Nat} (hu : u < 128) : ∃ b, getUnit s (3 * gib + 0x10000 + 64 * u) = .ok b s := by
  have hs : (places (0x80010000 + 64 * u) 64).all (fun k => readsHome s.core k || (heldByte s s.core k).isSome) = true := by
    rw [List.all_eq_true]
    intro k hk
    have hk := mem_places 64 hk
    have hh : homeStack k = some 0 := by
      unfold homeStack
      rw [if_pos (by unfold lpddrBase; omega), Nat.div_eq_of_lt (by unfold Config.hbmStack; omega)]
    have : readsHome s.core k = true := by
      rw [h.core]
      simp only [readsHome, inStack, hh]
      rfl
    rw [this, Bool.true_or]
  have hr : (readBytes s false (places (0x80010000 + 64 * u) 64)).2 = s := by
    simp only [readBytes, hs, Bool.or_true, if_true]
  refine ⟨(readBytes s false (places (0x80010000 + 64 * u) 64)).1, ?_⟩
  rw [getUnit, h.area hu _ rfl]
  exact congrArg (Act.ok _) hr

/-- The units of the area read, one after another. -/
theorem Mapped.gets (n : Nat) : ∀ {s : State} {u : Nat}, Mapped s → u + n ≤ 128 →
    ∃ t, getUnits (3 * gib + 0x10000) n u s = .ok () t ∧ Mapped t := by
  induction n with
  | zero => intro s u h _; exact ⟨s, rfl, h⟩
  | succ n ih =>
    intro s u h hn
    obtain ⟨b, e⟩ := h.get (u := u) (by omega)
    obtain ⟨v, e', h'⟩ := ih (h.prog fun p => { p with done := u + 1, buf := p.buf ++ b }) (u := u + 1) (by omega)
    exact ⟨v, by rw [getUnits, e]; exact e', h'⟩

theorem ok_iff {α : Type} {a : Act α} {p : α → State → Bool} (h : ok a p = true) : ∃ x s, a = .ok x s ∧ p x s = true := by
  cases a with
  | ok x s => exact ⟨x, s, rfl, h⟩
  | _ => cases h

/-- What is decided of a state that is `Mapped`. -/
def mapped (s : State) : Bool :=
  s.core == 0 && s.owners == [(1, ow)] && s.compStacks == (saves id).compStacks && (thr s).owner == 1 && s.hostWrites == [] && (coreAt s s.core).sb == [] &&
    (coreAt s s.core).rel == [] && Memory.wf s.mem && tableBytes.all fun k => Memory.get s.mem k == Memory.get (saves id).mem k

theorem mapped_iff {s : State} (h : mapped s = true) : Mapped s := by
  simp only [mapped, Bool.and_eq_true, beq_iff_eq, List.all_eq_true] at h
  obtain ⟨⟨⟨⟨⟨⟨⟨⟨h1, h2⟩, h3⟩, h4⟩, h5⟩, h6⟩, h7⟩, h8⟩, h9⟩ := h
  exact ⟨h1, h2, h3, h4, h5, h6, h7, h8, h9⟩

/-- A save that goes on to its end, whatever its image and its last header. -/
theorem witness_ContextSaveAndLoad_saved (image last : List Byte) (hl : last.length ≤ 64) :
    ∃ area s0 s2 s3 s4, checkArea (saves id) (rg (saves id) 8) { w := true } = .ok area s0 ∧
      putUnits area image 128 0 (begunSave s0 area) = .ok () s2 ∧ putUnit s2 area last = .ok () s3 ∧
      Machine.release (updProg s3 fun p => { p with complete := true }) = .ok () s4 := by
  have hc : ok (checkArea (saves id) (rg (saves id) 8) { w := true }) (fun a s0 => a == 3 * gib + 0x10000 && mapped s0) = true := by
    decide +kernel
  obtain ⟨area, s0, e, h⟩ := ok_iff hc
  simp only [Bool.and_eq_true, beq_iff_eq] at h
  obtain ⟨rfl, h⟩ := h
  obtain ⟨s2, e2, h2⟩ := ((mapped_iff h).prog fun _ => { act := true, slot := 1, area := 3 * gib + 0x10000, began := s0.cycle }).puts image 128 (u := 0) (by omega)
  obtain ⟨s3, e3, h3, -⟩ := h2.put (u := 0) (by omega) last hl
  obtain ⟨s4, e4⟩ := (h3.prog fun p => { p with complete := true }).release
  exact ⟨_, s0, s2, s3, s4, e, e2, e3, e4⟩

/-- The memory of an area with a complete header. -/
def headed : State := put (saves id) (words 0x80010000 [saveMagic.toNat, (headerWord 2 1 2 0).toNat, 0, 0, 0, 0, 0, 0, 0x2000, 0, 5])
def begunLoad (s : State) (area : Nat) : State :=
  updProg (updThrAt s 0 2 fun _ => { st := .loading }) fun _ => { act := true, load := true, slot := 2, area := area }

/-- A load that goes on to its end. -/
theorem witness_ContextSaveAndLoad_loaded (last : List Byte) (hl : last.length ≤ 64) :
    ∃ area s0 s1 s2 s3, (thrAt headed 0 (field (rg headed 3) 0 4)).st = .free ∧ field (rg headed 3) 0 4 = 2 ∧
      checkArea headed (rg headed 8) { r := true } = .ok area s0 ∧ loadHead 2 area (begunLoad s0 area) = .ok none s1 ∧
      getUnits area (128 - (coreAt s1 0).ctxprog.done) (coreAt s1 0).ctxprog.done s1 = .ok () s2 ∧ putUnit s2 area last = .ok () s3 := by
  have hc : ok (checkArea headed (rg headed 8) { r := true }) (fun a s0 => a == 3 * gib + 0x10000 &&
      ok (loadHead 2 a (begunLoad s0 a)) fun n s1 => n == none && (coreAt s1 0).ctxprog.done == 2 && mapped s1) = true := by decide +kernel
  obtain ⟨area, s0, e, h⟩ := ok_iff hc
  simp only [Bool.and_eq_true, beq_iff_eq] at h
  obtain ⟨rfl, h⟩ := h
  obtain ⟨n, s1, e1, h⟩ := ok_iff h
  simp only [Bool.and_eq_true, beq_iff_eq] at h
  obtain ⟨⟨rfl, hd⟩, h⟩ := h
  obtain ⟨s2, e2, h2⟩ := (mapped_iff h).gets 126 (u := 2) (by omega)
  obtain ⟨s3, e3, -, -⟩ := h2.put (u := 0) (by omega) last hl
  exact ⟨_, s0, s1, s2, s3, by decide +kernel, by decide +kernel, e, e1, by rw [hd]; exact e2, e3⟩

/-- An area of a page that is not mapped, and a misaligned one; the same operation after the watchdog, and another one's abandoned. -/
theorem witness_ContextSaveAndLoad_faults : (let s := saves id
     ok (checkArea s (rg s 9) { w := true }) (fun area s0 => match putUnits area [] 128 0 (begunSave s0 area) with
       | .trap c _ _ => c == Cause.savefault
       | _ => false) = true ∧
     (match checkArea s (rg s 10) { w := true } with
       | .trap c _ _ => c == Cause.misalign
       | _ => false) = true) ∧
    (∀ b ∈ [false, true], let s := saves fun c => { c with ctxprog := { act := true, load := b, tn := true, slot := 1, area := 3 * gib + 0x10000 } }
      sameOp (coreAt s 0).ctxprog b (field (rg s 1) 0 4) (ptrAddr (rg s 8)) = true ∧ (coreAt s 0).ctxprog.tn = true) ∧
    (let s := saves fun c => { c with ctxprog := { act := true, load := true, slot := 1, area := 3 * gib + 0x10000 } }
     let cp := (coreAt s 0).ctxprog
     cp.act = true ∧ cp.load = true ∧ cp.tn = false ∧ cp.slot ≠ s.slot ∧ field (rg s 0) 0 4 = s.slot) := by decide +kernel

/-- The load of an area without a header, and of one of another owner. -/
theorem witness_ContextSaveAndLoad_load : (∀ p ∈ [(0, 0, 3), (saveMagic.toNat, (headerWord 2 2 2 0).toNat, 4)],
      let s := put (saves id) (words 0x80010000 [p.1, p.2.1])
      (thrAt s 0 (field (rg s 3) 0 4)).st = .free ∧ ok (checkArea s (rg s 8) { r := true }) (fun area s0 =>
        ok (loadHead 2 area (begunLoad s0 area)) fun n _ => n == some p.2.2) = true) := by decide +kernel

/-- Watchdogs at their limit, of a save and of a load. -/
theorem witness_ContextSaveAndLoad_watchdog : ∀ b ∈ [false, true], let s := saves fun c => { c with hwlim := 100, ctxprog := { act := true, load := b, clk := 100 } }
      let p := (coreAt s 0).ctxprog
      p.act = true ∧ p.tn = false ∧ (coreAt s 0).hwlim ≠ 0 ∧ (coreAt s 0).hwlim.toNat ≤ p.clk ∧ p.load = b := by decide

/-! ### Hypotheses of the statements about the matrix unit, pages, rotation and the network -/

/-- A command of owner 1, and a core with the registers' thread, the context's part, and the tenant's queue given; its local store
holds an MZERO of tiles 0 and 2. -/
def mm (ws : List Nat) : MCmd :=
  { words := ws.map (BitVec.ofNat 64), owner := 1, ten := 0, core := 0, slot := 0, uid := 1, kid := 1, sup := false, seq := 3, st := .queued, left := 0 }
def mzero : Nat := 3 + 5 * 2 ^ 24
def mxt : Thread := { th with g := [(1, 0x1000), (2, 1), (3, 2)], seq := 9 }
def mx (t : Thread) (f : Ctx → Ctx) (q : List MCmd) (g : Core → Core) : State :=
  put (oneCore t fun c => g { c with ctxs := [(1, f cx)], mqueues := [(0, q)] }) (words (ls 0x1000) [mzero])
def vadds (n : Nat) : List VDisp := List.replicate n { seq := 3, instr := .vadd 1 1 1 1, a := 0, b := 0, frm := 0 }

/-- 31 and 32 dispatches out; a foreign tile; a queue of 15 and of 16; a thread that waits with the words it copied. -/
theorem witness_MatrixInstructionResults_push : (let s := mx { mxt with vq := vadds 32 } id [] id
     Issues s [G (5 : BitVec 6), G (1 : BitVec 6)] [] ∧ isControl s.core = false ∧ 32 ≤ dispatchesOut s) ∧
    (∀ n ∈ [15, 16], let s := mx { mxt with vq := vadds 16 } id (List.replicate n { mm [4] with uid := 4 }) fun c => { c with accown := [(0, { v := true, own := 1 })] }
     Issues s [G (5 : BitVec 6), G (1 : BitVec 6)] [] ∧ NoVectorMemory s ∧ NoBuffered s ∧ dispatchesOut s < 32 ∧ copied (thr s) = none ∧
     OwnAccess s (rg s 1) 0 64 (ls 0x1000) ∧
     (let m := tileMask (cmdOf s ((List.range 8).map fun i => BitVec.ofNat 64 (homeNat s (ls 0x1000 + 8 * i) 8)) 0)
      foreignTiles s m = 0 ∧ ok (release (claimTiles s m)) (fun _ s1 =>
        (activeQueue s1 0 0).length == n && !splitWaits s1 0) = true)) ∧
    (let s := mx mxt id [] fun c => { c with accown := [(2, { v := true, ten := 1, own := 1 })] }
     Issues s [G (5 : BitVec 6), G (1 : BitVec 6)] [] ∧ OwnAccess s (rg s 1) 0 64 (ls 0x1000) ∧ NoBuffered s ∧
     foreignTiles s (tileMask (cmdOf s ((List.range 8).map fun i => BitVec.ofNat 64 (homeNat s (ls 0x1000 + 8 * i) 8)) 0)) ≠ 0) ∧
    (let s := mx { mxt with st := .blocked, wait := some (.mpush 5 1, .command [7]) } id [] id
     Issues s [G (5 : BitVec 6), G (1 : BitVec 6)] [] ∧ NoVectorMemory s ∧ (copied (thr s)).isSome = true ∧ ok (release s) (fun _ _ => true) = true) := by
  unfold Issues NoVectorMemory NoBuffered OwnAccess
  decide +kernel

/-- An empty FIFO, one element, an element in a bound queue; more commands out than asked for and as many; idle and busy queues. -/
theorem witness_MatrixInstructionResults_reads : (∀ l : List Word, l ∈ [[], [5]] → let s := mx mxt (fun x => { x with mq := [(0, { fifo := l })] }) [] id
     Issues s [G (5 : BitVec 6)] [] ∧ mpopQueue (ctx s) (thr s) = none ∧ (Tab.get {} (ctx s).mq (tenant s)).fifo = l) ∧
    (let s := mx mxt (fun x => { x with queues := [(15, { desc := qd 2 0 0 0 0, kid := 1, elems := [7] })] }) [] id
     Issues s [G (5 : BitVec 6)] [] ∧ mpopQueue (ctx s) (thr s) = some 15 ∧ s.slot = bindCons (queueAt s 0 1 15).desc ∧ reserved s 15 = 0 ∧
     (coreAt s 0).threads.map (fun p => p.2.st) = [.running] ∧ (queueAt s 0 1 15).elems = [7] ∧ (queueAt s 0 1 15).pending = []) ∧
    (let s := mx mxt id [mm [mzero], mm [mzero]] id
     Issues s [G (5 : BitVec 6), G (2 : BitVec 6)] [] ∧ cmdsOut s 0 1 = 2 ∧ cmdsOut s 0 1 ≤ (rg s 3).toNat ∧ (rg s 2).toNat < cmdsOut s 0 1) ∧
    (∀ n ∈ [16, 32], let s := mx mxt id (List.replicate 16 (mm [mzero])) fun c => { c with mqueues := c.mqueues ++ [(1, List.replicate (n - 16) (mm [mzero]))] }
     cmdsOut s 0 1 = n ∧ (activeQueue s 0 0).length ≤ 16) ∧
    (∀ q ∈ [[], [mm [mzero]]], let s := mx { mxt with sup := true } id q id
     Issues s [G (2 : BitVec 6)] [] ∧ (thr s).sup = true ∧ activeQueue s 0 0 = q ∧ activeQueue s 0 1 = []) := by
  unfold Issues
  decide

/-- Ring 1, partly filled, and descriptors: good and as large as the local store allows, one slot beyond it, with a reserved bit. -/
def ringed (r : Option OpRing) (q : List MCmd) : State :=
  mx { mxt with g := [(1, BitVec.ofNat 64 (24 * 2 ^ 10 + 2 ^ 22)), (2, BitVec.ofNat 64 (255 * 2 ^ 10)), (3, 1), (4, 4), (5, 5)] } (fun x => { x with
    rings := match r with | some r => [(1, r)] | none => [] }) q id
def r4 : OpRing := { base := 0x4000, n := 3, big := false, head := 0xFFFE, tail := 2 }
def fed : MCmd := mm [1 + 2 ^ 24 + 2 ^ 30 + 2 ^ 36 + 2 ^ 38]

theorem witness_RingAndSpillResults_rings : (let s := ringed (some r4) []
     Issues s [G (1 : BitVec 6)] [] ∧ isControl s.core = false ∧ NoVectorMemory s ∧ myRing s 1 = some r4 ∧ myRingNamed s 1 = false ∧ myRing s 0 = none ∧
     myRingNamed s 0 = false ∧ lsLimit s 0 1 = 256 * 1024 ∧
     (∀ p ∈ [(1, 24, 1, 0), (2, 255, 0, 0), (3, 0, 0, 1)], let w := rg s (BitVec.ofNat 6 p.1)
       field w 0 10 = p.2.2.2 ∧ field w 26 38 = 0 ∧ field w 22 3 = p.2.2.1 ∧ field w 10 12 = p.2.1 ∧ w.getLsbD 25 = false) ∧
     r4.filled = 4 ∧ 2 ^ r4.n - r4.filled < (rg s 5).toNat ∧ (rg s 4).toNat ≤ 2 ^ r4.n - r4.filled ∧ ok (release s) (fun _ _ => true) = true ∧
     r4.n < 8 ∧ r4.head ≠ r4.tail) ∧
    (let s := ringed (some r4) [fed]
     myRingNamed s 1 = true) ∧
    (let s := ringed (some { r4 with tail := 0xFFFE }) []
     myRingNamed s 1 = false ∧ (myRing s 1).isSome = true) := by
  unfold Issues NoVectorMemory
  decide

/-- A supervisor thread whose core's MSPA names tile 3, owner 1 and a page of the save area; the tile free, used, and owned. -/
def spilled (page o : Nat) (q : List MCmd) (a : Tab AccTile) : State :=
  paged (oneCore { th with sup := true } fun c => { c with ctxs := [(1, cx)], mqueues := [(0, q)], accown := a
                                                           mspa := BitVec.ofNat 64 (page + 3 * 2 ^ 10 + o), acc := [(3073, 7)] })

theorem witness_RingAndSpillResults_spill : (let s := spilled (3 * gib) 1 [] [(3, { v := true, own := 1 })]
     let w := (coreAt s s.core).mspa
     Issues s [] [] ∧ (thr s).sup = true ∧ isControl s.core = false ∧ Machine.Inv s ∧ spilling (thr s) = none ∧ field w 10 2 = 3 ∧
     (allCmds (coreAt s 0)).any (fun m => m.live && m.names 3) = false ∧
     ok (saveArea (setSp s 3 true) (field w 12 40 * 4096) { w := true }) (fun key s1 => key == 0x80000000 && ok (release s1) fun _ _ => true) = true ∧
     (Tab.get {} (coreAt s 0).accown 3).v = true) ∧
    (let s := spilled (5 * gib) 1 [] []
     (match saveArea (setSp s 3 true) (field (coreAt s s.core).mspa 12 40 * 4096) { w := true } with
      | .trap k _ _ => k == Cause.savefault
      | _ => false) = true) ∧
    (let s := spilled (3 * gib) 1 [mm [1 + 48]] []
     (allCmds (coreAt s 0)).any (fun m => m.live && m.names 3) = true) ∧
    (let s := spilled (3 * gib) 0 [] []
     (Tab.get {} (coreAt s 0).accown 3).v = false ∧ field (coreAt s 0).mspa 0 8 = 0) ∧
    (let s := spilled (3 * gib) 1 [] []
     let w := (coreAt s s.core).mspa
     (Tab.get {} (coreAt s 0).accown 3).v = false ∧ field w 0 8 ≠ 0 ∧ buffered s 0 1 = false ∧
     ok (saveArea s (field w 12 40 * 4096) { r := true }) (fun key s1 => key == 0x80000000 && !s1.splitIssue) = true) := by
  unfold Issues Machine.Inv
  decide +kernel

/-- A spill that waits with its tile, or with its area too; and one whose release waits for a store. -/
theorem witness_RingAndSpillResults_waiting : (∀ a ∈ [none, some 0x80000000], let s := spilled (3 * gib) 1 [] [(2, { v := true, own := 1 })]
     let s := updThr s fun t => { t with st := .blocked, wait := some (.mspill, .spilling 2 a) }
     Issues s [] [] ∧ (thr s).sup = true ∧ Machine.Inv s ∧ spilling (thr s) = some (2, a) ∧ ok (release s) (fun _ _ => true) = true ∧
     (allCmds (coreAt s 0)).any (fun m => m.live && m.names 2) = false ∧
     ok (saveArea (setSp s 2 true) (3 * gib) { w := true }) (fun key s1 => key == 0x80000000 && ok (release s1) fun _ _ => true) = true) ∧
    (let s := spilled (3 * gib) 1 [] [(3, { v := true, own := 1 })]
     let s := updCore s 0 fun c => { c with sb := [⟨1, 1, ls 0x100, [1], none, false⟩] }
     ok (saveArea (setSp s 3 true) (3 * gib) { w := true }) (fun key s1 => key == 0x80000000 && match release s1 with
       | .wait .. => true
       | _ => false) = true) := by
  unfold Issues Machine.Inv
  decide +kernel

theorem witness_RingAndSpillResults_inStack : ∀ k, 0x80000000 ≤ k → k < 0x80000000 + 4096 → inStack 0 k = true := by
  intro k h1 h2
  have hh : homeStack k = some 0 := by
    unfold homeStack
    rw [if_pos (by unfold lpddrBase; omega), Nat.div_eq_of_lt (by unfold Config.hbmStack; omega)]
  simp only [inStack, hh]
  rfl

/-- Accumulators and products of numbers, in two orders; and a NaN. -/
theorem witness_ExactAccumulation :
    let xs := [(Fp.decode Fp.e4m3 0x38, Fp.decode Fp.e4m3 0xC0), (Fp.decode Fp.e4m3 0x80, Fp.decode Fp.e4m3 0)]
    (0x80000000 < 2 ^ 32 ∧ isNum (Fp.decode Fp.fp32 0) ∧ isNum (Fp.decode Fp.fp32 0x80000000) ∧ isNum (Fp.decode Fp.fp32 0xBF800000)) ∧
    (∀ p ∈ xs, isNum p.1 ∧ isNum p.2) ∧
    xs.Perm [(Fp.decode Fp.e4m3 0x80, Fp.decode Fp.e4m3 0), (Fp.decode Fp.e4m3 0x38, Fp.decode Fp.e4m3 0xC0)] ∧
    (Fp.decode Fp.fp32 0x7FC00000).isNan = true := by
  refine ⟨⟨by decide, trivial, trivial, trivial⟩, ?_, List.Perm.swap .., by decide⟩
  intro p hp
  rcases List.mem_cons.1 hp with rfl | hp
  · exact ⟨trivial, trivial⟩
  · rw [List.mem_singleton.1 hp]
    exact ⟨trivial, trivial⟩

/-- Commands at the head of tenant 0's queue, with operand rings that hold a tile each. -/
def mq (m : MCmd) : State := mx th (fun x => { x with rings := [(0, { base := 0x4000, n := 2, big := false, tail := 1 }), (1, { base := 0x8000, n := 2, big := false, tail := 1 })] }) [m] id
def opw (op dst f rest : Nat) : Nat := op + dst * 16 + f * 2 ^ 24 + rest
def mma : Nat := opw 1 0 1 (2 ^ 30 + 2 ^ 38)

/-- MZERO of two tiles; MPERM of rows and of columns. -/
theorem witness_MatrixCommandResults_tiles : ∀ w ∈ [mzero, opw 6 0 1 0, opw 6 0 1 (2 ^ 26)], startable (mq (mm [w])) 0 0 = some (mm [w]) ∧ staticFault (mq (mm [w])) (mm [w]) = none ∧
      (mm [w]).core = 0 ∧ (mm [w]).ten = 0 := by decide

/-- MLDACC of 32-bit words, MSTACC of FP16 rounded up, in the core's local store. -/
def ldacc : MCmd := mm [opw 4 1 0x0A 0, 0x2000, 128]
def stacc : MCmd := mm [opw 5 1 0x08 (2 * 2 ^ 30), 0x2000, 64]

theorem witness_MatrixCommandResults_rows : (startable (mq ldacc) 0 0 = some ldacc ∧ ldacc.op = 4 ∧ staticFault (mq ldacc) ldacc = none ∧
      ∀ r < 32, rowPlaces (mq ldacc) ldacc r = some ((List.range 32).map fun c => ls (0x2000 + 128 * r + 4 * c))) ∧
    (startable (mq stacc) 0 0 = some stacc ∧ stacc.op = 5 ∧ staticFault (mq stacc) stacc = none ∧ Machine.Inv (mq stacc) ∧ stacc.width = 2 ∧
      ∀ r < 32, rowPlaces (mq stacc) stacc r = some ((List.range 32).map fun c => ls (0x2000 + 64 * r + 2 * c))) := by
  unfold Machine.Inv
  decide +kernel

theorem witness_MatrixCommandResults_apart : ∀ r < 32, ∀ c < 32, ∀ r' < 32, ∀ c' < 32, (r, c) ≠ (r', c') →
    ls (0x2000 + 64 * r + 2 * c) + 2 ≤ ls (0x2000 + 64 * r' + 2 * c') ∨ ls (0x2000 + 64 * r' + 2 * c') + 2 ≤ ls (0x2000 + 64 * r + 2 * c) := by
  intro r _ c _ r' _ c' _ h
  have : ¬ (r = r' ∧ c = c') := fun e => h (by rw [e.1, e.2])
  simp only [ls, lsKey]
  omega

/-- MMA of INT8, of FP16 and of FP8; MMAS of scaled INT8. -/
theorem witness_MatrixCommandResults_pairs : (∀ m ∈ [mma, opw 1 0 8 (9 * 2 ^ 30 + 2 ^ 38), opw 1 0 0x10 (0x11 * 2 ^ 30 + 2 ^ 38)], let s := mq (mm [m])
      startable s 0 0 = some (mm [m]) ∧ (mm [m]).op = 1 ∧ (mm [m]).acca = false ∧ (mm [m]).pairs = 1 ∧ staticFault s (mm [m]) = none ∧
      (mm [m]).fa ≠ 0x14 ∧ (mm [m]).fb ≠ 0x14) ∧
    (let m := mm [opw 2 0 0x18 (0x18 * 2 ^ 30 + 2 ^ 38), 0x100 + 4 * 2 ^ 22, 0x900]
     startable (mq m) 0 0 = some m ∧ m.op = 2 ∧ m.pairs = 1 ∧ staticFault (mq m) m = none ∧ m.fa = 0x18 ∧ m.fb = 0x18) := by decide +kernel

/-- Each reason of the static checks (R235), of a thread still in its slot. -/
theorem witness_MatrixCommandResults_faults : ∀ p ∈ [([mma + 128], 1), ([opw 1 0 1 (2 ^ 38)], 2), ([mma + 2 * 2 ^ 38], 3), ([opw 5 1 0x0A 0, 0x2000, 64], 5),
        ([opw 1 0 1 (2 ^ 30 + 2 ^ 38 + 2 ^ 42)], 7)],
      let s := mq (mm p.1)
      startable s 0 0 = some (mm p.1) ∧ ((staticFault s (mm p.1)).map MFault.reason) = some p.2 ∧ (mm p.1).tok = false ∧
      (thrAt s 0 0).st ≠ .free ∧ (thrAt s 0 0).uid = (mm p.1).uid := by decide

/-- A running MMA with no work left, that holds neither ring, holds one, or names one ring twice; a queue bound to ring 1's pops. -/
def done (w : Nat) : MCmd := { mm [w] with st := .running }
def retiring (w : Nat) : State :=
  mx th (fun x => { x with
    rings := [(0, { base := 0x4000, n := 2, big := false, tail := 1 }), (1, { base := 0x8000, n := 2, big := false, tail := 1 })]
    queues := [(5, { desc := BitVec.ofNat 64 (4 + 2 ^ 14), kid := 1 })] }) [done w] id

theorem witness_MatrixUnitEvents_retire : (∀ w ∈ [mma, mma + 2 ^ 40, mma + 2 ^ 41, mma + 2 ^ 36], let s := retiring w
      (tenantQueue s 0 0).find? (fun m => m.st == .running) = some (done w) ∧ (done w).core = 0 ∧ (done w).ten = 0 ∧ (done w).left = 0 ∧
      (done w).tok = false ∧ (done w).mul = true ∧ (opRing s 0 1 0 (done w).ra).isSome = true ∧ (opRing s 0 1 0 (done w).rb).isSome = true) ∧
    (done mma).ha = false ∧ (done mma).hb = false ∧ (done mma).ra ≠ (done mma).rb ∧ (done (mma + 2 ^ 41)).hb = true ∧ (done (mma + 2 ^ 40)).ha = true ∧
    (done (mma + 2 ^ 36)).ra = (done (mma + 2 ^ 36)).rb ∧
    (let s := retiring mma
     (opRing s 0 1 0 1).isSome = true ∧ 1 ∈ (done mma).pops ∧ ((ctxAt s 0 1).queues.map Prod.fst).Nodup ∧
     boundQueue (ctxAt s 0 1) (fun d => bindKind d == 4 && bindTenant d == 0 && bindRing d == 1) = some 5 ∧
     (queueAt s 0 1 5).elems.length < 16 ∧ (queueAt s 0 1 5).pending = []) := by decide

/-- An ended command whose element is held, and room for it. -/
theorem witness_MatrixUnitEvents_completion : let m := { mm [mzero] with st := .ended 0 0 3 }
    let s := mx th (fun x => { x with mq := [(0, { fifo := List.replicate 15 5 })] }) [m] id
    firstEnded ((tenantQueue s 0 0).filter fun m => m.owner == 1) = some (m, 0, 0, 3) ∧ completionQueue s 0 1 0 = none ∧
    (Tab.get {} (ctxAt s 0 1).mq 0).fifo.length < 16 := by decide

/-- The two units of a pair: both with a command of two tile pairs, one only, and with either denied before; and when no step begins. -/
def twoUnits (a b : List MCmd) (d : Tab Nat) (f : State → State) : State :=
  let s : State := { one th with denied := d }
  let lo := siteCore s 0 0 0 0
  let hi := siteCore s 0 1 0 0
  let ring : OpRing := { base := 0x4000, n := 3, big := false, tail := 4 }
  let c (q : List MCmd) : Core := { co th with mqueues := [(0, q)], ctxs := [(1, { cx with rings := [(0, ring), (1, ring)] })] }
  f { s with cores := if lo < hi then [(lo, c a), (hi, c b)] else [(hi, c b), (lo, c a)] }

def big (c : Nat) : MCmd := { mm [mma + 2 ^ 47] with core := c }

theorem witness_MatrixUnitEvents_steps : (let lo := siteCore (one th) 0 0 0 0
     let hi := siteCore (one th) 0 1 0 0
     lo ≠ hi ∧ (∀ d ∈ [[], [(0, 0)], [(0, 1)]], let s := twoUnits [big lo] [big hi] d id
      s.cycle % 32 = 0 ∧ 0 ∉ s.stepped ∧ pausing s 0 = false ∧ asksFull s lo = true ∧ asksFull s hi = true ∧
      (Tab.find s.denied 0 = some 0) = (d = [(0, 0)])) ∧
     (let s := twoUnits [big lo] [] [] id
      asksFull s lo = true ∧ asksFull s hi = false)) ∧
    (twoUnits [] [] [] fun s => { s with cycle := 31 }).cycle % 32 ≠ 0 ∧ 0 ∈ (twoUnits [] [] [] fun s => { s with stepped := [0] }).stepped ∧
    (∀ q ∈ [(false, ([] : List MCmd)), (true, [{ big 0 with st := .running, left := 5 }])],
      let s := twoUnits q.2 [] [] fun s => { s with compStacks := [(0, { rot := .pausing 0 0 0 none })] }
      pausing s 0 = true ∧ s.cycle % 32 = 0 ∧ (s.cores.any fun k => stackOf k.1 == 0 && (allCmds k.2).any MCmd.executes) = q.1) := by decide

/-- A supervisor thread of core 0, or of control core 2, with the values given in its TLBIV and BKSEL. -/
def pager (iv sel : Nat) (f : Thread → Thread) : State :=
  one (f { th with sup := true, tlbiv := BitVec.ofNat 64 iv, bksel := BitVec.ofNat 64 sel })
def ctl (sel lscap : Nat) (g : State → State) : State :=
  let t : Thread := { th with owner := 0, kid := 0, sup := true, bksel := BitVec.ofNat 64 sel }
  g { core := 2050, owners := [(1, ow)], nextUid := 5
      cores := [(0, { ctxs := [(1, { lscap := lscap, banks := (List.range lscap).map fun i => (i, i) })], active := 1
                      subs := (List.range lscap).map fun i => (i, { tag := 1, slot := i }) }), (2050, { threads := [(0, t)] })] }

/-- TLBINV of a page: nothing of it out, a load of it out; with a reserved bit; and one that waits. -/
theorem witness_PageResults_tlbinv : (∀ b ∈ [false, true], let s := pager 0x5000 0 id
     let s := if b then { s with cores := s.cores ++ [(1, { posted := [{ uid := 9, owner := 1, key := 0, bytes := [0], tr := some ⟨1, false, 0x5000, 4096, 0⟩ }] })] } else s
     Issues s [] [] ∧ (thr s).sup = true ∧ (thr s).wait = none ∧ zeroBits (thr s).tlbiv 63 62 = true ∧ zeroBits (thr s).tlbiv 11 0 = true ∧
     ok (release s) (fun _ s1 => stillOut (closeFaults { s1 with tlbGen := s1.tlbGen + 1 } (invalOf s (thr s).tlbiv).covers4K) (invalOf s (thr s).tlbiv) (s1.tlbGen + 1) == b) = true) ∧
    (let s := pager 1 0 id
     (zeroBits (thr s).tlbiv 63 62 && zeroBits (thr s).tlbiv 11 0) = false ∧ (thr s).wait = none) ∧
    (let s := pager 0x5000 0 fun t => { t with st := .blocked, wait := some (.tlbinv, .invalidated 1) }
     Issues s [] [] ∧ (thr s).st = .blocked ∧ (thr s).wait = some (.tlbinv, .invalidated 1) ∧ stillOut s (invalOf s (thr s).tlbiv) 1 = false) := by
  unfold Issues
  decide

/-- BKCLR of sub-bank 0, of none and of one not granted; of another position from a compute core and from a control core; OWNSET. -/
theorem witness_PageResults_bkclr : (∀ m ∈ [0, 1], let s := pager 0 (m * 2 ^ 32 + 1) id
     let x := (thr s).bksel
     Issues s [] [] ∧ (thr s).sup = true ∧ isControl s.core = false ∧
     (!zeroBits x 63 58 || !zeroBits x 55 53 || !zeroBits x 31 20 || !zeroBits x 15 8) = false ∧ field x 16 4 = 0 ∧
     0 < (ownerAt s 1).grants.length ∧ (ctx s).rank / 64 = 0 ∧ grantOf s 1 0 = 1 ∧ field x 32 16 = m ∧ ok (release s) (fun _ _ => true) = true) ∧
    2 ^ grantOf (pager 0 (2 * 2 ^ 32) id) 1 0 ≤ 2 ∧ field (thr (pager 0 0x10000 id)).bksel 16 4 ≠ (ctx (pager 0 0x10000 id)).rank / 64 ∧
    field (thr (pager 0 0x10000 id)).bksel 16 4 = (ownerAt (pager 0 0x10000 id) 1).grants.length ∧
    (let s := ctl (2 ^ 32 + 1) 1 id
     Issues s [] [] ∧ (thr s).sup = true ∧ isControl s.core = true ∧ field (thr s).bksel 0 8 = 1 ∧ field (thr s).bksel 16 4 < (ownerAt s 1).grants.length) := by
  unfold Issues
  decide

/-- OWNSET: growth into the last sub-bank and one beyond it; a shrink, also of a busy position; a pause; a grant of 17; none. -/
theorem witness_PageResults_ownset : (∀ p ∈ [(15, 16), (16, 16), (16, 15), (1, 2)], let s := ctl (1 + p.2 * 2 ^ 48) p.1 id
     let x := (thr s).bksel
     Issues s [] [] ∧ (thr s).sup = true ∧ isControl s.core = true ∧
     (!zeroBits x 63 58 || !zeroBits x 55 53 || !zeroBits x 31 20 || !zeroBits x 15 8) = false ∧ field x 48 5 = p.2 ∧ p.2 ≤ 16 ∧
     0 < (ownerAt s 1).grants.length ∧ pausing s 0 = false ∧ grantOf s 1 0 = p.1 ∧ rankCore (ownerAt s 1) 0 = 0 ∧ goodSubs s 0 = 16 ∧
     grantSum (coreAt s 0) + p.2 - p.1 ≤ 16 ∧ posBusy s 1 0 = false) ∧
    (let s := ctl (1 + 16 * 2 ^ 48) 15 fun s => { s with sites := [(3, { retired := [4] })] }
     goodSubs s 0 < grantSum (coreAt s 0) + 16 - 15) ∧
    (let s := ctl (1 + 2 ^ 48) 2 fun s => { s with owners := [(1, { ow with kernels := [(1, { kern .running [] with groups := [3] })] })] }
     1 < grantOf s 1 0 ∧ posBusy s 1 0 = true) ∧
    (let s := ctl (1 + 2 ^ 48) 2 fun s => { s with compStacks := [(0, { rot := .pausing 0 0 0 none })] }
     pausing s 0 = true) ∧
    16 < field (thr (ctl (1 + 17 * 2 ^ 48) 1 id)).bksel 48 5 ∧
    isControl (pager 0 0 id).core = false := by
  unfold Issues
  decide

theorem witness_PageResults_places : (positionCores (ctl 1 15 id) 1 0).Nodup ∧ positionCores (ctl 1 15 id) 1 0 = List.range 64 ∧
    freeSubs (coreAt (ctl 1 15 id) 0) = [15] ∧ freeSlots (ctl 1 15 id) 0 = [15] ∧ Tab.find (ctxAt (ctl 1 16 id) 0 1).banks 15 = some 15 ∧
    (∀ k ∈ (ctl 1 16 id).cores, k.2.sb = [] ∧ k.2.posted = [] ∧ k.2.rel = [] ∧
      ∀ ts ∈ k.2.threads :: k.2.shadow.map Prod.snd, ts.all (fun t => t.2.vq.isEmpty && t.2.wait.isNone) = true) := by decide +kernel

/-- A stack's rotation state, at a clk. -/
def turning (k : Stack) (clk : Nat) (f : State → State) : State := f { one th with compStacks := [(0, k)], cycle := clk, timeU := 165000 * 50 }
def aHold (e : Nat) : Hold := { uid := 1, ends := e }

/-- A due point reached, one clk before it, disabled, with a cause, in Retention; and what a Deferred step waits for. -/
theorem witness_RotationEvents_due : (∀ p ∈ [(100, []), (100, [aHold 51])], let s := turning { due := 100, holds := p.2 } p.1 id
     let k := stackAt s 0
     k.rotEn = true ∧ k.due ≤ s.cycle ∧ s.sys.power = .on ∧ k.rot = .idle ∧ deferralCause s 0 = !p.2.isEmpty) ∧
    99 < (stackAt (turning { due := 100 } 99 id) 0).due ∧ (stackAt (turning { due := 100, rotEn := false } 100 id) 0).rotEn = false ∧
    (turning {} 0 fun s => { s with sys := { s.sys with power := .retention } }).sys.power ≠ .on ∧
    (∀ p ∈ [(100, [], false), (100, [aHold 51], false), (6600099, [aHold 51], false), (6600100, [aHold 51], true)],
      let s := turning { rot := .deferred 100, holds := p.2.1 } p.1 id
      (stackAt s 0).rot = .deferred 100 ∧ s.sys.power = .on ∧ deferralCause s 0 = !p.2.1.isEmpty ∧ decide (100 + 6600000 ≤ s.cycle) = p.2.2) := by decide

/-- A Lead of 32,999 and of 33,000 clk, without and with a cause; and a pause in which a granule fails, or a repair is due. -/
theorem witness_RotationEvents_pause : (∀ p ∈ [(33099, []), (33100, []), (33100, [aHold 51]), (6600100, [aHold 51])], let s := turning { rot := .lead 100 100, holds := p.2 } p.1 id
     (stackAt s 0).rot = .lead 100 100 ∧ s.sys.power = .on ∧ deferralCause s 0 = !p.2.isEmpty ∧ decide (s.cycle < 100 + 33000) = (p.1 = 33099)) ∧
    (let s := turning { rot := .pausing 100 33100 65 none } 40000 fun s => { s with repairs := [(0, [(3, 5, false), (3, 6, false)])] }
     (stackAt s 0).rot = .pausing 100 33100 65 none ∧ s.parked = [] ∧ s.sys.power = .on ∧ (s.repairs.map Prod.fst).Nodup ∧ stackOf 0 = 0 ∧
     Tab.find s.repairs 0 = some [(3, 5, false), (3, 6, false)] ∧ (siteAt s 0).used 3 < 8) ∧
    (let s := turning { rot := .pausing 100 33100 0 (some (0, 0)) } 40000 id
     (stackAt s 0).rot = .pausing 100 33100 0 (some (0, 0)) ∧ stackOf 0 = 0 ∧ (s.repairs.filter fun x => stackOf x.1 == 0) = [] ∧
     granuleOwners s (goodSubs s 0) 0 0 = [1] ∧ (Tab.find s.owners 1).isSome = true) := by decide

/-- A retirement due on a site whose content has a slot free, has none, and where the sub-bank is free. -/
def worn (subs : Tab SubBank) : State :=
  turning { rot := .pausing 100 33100 0 none } 40000 fun s => { s with
    repairs := [(5, [(3, 5, true)])], sites := [(5, { spares := [(3, 8)] })], cores := s.cores ++ [(5, { subs := subs })] }
def tagged (n : Nat) : Tab SubBank := (List.range n).map fun i => (i, { tag := 1, slot := i })

theorem witness_RotationEvents_retire : coreOfSite (worn []) 5 = some 5 ∧ 8 ≤ (siteAt (worn []) 5).used 3 ∧ Tab.find (worn []).repairs 5 = some [(3, 5, true)] ∧
    (∀ p ∈ [(0, false, true), (15, true, true), (16, true, false)], let s := worn (tagged p.1)
      (coreAt s 5).subs.any (fun b => b.2.tag != 0 && b.2.slot == (siteAt s 5).good.idxOf 3) = p.2.1 ∧ !(freeSlots s 5).isEmpty = p.2.2) := by decide +kernel

/-- Holds at and before their end; ROTHOLD of 1 and 2,000 µs, of 0 and 2,001, with a reserved bit, a release; with a Lead and 16 holds. -/
def holder (x : Nat) (k : Stack) : State := turning k 0 fun s => { s with cores := [(0, co { th with sup := true, rothctl := BitVec.ofNat 64 x })] }

theorem witness_RotationEvents_holds : (∀ e ∈ [50, 51], let s := turning { holds := [aHold e] } 0 id
     (stackAt s 0).holds[0]? = some (aHold e) ∧ decide ((aHold e).ends ≤ timeNow s) = (e = 50)) ∧
    (∀ p ∈ [(1, 2 * 1, true), (2000, 2 * 2000, true), (0, 0, true), (2001, 2 * 2001, true), (0, 1, true), (1, 2 + 2 ^ 14, false)], let s := holder p.2.1 {}
     let x := (thr s).rothctl
     Issues s [] [] ∧ (thr s).sup = true ∧ isControl s.core = false ∧ stackOf s.core = 0 ∧ zeroBits x 61 14 = p.2.2 ∧ x.getLsbD 0 = (p.2.1 = 1) ∧ field x 1 11 = p.1) ∧
    (stackAt (holder 2 { rot := .lead 1 2 }) 0).rot = .lead 1 2 ∧
    (∀ n ∈ [15, 16], (let s := holder 2 { holds := List.replicate n (aHold 51) }
     ((stackAt s 0).holds.filter fun h => timeNow s < h.ends).length) = n) := by
  unfold Issues
  decide

/-- A position shared by owners 1 and 2, no swap requested, and one requested with its cores drained, busy, and in a pause. -/
def sharing (t : Thread) (w : Tab Swap) (k : Stack) : State :=
  turning k 0 fun s => { s with
    owners := [(1, { ow with timeShare := true }), (2, { ow with timeShare := true })], swaps := w
    cores := [(0, { co t with ctxs := [(1, cx), (2, {})] })] }

theorem witness_RotationEvents_swap : (let s := sharing th [] {}
     sharesPos s 2 0 0 = true ∧ Tab.find s.swaps 0 = none ∧ (coreAt s 0).active ≠ 2) ∧
    (∀ b ∈ [false, true], let s := sharing { th with st := .held, sup := b } [(0, { next := 2 })] {}
     Tab.find s.swaps 0 = some { next := 2 } ∧ pausing s 0 = false ∧ (posCores 0 0).all (fun c => drained (coreAt s c)) = b) ∧
    pausing (sharing th [(0, { next := 2 })] { rot := .pausing 0 0 0 none }) 0 = true := by decide +kernel

/-- A thread that waits for a reply, and a store posted from its core. -/
def netOf (f : State → State) : State :=
  f (oneCore { th with st := .blocked, wait := some (.ld 5 1 0 0 0, .reply replyReq) } fun c => { c with posted := [{ uid := 1, owner := 1, key := 5, bytes := [9], tr := none }] })

theorem witness_NetworkEvents_drops : (thrAt (netOf id) 0 0).wait = some (.ld 5 1 0 0 0, .reply replyReq) ∧ (coreAt (netOf id) 0).active = 1 ∧
    (let s := netOf fun s => updCore s 0 fun c => { c with active := 2, threads := [], shadow := [(1, c.threads)] }
     (coreAt s 0).active = 2 ∧ (thrAt (swapCore 1 s 0) 0 0).wait = some (.ld 5 1 0 0 0, .reply replyReq)) ∧
    (coreAt (netOf id) 0).posted.map (fun e => (e.key, e.lost)) = [(5, false)] := by decide

/-- Outputs where classes 2 and 5 have waited 4,088 clk, and where no class has; a clk already taken; the bound of a class. -/
theorem witness_NetworkEvents_outputs : (let r : RouterOut := { waits := [(2, 4088), (5, 4088), (7, 4087)] }
     (∀ c ∈ [2, 5], 4088 ≤ Tab.get 0 r.waits c) ∧ (outputClk r fun _ => true).1 = some 2) ∧
    (let r : RouterOut := { waits := [(2, 4087)] }
     (∀ c < 8, Tab.get 0 r.waits c < 4088) ∧ (∀ c < 8, 0 < r.weight c) ∧
     (∀ g < 3, groupOf (Tab.get (groupLow g) r.visit g) = g ∧ Tab.get (groupLow g) r.visit g < 8) ∧ (outputClk r fun c => c == 2).1 = some 2) ∧
    (∀ p ∈ [(none, 4088), (some 0, 4088), (none, 4087)], let s := netOf fun s => { s with outs := [(3, { waits := [(4, p.2)], last := p.1 })] }
     (Tab.get {} s.outs 3).last = p.1 ∧ s.cycle = 0 ∧ Tab.get 0 (Tab.get {} s.outs 3).waits 4 = p.2 ∧ ∀ c < 4, Tab.get 0 (Tab.get {} s.outs 3).waits c < 4088) := by decide

theorem witness_NetworkEvents_bound : 4096 ≤ (List.replicate 4096 fun _ : Nat => true).length ∧ ∀ f ∈ List.replicate 4096 fun _ : Nat => true, f 7 = true :=
  ⟨by rw [List.length_replicate], fun _ h => by rw [(List.mem_replicate.1 h).2]⟩

/-- Threads that have waited 47 and 48 clk, and priorities. -/
theorem witness_NetworkEvents_slots : (let l := [(1, { th with idle := 47 }), (3, { th with idle := 48 }), (4, { th with idle := 48 })]
     l.Pairwise (fun a b => a.1 < b.1) ∧ agedSlot l = some 3 ∧ agedSlot (l.take 1) = none) ∧
    roundSlot { lastIssued := [(9, 3)] } [(2, { th with prio := 9 }), (3, { th with prio := 9 }), (5, { th with prio := 8 })] = some 2 ∧
    (let s := one { th with idle := 48 }
     48 ≤ (thrAt s 0 0).idle ∧ atBoundary (thrAt s 0 0) = true ∧ ∀ i < 16, (thrAt s 0 i).idle < 48 ∨ ((thrAt s 0 i).idle = 48 ∧ 0 ≤ i)) := by decide

/-- A core on which two threads are eligible: one has waited 48 clk or its priority is the greater, and issues; the other waits. -/
theorem witness_NetworkEvents_waits : ∀ p ∈ [(48, (0 : BitVec 8)), (0, 9)], let s := oneCore { th with idle := p.1, prio := p.2 } fun c => { c with threads := c.threads ++ [(3, { th with uid := 2 })] }
      let l := eligibleSlots s 0
      issues s 0 0 l = true ∧ l.map Prod.fst = [0, 3] ∧ (3, { th with uid := 2 }) ∈ l ∧
      Tab.find (coreAt s 0).threads 3 = some { { th with uid := 2 } with idle := 0 } ∧
      agedSlot l = (if p.1 = 48 then some 0 else none) ∧ (p.1 = 0 → ∀ y ∈ l, y.1 = 0 → th.prio.toNat < y.2.prio.toNat) := by decide

/-! ### Hypotheses of the statements about the host, starts, debug, power, the management block and the whole machine -/

/-- BAR2 slot 0 mapped on the first gibibyte of owner 1 and slot 1 on its rank window, in a machine with or without a pause. -/
def hosted (r : RotState) : State :=
  { paged (one th) with sys := { bar2 := [(0, ⟨1, 0⟩), (1, ⟨1, windowBase⟩)] }, compStacks := [(0, { rot := r })] }

theorem witness_HostResults : (let s := hosted .idle
     Machine.Inv s ∧ Tab.find s.sys.bar2 0 = some ⟨1, 0⟩ ∧ inWindow (0 + (2 ^ 30 - 16)) = false ∧
     hostPlaces s 0 (2 ^ 30 - 16) { r := true } 16 = some (places (hbm (2 ^ 30 - 16)) 16) ∧
     hostPlaces s 0 (2 ^ 30 - 16) { w := true } 16 = some (places (hbm (2 ^ 30 - 16)) 16) ∧
     hostPlaces s 0 (2 ^ 30 - 16) { r := true, w := true } 16 = some (places (hbm (2 ^ 30 - 16)) 16) ∧
     (places (hbm (2 ^ 30 - 16)) 16).any (parkedAt s) = false ∧ (places (hbm (2 ^ 30 - 16)) 16).Nodup ∧
     hostPlaces s 0 (2 ^ 30 - 15) { r := true } 16 = none ∧ hostPlaces s 0 (2 ^ 30 - 15) { w := true } 16 = none ∧
     hostPlaces s 0 (2 ^ 30) { r := true, w := true } 4 = none ∧
     (∀ p ∈ [(HostOp.fetchAdd, 4), (HostOp.swap, 8), (HostOp.cas, 16)], hostSize p.1 p.2 = true ∧ (2 ^ 30 - 16) % p.2 = 0) ∧
     hostSize .swap 16 = false ∧ (2 ^ 30 - 15) % 4 ≠ 0 ∧ hostPlaces s 1 0 { r := true } 1 = some [ls 0]) ∧
    (let s := hosted (.pausing 0 0 0 none)
     hostPlaces s 1 0 { r := true } 1 = some [ls 0] ∧ [ls 0].any (parkedAt s) = true) := by
  unfold Machine.Inv
  decide +kernel

/-- A key whose RSA part is one that was generated outside, with a digest and its signature, and whose SLH-DSA part is built here. -/
def signer : SignKeys :=
  { modulus := 4432862309032043537635341674565433311114199094438476681559464617299985097795743159729923220666838925460423117173163672847117315985850874351062471256294186806487474747260809129005470289480816060392119527017588384935166881854539568979295080223327933617692667594073885713351008829040599508497772812050264607031795779674419720010691571982228598961924774172634728011883204529963466767190113777118953774339781793274564924975836667501152146619086341875168883863941827182222977660926488742963166479662279773265927061135377607294616575481903456378795079528515472734160367274890688200487078037807645708851659361261304629993604258554363343547048197722336270365604014816468767042496618001749596582914486009354248424364834591751812796365746086403269277327454217038836002483710027469705886399084178590587080783716602719384718810682421810349710247258929314199047762582924857050735008708497104755969047067316155732910331919475629072722143411
    exponent := 65537, slh := Sign.honestKey (List.replicate 16 7) }
def signedDigest : List Byte := Sha.beBytes 48 0x0bb063802f17cf440b59811198e8b0867830f82fd719e7518a81aa6a14e04391e384686b5dc22b97625e908d635dc8c5
def rsaSignature : List Byte :=
  Sha.beBytes 384 0x9589a54ff211997189acff3bd13ed7d352de1298deb821226b92964b642e1cb25f72346369927a4bce7e984f1de30df7ca7b8d7426dcfcd8cb3e32eeaecf5a2384ce56d2a7a807acb56b5e9c88a93cae70a00531a83bcaf733033ddb9362c2e95846ebfad03cdd4704d923f585387f31e02245838a51f6621eaa0c2274925910a483a9e56e240165f53f50c7fe2ba5c4d1332ff8b155baab5e76ffcef14d43384f573b79f7bf8e757f3f6d17b108dffa0bb4051b1ddbe660e2282ac33824a4b15485ac198b61ccc4257eda6f9722e55ae9d906b6279c98df2ed4829d3abf888aa65d43378d73dcfaac5b68579f95cdf495072baf118c31d46f081d5e6d00871839c0b8aaa990658d8f94bf972f21d2b3f74bd084a7588d68e3b9aae7d73fbe4f6c4707ea68c05d7dcfad79e9d60a0558c5f1c6348d4744211799ca3b9aa89ff5114d7d7f544c07d507cdb586de3faa28d4ba71f37b272bb4c33cf2d273fc2af20dd15662ff6017ff8245324341281e6568aca5afb5eba7c0bfbc5d8f870b9b63

theorem rsaVerify_part (k : SignKeys) (m sig : List Byte) : Sign.rsaVerify k m sig = Sign.rsaVerify { k with slh := [] } m sig := rfl

/-- What carries both signatures under that key. -/
theorem signed_exists : ∃ x : Signed, x.digest.length = 48 ∧ Sign.rsaVerify signer x.digest x.rsa = true ∧ Sign.slhVerify signer x.digest x.slh = true := by
  obtain ⟨sig, h⟩ := Sign.slhVerify_honest signer (List.replicate 16 7) signedDigest (by decide) rfl
  have hl : signedDigest.length = 48 := by decide
  have hr : Sign.rsaVerify { signer with slh := [] } signedDigest rsaSignature = true := by decide +kernel
  exact ⟨⟨signedDigest, rsaSignature, sig⟩, hl, (rsaVerify_part ..).trans hr, h⟩

/-- A start of no stage, which passes whatever the keys of Boot ROM; and one of a stage without a digest. -/
def unsigned : Signed := ⟨[], [], []⟩
def startOf (l : List Stage) (v : Option Signed) : StartRecord :=
  { stages := l, training := v, repairMap := v, manufacturing := v, tests := [⟨3, [0, 15], []⟩], nonce := [1] }
def starting (failed clk : Nat) (ready : Bool) : State :=
  { one th with sys := { minVer := [(7, 5)], failed := failed, startClk := clk, ready := ready, signers := [signer] }, sites := [(9, { retired := [4] })] }

theorem witness_StartEvents_passes :
    (∀ n ∈ [2, 3], ∀ v : Option Signed, (∀ (i : Nat) (x : Stage), (startOf [] v).stages[i]? = some x → False) ∧ (starting n 0 true).sys.failed = n ∧
      Machine.Inv (starting n 0 true) ∧ ∀ x ∈ (startOf [] v).tests, x.site ≠ 9) ∧
    (∃ x, (startOf [⟨7, 5, 7, unsigned, none⟩] none).stages[0]? = some x ∧ x.signed.digest.length ≠ 48) ∧
    (15 ∈ [0, 15] ∧ 15 < 16 ∧ 4 ∈ (siteAt (starting 2 0 true) 9).retired) := by
  refine ⟨?_, ⟨_, rfl, by decide⟩, by decide⟩
  intro n _ v
  refine ⟨fun i x h => (by simp [startOf] at h), rfl, by unfold Machine.Inv; rfl, fun x hx => ?_⟩
  rw [List.mem_singleton.1 hx]
  decide

theorem witness_StartEvents_timeout : (∀ p ∈ [(990000000000, true), (989999999999, false)], let y := (starting 1 p.1 false).sys
      y.ready = false ∧ y.power = .on ∧ (decide (990000000000 ≤ y.startClk)) = p.2) ∧ (starting 1 0 true).sys.ready = true := by decide

def minimumsOf : List (Nat × BitVec 32) := [(7, 6), (7, 4), (8, 1)]

/-- A configuration record that verifies after the ready record, one that does not, and one before. -/
theorem witness_StartEvents_record :
    (∃ x : Signed, x.digest.length = 48 ∧ ∃ k ∈ (starting 1 0 true).sys.signers, Sign.rsaVerify k x.digest x.rsa = true ∧
      Sign.slhVerify k x.digest x.slh = true) ∧
    (starting 1 0 true).sys.ready = true ∧ unsigned.digest.length ≠ 48 ∧ (starting 1 0 false).sys.ready = false ∧ (7, 6) ∈ minimumsOf := by
  obtain ⟨x, h⟩ := signed_exists
  exact ⟨⟨x, h.1, signer, List.mem_singleton.2 rfl, h.2⟩, rfl, by decide, rfl, by decide⟩

/-- A token for the start under way. -/
def tok (f : DebugToken → DebugToken) : DebugToken :=
  f { signed := unsigned, identity := Config.slhKeyHash, nonce := [7], trace := true, halt := false, owners := [1] }
def secured (f : Sys → Sys) : State := { one th with sys := f { nonce := [7], ready := false, startClk := 989999999999, signers := [signer] } }

theorem witness_DebugAndPowerEvents_token : ∃ x : Signed, let k := tok fun k => { k with signed := x }; let y := (secured id).sys
    ((k.signed.digest.length = 48 ∧ ∃ q ∈ y.signers, Sign.rsaVerify q k.signed.digest k.signed.rsa = true ∧
        Sign.slhVerify q k.signed.digest k.signed.slh = true) ∧
      k.identity = Config.slhKeyHash ∧ k.nonce = y.nonce ∧ y.ready = false ∧ y.power = .on ∧ y.startClk < 990000000000 ∧ y.sec = 0) ∧
    (tok fun k => { k with nonce := [8] }).nonce ≠ y.nonce := by
  obtain ⟨x, h⟩ := signed_exists
  refine ⟨x, ⟨⟨h.1, signer, List.mem_singleton.2 rfl, h.2⟩, rfl, rfl, rfl, rfl, ?_, rfl⟩, ?_⟩ <;> decide

/-- Debug levels under a manufacturing record, under a token that names tracing alone, and under none. -/
theorem witness_DebugAndPowerEvents_levels :
    (secured fun y => { y with sec := 2 }).sys.sec = 2 ∧
    (let y := (secured fun y => { y with sec := 1, token := some (tok id) }).sys
     y.sec = 1 ∧ (∃ k, y.token = some k ∧ k.trace = true) ∧ ∀ k, y.token = some k → k.halt = false) ∧
    (secured id).sys.sec = 0 ∧ List.length (List.replicate 32 (0 : Byte)) = 32 := by
  refine ⟨rfl, ⟨rfl, ⟨_, rfl, rfl⟩, ?_⟩, rfl, by rw [List.length_replicate]⟩
  rintro k h
  cases h
  rfl

/-- A held context, of an owner that consents under a token that names it, of a module under its manufacturing record, and of neither. -/
def debugging (sec : BitVec 2) (consent : Bool) (f : DebugToken → DebugToken) : State :=
  { oneOwner { th with st := .held, dbgHeld := true } (fun w => { w with consent := consent }) with sys := { dbg := 2, sec := sec, token := some (tok f) } }

theorem witness_DebugAndPowerEvents_debugger :
    (∀ sec ∈ [1, 2], let s := debugging sec true fun k => { k with halt := true }
      let x := thrAt s 0 0
      x.st = .held ∧ x.dbgHeld = true ∧ s.sys.dbg = 2 ∧ (s.sys.sec = 2 ∨ ((ownerAt s x.owner).consent = true ∧
        ∃ k, s.sys.token = some k ∧ k.halt = true ∧ x.owner ∈ k.owners)) ∧ windowSize x.wsz = 64 ∧ vectorSize x.vsz = 32) ∧
    (let s := debugging 1 false fun k => { k with halt := true }
     s.sys.sec = 1 ∧ (ownerAt s (thrAt s 0 0).owner).consent = false) := by
  refine ⟨?_, rfl, rfl⟩
  intro sec h
  exact ⟨rfl, rfl, rfl, .inr ⟨rfl, _, rfl, rfl, List.mem_cons_self ..⟩, rfl, rfl⟩

/-- A stack without work for 100 µs, for one clk less, and Idle. -/
def resting (clk : Nat) (f : State → State) : State := f { compStacks := [(1, {})], cycle := clk }

theorem witness_DebugAndPowerEvents_power : (∀ clk ∈ [330000, 329999], let s := resting clk id
      (stackAt s 1).idle = false ∧ stackBusy s 1 = false ∧ (decide ((stackAt s 1).quiet + 330000 ≤ s.cycle)) = (clk = 330000)) ∧
    stackBusy (one th) 0 = true ∧ (stackAt (resting 0 fun s => { s with compStacks := [(1, { idle := true })] }) 1).idle = true ∧
    (let s := resting 5 fun s => { s with owners := [(1, dis .closed)], compStacks := [(1, { due := 3300000, rot := .lead 1 2 })] }
     s.sys.power = .on ∧ (∀ o ∈ s.owners, ∀ k ∈ o.2.kernels, k.2.over = true) ∧ anyDebugHeld s = false ∧ s.sys.trace = [] ∧
     (∀ n < 4, pausing s n = false) ∧ (Tab.find s.compStacks 1).isSome = true) ∧
    (∀ o ∈ [(1, dis .running)], ∃ k ∈ o.2.kernels, k.2.over = false) ∧
    (∀ clk ∈ [3299999, 3300000], let s := resting clk fun s => { s with sys := { power := .retention }, compStacks := [(1, { due := 3300000 })] }
     s.sys.power = .retention ∧ (stackAt s 1).ivl = 16 ∧ (decide ((stackAt s 1).due ≤ s.cycle)) = (clk = 3300000)) := by decide

/-- A row of a local store whose errors stand at 14 and at 15. -/
def scrubbed (n : Nat) : State := { one th with mem := [(ls 5, 9)], rowErrs := (match rowOf (one th) (ls 5) with | some p => [(p.2.2, n)] | none => []) }

theorem witness_ManagementEvents_scrub : isLs (ls 5) = true ∧ (∀ n, homeByte (scrubbed n) (ls 5) = 9) ∧
    (rowOf (scrubbed 14) (ls 5)) = some (siteOf (one th) 0, 0, Config.storeRow (lsKey (siteOf (one th) 0) 0 5)) ∧
    (∀ n ∈ [14, 15], Tab.get 0 (scrubbed n).rowErrs (Config.storeRow (lsKey (siteOf (one th) 0) 0 5)) = n) ∧ Machine.Inv (scrubbed 15) := by
  refine ⟨by decide, fun n => rfl, rfl, ?_, by unfold Machine.Inv; decide⟩
  intro n _
  rw [show (scrubbed n).rowErrs = [(Config.storeRow (lsKey (siteOf (one th) 0) 0 5), n)] from rfl]
  simp [Tab.get]

/-- Owners over and under their caps, at the duty's two bounds; a measurement taken in this interval already. -/
def measuring (duty cap : Nat) (m : Option Nat) : State :=
  { one th with owners := [(1, { ow with duty := duty, capOwn := cap })], cycle := 33000, sys := { measured := m } }

theorem witness_ManagementEvents_power : (∀ p ∈ [(1, 10, 11), (16, 10, 11), (15, 100, 98), (15, 0, 98)], let s := measuring p.1 p.2.1 (some 0)
      s.sys.power = .on ∧ s.sys.measured ≠ some (s.cycle / 33000) ∧ (∀ o ∈ s.owners, 1 ≤ o.2.duty ∧ o.2.duty ≤ 16) ∧
      (s.owners.map Prod.fst).Pairwise (· < ·) ∧ (Tab.find s.owners 1).isSome = true ∧ Tab.get 0 s.sys.classCaps (ownerAt s 1).capCls = 0 ∧
      (ownerAt s 1).capOwn = p.2.1 ∧ drawOf [(1, p.2.2)] 1 = p.2.2) ∧
    (measuring 1 0 (some 1)).sys.measured = some (33000 / 33000) := by decide

/-- No interval, one and three that end, of owners that limits hold and do not; and a trace record. -/
theorem witness_ManagementEvents_intervals : (∀ p ∈ [(33000, 0), (32999, 1), (0, 1)], (33000 : Nat) / 33000 - p.1 / 33000 = p.2) ∧ (99000 : Nat) / 33000 - 5 / 33000 = 1 + 2 ∧
    (∀ h ∈ [(0 : BitVec 5), 4], let s := { measuring 15 100 none with owners := [(1, { ow with heldBy := h })] }
      (Tab.find s.owners 1).map Owner.heldBy = some h) ∧
    (let s := { one th with sys := { trace := [⟨1, 0, 0, 0x1000, false, false, 7⟩] } }
     s.sys.trace[0]? = some ⟨1, 0, 0, 0x1000, false, false, 7⟩) := by decide

/-- A cap frame with its tag under the module's key, its sequence one above the last accepted; and the same sequence again. -/
def capBase : List Byte := [0xFF, 0xFF, 0xFF, 0xFF, 0, 0, 0, 0, 0, 0, 0, 9, 0, 0, 0, 100] ++ List.replicate 32 0
def capped : List Byte := capBase ++ (Sha.hmac [1, 2] capBase).take 16

theorem witness_ManagementEvents_frames : capped.length = 64 ∧ frameField capped 0 4 = 0xFFFFFFFF ∧ frameField capped 4 8 = 9 ∧
    (Sha.hmac [1, 2] (capped.take 48)).take 16 = capped.drop 48 ∧
    (∀ n ∈ [8, 9], let y := ({ (one th) with sys := { capKey := some [1, 2], capSeq := n } } : State).sys
      y.capKey = some [1, 2] ∧ decide (y.capSeq < frameField capped 4 8) = (n = 8)) := by decide +kernel

/-- A module of domain 3 whose clock has heard a Sync and sent a request; one that keeps time and one that has lost its master. -/
def clocked (n : Option Nat) (p : BitVec 2) : State :=
  { one th with sys := { ptpDomain := n, ptp := p, ptpClock := { arrived := some 5, gap := some 7, asked := some 9 } }, timeU := 100 }

theorem witness_ManagementEvents_clock : (let s := clocked (some 3) 0
     s.sys.ptpDomain = some 3 ∧ s.sys.power ≠ .off ∧ s.sys.ptpClock.arrived = some 5 ∧ s.sys.ptpClock.gap = some 7 ∧ s.sys.ptpClock.asked = some 9 ∧
     s.sys.ptp = 0) ∧
    (clocked none 1).sys.ptpDomain ≠ some 3 ∧ (clocked none 1).sys.ptp ≠ 0 := by decide

theorem witness_ManagementEvents_registers : (∀ b ∈ [false, true], let s := { one th with sys := { (one th).sys with sec := if b then 2 else 0 } }
      s.sys.sec = (if b then 2 else 0) ∧ (stackAt s 3).rotEn = true) ∧
    (∀ v : BitVec 10, v = 8 ∨ v = 512 → 8 ≤ v.toNat ∧ v.toNat ≤ 512) ∧ (7 : BitVec 10).toNat < 8 ∧ 512 < (513 : BitVec 10).toNat ∧
    (let s := starting 1 989999999999 false
     2047 < 2048 ∧ (Tab.find s.owners 1).isSome = true ∧ 2 ^ 30 % 2 ^ 30 = 0 ∧ 2 ^ 30 < 2 ^ 52 ∧
     s.sys.ready = false ∧ s.sys.power = .on ∧ s.sys.startClk < 990000000000) ∧
    990000000000 ≤ (starting 1 990000000000 false).sys.startClk := by decide

/-- Owners that fit a machine without owners: of one position, of sixteen, of a share; and one whose position is held. -/
def spec (n : Nat) (share : Bool) : OwnerSpec :=
  { id := 255, grants := (List.range n).map fun i => ⟨i / 8, i % 8, i % 4⟩, timeShare := share, lscap := 16, pgroot := 0, svroot := 0, udeleg := 0
    tvec := 0x4000, loopEntry := 0x3000, loopWsz := 2, loopVsz := 3, loopPrio := 9 }

theorem witness_OwnerLife : (∀ p ∈ [(1, false), (16, false), (1, true)], ownerFits {} (spec p.1 p.2) = true ∧ rankCore { grants := (spec p.1 p.2).grants } (64 * p.1 - 1) < 2048) ∧
    ownerFits (one th) (spec 1 false) = false ∧ 0 < (spec 1 false).lscap ∧ (coreAt {} 0).active = 0 ∧
    (let s : State := { one th with owners := [(1, { dis .running with grants := [⟨0, 0, 0⟩, ⟨0, 1, 0⟩] })] }
     (Tab.find s.owners 1).isSome = true ∧ (ownerAt s 1).kernels.length ≤ 2048 ∧ ((kernelAt s 1 1).map fun k => (k.over, k.flag)) = some (false, 0) ∧
     1 + 1 = (ownerAt s 1).grants.length ∧ 0 + 1 ≠ (ownerAt s 1).grants.length ∧ Tab.find s.owners 2 = none) := by decide +kernel

/-- A step from the state with the thread's code in its local store, and an encoding. -/
def stepping (w : Nat) (t : Thread) : State :=
  { one { t with pc := 0x8000000000000040#64 } with
    mem := cells [(ls 0x40, 4, w)], sched := [.issue 0 0] }

theorem witness_EveryStepKeepsMemoryCanonical : Machine.Inv (stepping 0x00000079 th) ∧ ∃ t, step { (stepping 0x00000079 th) with sched := [] } = .next t :=
  ⟨by unfold Machine.Inv; decide, _, rfl⟩

/-- Code that decodes, code that does not, and a PC of no fetchable form. -/
theorem witness_StepRunsDecodedInstruction : (∀ w ∈ [0x00000079, 0xFFFFFFFF], let s := stepping w th
      s.sched = [.issue 0 0] ∧ s.sys.power = .on ∧ pausing s (stackOf 0) = false ∧ forcedSlot { s with sched := [] } 0 0 = 0 ∧
      eligible { s with sched := [] } 0 0 (thrAt s 0 0) = true ∧ (thrAt s 0 0).gang = none ∧
      (let now := noteIssue { choose 0 0 (eligibleSlots { s with sched := [] } 0) { s with sched := [] } with splitIssue := false }
       (boundaryTake now).isSome = false ∧ (irqHere now).isSome = false ∧
       ok (fetchCode now) (fun c _ => c == .c32 (BitVec.ofNat 32 w)) = true ∧
       (let pc := (thrAt s 0 0).pc
        pc.getLsbD 63 = true ∧ codeForm pc = true ∧ codeAddr pc < lsLimit now 0 1 ∧ codeForm (pcPlus pc 2) = true ∧
        codeAddr (pcPlus pc 2) < lsLimit now 0 1 ∧ lsPlace now 0 1 (codeAddr pc) = some (ls 0x40) ∧
        lsPlace now 0 1 (codeAddr (pcPlus pc 2)) = some (ls 0x42) ∧
        (match decodeBytes [homeByte s (ls 0x40), homeByte s (ls 0x41), homeByte s (ls 0x42), homeByte s (ls 0x43)] with
          | .ok (c, r) => c == .c32 (BitVec.ofNat 32 w) && r == []
          | .error _ => false) = true))) ∧
    (let s := { one { th with pc := 0x7000000000000040#64 } with sched := [.issue 0 0] }
     eligible { s with sched := [] } 0 0 (thrAt s 0 0) = true ∧
     (match fetchCode (noteIssue { choose 0 0 (eligibleSlots { s with sched := [] } 0) { s with sched := [] } with splitIssue := false }) with
      | .trap .. => true
      | _ => false) = true) ∧
    (Code.c32 0x00000079).decode = some .nop ∧ (Code.c32 0xFFFFFFFF).decode = none := by decide +kernel

theorem witness_HomesReadBackWhatIsWritten : Machine.Inv (scrubbed 0) ∧ [1, 2, 3].length = 3 ∧ 255 < 2 ^ (8 * 1) := by
  unfold Machine.Inv
  decide

theorem witness_DecodingInvertsEncoding : (Instr.csrw 4 8).wf = true ∧ encode (.csrw 4 8) = some (.c32 0x80408077) ∧ Instr.doneCompact.wf = true ∧ encode .doneCompact = some (.c16 0xB000) := by decide

/-! ### Encodings and static rules -/

/-- Words that the spec itself assembles in its worked encodings. -/
theorem test_decodes_assembled_words : decodeTableWord 32 0x000182E1 = some (.mpush 5 12) ∧
    decodeTableWord 32 0x00080361 = some (.mpop 6) ∧
    decodeTableWord 32 0x00100061 = some (.mwait 0 0) ∧
    decodeTableWord 32 0x0018C2E1 = some (.mstat 5 6) ∧
    decodeTableWord 32 0x00208061 = some (.msplit 4) ∧
    decodeTableWord 32 0x00412063 = some (.rgdef 9 1) ∧
    decodeTableWord 32 0x0088E063 = some (.rgpush 7 2) ∧
    decodeTableWord 32 0x005002E3 = some (.rgstat 5 1) ∧
    decodeTableWord 32 0x00D80063 = some (.rgrst 3) ∧
    decodeTableWord 32 0x01480079 = some (.trap 5) ∧
    decodeTableWord 32 0x00100079 = some (.utret) ∧
    decodeTableWord 32 0x0000007B = some (.tret) ∧
    decodeTableWord 32 0x00280079 = some (.seqsync) ∧
    decodeTableWord 32 0x0018006B = some (.done) ∧
    decodeTableWord 32 0x0021806B = some (.suspend 12) ∧
    decodeTableWord 32 0x0128C26B = some (.resumec 4 6 4) ∧
    decodeTableWord 32 0x00102A6F = some (.klaunch 20 1) ∧
    decodeTableWord 32 0x0038A27B = some (.ctxsave 4 5) ∧
    decodeTableWord 32 0x003002F7 = some (.csrr 5 6) ∧
    decodeTableWord 32 0x80408077 = some (.csrw 4 8) ∧
    decodeTableWord 32 0x0048007B = some (.rothold) ∧
    decodeTableWord 32 0x0028C06F = some (.wrapdone 6) ∧
    decodeTableWord 32 0x00080873 = some (.shslice 16 0) ∧
    decodeTableWord 32 0x0080C2F3 = some (.shget 5 6 2) ∧
    decodeTableWord 32 0x0028007B = some (.mspill) ∧
    decodeTableWord 32 0x0030007B = some (.mfill) ∧
    decodeTableWord 32 0x00000079 = some (.nop) ∧
    decodeTableWord 32 0x0028006D = some (.xret) ∧
    decodeTableWord 32 0x0010206D = some (.xfree 1) ∧
    decodeTableWord 16 0xB000 = some .doneCompact := by decide +kernel

/-- Words laid out from the fields of the opcode table's rows (R55 to R57). -/
theorem test_decodes_arithmetic : decodeTableWord 32 0x03823401 = some (.sub 40 17 48) ∧
    decodeTableWord 32 0xB0CE6B83 = some (.addi 23 51 5657) ∧
    decodeTableWord 32 0x0186DE8B = some (.slli 61 54 48) ∧
    decodeTableWord 32 0x07179511 = some (.mulhm 42 60 34) ∧
    decodeTableWord 32 0x08F6C113 = some (.sel 2 54 30) ∧
    decodeTableWord 32 0x0E87B913 = some (.ins 50 61 16) ∧
    decodeTableWord 32 0x0D467517 = some (.addpc 42 27187) ∧
    decodeTableWord 32 0x0A417D19 = some (.pblk 58 11 8) ∧
    decodeTableWord 32 0xDE5BEC1B = some (.paddi 24 31 7115) := by decide +kernel

/-- Words laid out from the fields of the opcode table's rows (R55 to R57). -/
theorem test_decodes_registers_and_floats : decodeTableWord 32 0x0612001D = some (.ixadd 16 2) ∧
    decodeTableWord 32 0x8728F19F = some (.fdiv 35 7 37 1) ∧
    decodeTableWord 32 0x8D78281F = some (.fmax 16 1 47 1) ∧
    decodeTableWord 32 0x9093671F = some (.fsinv 14 27 18 1) ∧
    decodeTableWord 32 0x99C7661F = some (.fle 12 59 56 1) ∧
    decodeTableWord 32 0x9A03391F = some (.fkind 50 25 1) ∧
    decodeTableWord 32 0x146625A1 = some (.fcvt 11 49 4 1 2 1) ∧
    decodeTableWord 32 0x26ED1423 = some (.ffma 40 40 29 1 9) := by decide +kernel

/-- Words laid out from the fields of the opcode table's rows (R55 to R57). -/
theorem test_decodes_branches : decodeTableWord 32 0xF8F024AF = some (.bgeu 9 1 7966) ∧
    decodeTableWord 32 0xDF146233 = some (.jal 29239492) ∧
    decodeTableWord 32 0xC611C0B5 = some (.jalr 1 14 6338) ∧
    decodeTableWord 32 0xFB87C737 = some (.loop 14 62 8048) := by decide +kernel

/-- Words laid out from the fields of the opcode table's rows (R55 to R57). -/
theorem test_decodes_memory : decodeTableWord 32 0x516F05BD = some (.st 11 56 1 3 81) ∧
    decodeTableWord 32 0xA1D1BF3B = some (.ldu 62 13 2 6 161) ∧
    decodeTableWord 32 0x5DE9873F = some (.ldux 14 12 61 6 1) ∧
    decodeTableWord 32 0x06B7DF41 = some (.pst 62 62 2 5 6) ∧
    decodeTableWord 32 0x2BC3614F = some (.pref 2 27 43) ∧
    decodeTableWord 32 0x11615E45 = some (.stv 60 10 3 17) ∧
    decodeTableWord 32 0xF5AA8B47 = some (.vgath 22 20 53 3 3) ∧
    decodeTableWord 32 0xBB64E0C9 = some (.amomax 1 39 44 3 2) ∧
    decodeTableWord 32 0xAEBA82C9 = some (.amofadd 5 20 23 2 2) ∧
    decodeTableWord 32 0x2862B6CB = some (.cas 45 21 12 2 2) ∧
    decodeTableWord 32 0x3A51844B = some (.cas2 8 12 10 2) ∧
    decodeTableWord 32 0x0088004D = some (.fence 1 2) := by decide +kernel

/-- Words laid out from the fields of the opcode table's rows (R55 to R57). -/
theorem test_decodes_vectors : decodeTableWord 32 0x46D6EBD1 = some (.vmulh 23 55 26 1) ∧
    decodeTableWord 32 0x62DE7255 = some (.vfma 36 51 27 1 24) ∧
    decodeTableWord 32 0x105CCCD7 = some (.vcvt 25 38 3 1 1) ∧
    decodeTableWord 32 0x53706ED7 = some (.vqnt 29 3 46 1 2) ∧
    decodeTableWord 32 0xD607D457 = some (.vecfd 40 62 1 6) ∧
    decodeTableWord 32 0xAC862459 = some (.vsel 8 49 16 2 2) ∧
    decodeTableWord 32 0xD802F0D9 = some (.vred 33 23 1 3) ∧
    decodeTableWord 32 0x2803D95B = some (.vtanh 50 30 2) ∧
    decodeTableWord 32 0x51A64ADD = some (.vcmp 5 2 50 52 5) ∧
    decodeTableWord 32 0x0800C1DD = some (.mnot 3 6) ∧
    decodeTableWord 32 0x000381DF = some (.gang 3 28) ∧
    decodeTableWord 32 0x0057FEDF = some (.xchg 61 63 1) ∧
    decodeTableWord 32 0x0022C75F = some (.gstat 14 22) := by decide +kernel

/-- Words laid out from the fields of the opcode table's rows (R55 to R57). -/
theorem test_decodes_queues_and_messages : decodeTableWord 32 0x001510E1 = some (.mwait 33 40) ∧
    decodeTableWord 32 0x00500C63 = some (.rgstat 24 1) ∧
    decodeTableWord 32 0x03DA4B65 = some (.qtry 22 18 15) ∧
    decodeTableWord 32 0x026DA065 = some (.qbind 45 9) ∧
    decodeTableWord 32 0x00C28367 = some (.sopen 6 20 3) ∧
    decodeTableWord 32 0x00D00AE7 = some (.sstat 21 3) ∧
    decodeTableWord 32 0x000E8669 = some (.send4 12 52) ∧
    decodeTableWord 32 0x0180C06B = some (.mbxdef 6 6) ∧
    decodeTableWord 32 0x1890006B = some (.unbind 2 12) ∧
    decodeTableWord 32 0x012A96EB = some (.resumec 45 20 4) := by decide +kernel

/-- Words laid out from the fields of the opcode table's rows (R55 to R57). -/
theorem test_decodes_threads_and_kernels : decodeTableWord 32 0x01B005EB = some (.recv 11 6) ∧
    decodeTableWord 32 0x0008C26D = some (.xmcast 4 6) ∧
    decodeTableWord 32 0x001C73ED = some (.xwait 39 35) ∧
    decodeTableWord 32 0x00235E6D = some (.xstat 60 26) ∧
    decodeTableWord 32 0x0000606F = some (.rfork 3) ∧
    decodeTableWord 32 0x000A006F = some (.join 16) ∧
    decodeTableWord 32 0x001CF86F = some (.kstat 48 39) ∧
    decodeTableWord 32 0x0026ABEF = some (.dlget 23 53) ∧
    decodeTableWord 32 0x0033C8EF = some (.budget 17 30) ∧
    decodeTableWord 32 0x06481571 = some (.bararr 42 0 1 6) ∧
    decodeTableWord 32 0x01901FF3 = some (.shrec 63 6) ∧
    decodeTableWord 32 0x00180073 = some .shfence := by decide +kernel

/-- Words laid out from the fields of the opcode table's rows (R55 to R57). -/
theorem test_decodes_barriers_and_arcade : decodeTableWord 32 0x000681F5 = some (.creg 3 52) ∧
    decodeTableWord 32 0x000AD075 = some (.cpost 32 22) ∧
    decodeTableWord 32 0x0011DB75 = some (.cstat 54 14) ∧
    decodeTableWord 32 0x00192075 = some (.cdereg 9) ∧
    decodeTableWord 32 0x8047E0F7 = some (.csrs 63 8) ∧
    decodeTableWord 32 0x90A00079 = some (.brk 578) ∧
    decodeTableWord 32 0x001FA079 = some (.wfe 61) := by decide +kernel

/-- Words laid out from the fields of the opcode table's rows (R55 to R57). -/
theorem test_decodes_system : decodeTableWord 32 0x0008007B = some .halt ∧
    decodeTableWord 32 0x0010007B = some .tlbinv ∧
    decodeTableWord 32 0x0018007B = some .bkclr ∧
    decodeTableWord 32 0x0020007B = some .ownset ∧
    decodeTableWord 32 0x0030007B = some .mfill ∧
    decodeTableWord 32 0x004524FB = some (.ctxload 9 41) ∧
    decodeTableWord 16 0x0000 = some .nopCompact ∧
    decodeTableWord 16 0x17E6 = some (.li 15 51) ∧
    decodeTableWord 16 0x2B8E = some (.addiCompact 7 7) ∧
    decodeTableWord 16 0x59B8 = some (.sraiCompact 3 28) := by decide +kernel

/-- Words laid out from the fields of the opcode table's rows (R55 to R57). -/
theorem test_decodes_compact : decodeTableWord 16 0x6B1A = some (.ldDCompact 6 3 1) ∧
    decodeTableWord 16 0x773C = some (.stWCompact 14 7 2) ∧
    decodeTableWord 16 0x89BC = some (.bnez 3 30) ∧
    decodeTableWord 16 0x9762 = some (.jCompact 945) ∧
    decodeTableWord 16 0x9800 = some .ret ∧
    decodeTableWord 16 0xAD70 = some (.qpushCompact 10 14) ∧
    decodeTableWord 16 0xB800 = some .brkCompact := by decide +kernel

/-- Ill-formed fields, which the static rules refuse (R58). -/
theorem test_ill_formed_scalar : (Instr.fcvt 1 2 7 0 2 1).wf = false ∧
    (Instr.fcvt 1 2 0 0 2 2).wf = false ∧
    (Instr.fcvt 1 2 5 0 4 1).wf = false ∧
    (Instr.ldu 1 2 3 0 0).wf = false ∧
    (Instr.ldux 1 2 3 0 3).wf = false ∧
    (Instr.pst 1 2 0 1 0).wf = false ∧
    (Instr.pst 1 2 0 6 0).wf = false ∧
    (Instr.pref 4 0 0).wf = false := by decide

/-- Ill-formed fields, which the static rules refuse (R58). -/
theorem test_ill_formed_memory : (Instr.amoadd 1 2 3 1 0).wf = false ∧
    (Instr.amofadd 1 2 3 0 0).wf = false ∧
    (Instr.cas 1 2 3 0 1).wf = false ∧
    (Instr.cas2 3 4 6 0).wf = false ∧
    (Instr.cas2 2 4 7 0).wf = false ∧
    (Instr.fence 0 3).wf = false := by decide

/-- Ill-formed fields, which the static rules refuse (R58). -/
theorem test_ill_formed_vectors : (Instr.vfadd 1 2 3 3).wf = false ∧
    (Instr.vfabs 1 2 3).wf = false ∧
    (Instr.vrcp 1 2 3).wf = false ∧
    (Instr.vcvt 1 2 7 0 0).wf = false ∧
    (Instr.vcvt 1 2 5 0 2).wf = false ∧
    (Instr.vqnt 1 2 3 0 7).wf = false ∧
    (Instr.vqnt 1 2 3 0 5).wf = false ∧
    (Instr.vecfd 1 2 0 1).wf = false ∧
    (Instr.vecfe 1 2 0 3).wf = false ∧
    (Instr.vred 1 2 0 1).wf = false ∧
    (Instr.vcmp 0 6 1 2 0).wf = false ∧
    (Instr.vcmp 0 4 1 2 4).wf = false ∧
    (Instr.vcmp 0 0 1 2 7).wf = false ∧
    (Instr.mand 8 0 0).wf = false ∧
    (Instr.mor 0 8 0).wf = false ∧
    (Instr.mxor 0 0 8).wf = false ∧
    (Instr.mnot 0 8).wf = false ∧
    (Instr.mcnt 1 8 0).wf = false ∧
    (Instr.mset 8 1).wf = false := by decide

/-- Ill-formed fields, which the static rules refuse (R58). -/
theorem test_ill_formed_system : (Instr.xchg 1 2 3).wf = false ∧
    (Instr.qtry 5 5 0).wf = false ∧
    (Instr.qtryp 5 5 0).wf = false ∧
    (Instr.sopen 1 2 4).wf = false ∧
    (Instr.sclose 4).wf = false ∧
    (Instr.resumec 1 2 1).wf = false ∧
    (Instr.resumec 1 2 6).wf = false ∧
    (Instr.barinit 1 0 0 4).wf = false ∧
    (Instr.bararr 1 2 0 0).wf = false ∧
    (Instr.barwait 1 0 1 8).wf = false ∧
    (Instr.bararw 1 2 2 0).wf = false ∧
    (Instr.bartest 1 2 3 1).wf = false ∧
    (Instr.csrr 1 0x7).wf = false ∧
    (Instr.csrw 1 0x0).wf = false ∧
    (Instr.csrs 1 0x51).wf = false ∧
    (Instr.csrc 1 0xFFF).wf = false := by decide

/-- A word that breaks a static rule decodes to no instruction: FCVT with rounding code 7. -/
theorem test_ill_formed_words : (encode (.fcvt 11 49 7 1 2 1)) = some (.c32 0x147E25A1) ∧ (Code.c32 0x147E25A1).decode = none := by decide +kernel

/-! ### Single steps and the spec's own worked examples -/

/-- Example 1 of the exact accumulation: 0.5 + 2^24 + 1 − 2^24 = 1.5, in each order (R45). -/
theorem test_exact_accumulation : (let p := Fp.decode Fp.bf16 0x4580
     let n := Fp.decode Fp.bf16 0xC580
     let u := Fp.decode Fp.bf16 0x3F80
     dotFloat false 0x3F000000 [(p, p), (u, u), (n, p)] = (0x3FC00000, false, false) ∧ dotFloat false 0x3F000000 [(n, p), (u, u), (p, p)] = (0x3FC00000, false, false)) := by decide +kernel

/-- The block sum of four ranks: 1024 (R50); that of three participants: −1 × 2^3 (R359). -/
theorem test_block_sums : [(3, 2), (-5, 0), (7, 1)].foldl (fun a x => a.bind fun a => combine a x) (some (1000, 0)) = some (256, 2) ∧
    [(5, 1), (-3, 3)].foldl (fun a x => a.bind fun a => combine a x) (some (6, 0)) = some (-1, 3) := by decide

/-- VRED.F32 of 2^24, 1, 1 and −2^24 gives 1.0, with NX raised (R277). -/
theorem test_vred_tree : nx (exec (.vred 1 2 2 1) (one { th with v := [(2, BitVec.ofNat 512 (0x4B800000 + 0x3F800000 * 2 ^ 32 + 0x3F800000 * 2 ^ 64 + 0xCB800000 * 2 ^ 96))] })) fun t =>
      ((thr t).getV 1).toNat % 2 ^ 32 == 0x3F800000 := by decide +kernel

/-- Pointers: PADDI, PGTAG and the TAG of PIDX on an ECF8 pointer (R111, R112). -/
theorem test_pointers : let s := one { th with g := [(5, 0x5140000000400000), (9, 1)] }
    nx (exec (.paddi 6 5 24) s) (fun t => rg t 6 == 0x5140000000400018) ∧ nx (exec (.pgtag 7 5) s) (fun t => rg t 7 == 0x154) ∧
    nx (exec (.pidx 8 5 9) s) (fun t => (thr t).tval == 0x5140000000400000) := by decide

/-- A sum that wraps; a product's high half; the quotients by zero and of the most negative number; g0 stays zero (R74, R77, R10). -/
theorem test_arithmetic : let s := one { th with g := [(1, -1), (2, 1), (3, 0x8000000000000000)] }
    nx (exec (.add 4 1 2) s) (fun t => rg t 4 == 0) ∧ nx (exec (.mulhm 4 1 1) s) (fun t => rg t 4 == -1) ∧
    nx (exec (.div 4 2 0) s) (fun t => rg t 4 == -1) ∧ nx (exec (.div 4 3 1) s) (fun t => rg t 4 == 0x8000000000000000) ∧
    nx (exec (.rem 4 3 1) s) (fun t => rg t 4 == 0) ∧ nx (exec (.add 0 2 2) s) (fun t => rg t 0 == 0 && (thr t).pc == 0x1004) := by decide

/-- The rank below a rank (R101), and XCHG of a tile: chunk i of the result is chunk i of each rank's value (R283). -/
theorem test_ranks_and_exchange : rankBelow 16 = 0 ∧ rankBelow 5 = 53 ∧
    (let row (n : Nat) (v : Vec) : XArrival := { part := n, core := n, slot := 0, uid := n, val := v, dest := 2 }
     exchanged [row 0 (BitVec.ofNat 512 0xA0), row 1 (BitVec.ofNat 512 0xB0), row 2 (BitVec.ofNat 512 0xC0), row 3 (BitVec.ofNat 512 0xD0)] 0 =
       BitVec.ofNat 512 (0xA0 + 0xB0 * 2 ^ 128 + 0xC0 * 2 ^ 256 + 0xD0 * 2 ^ 384)) := by decide

/-- A user thread's TLBINV raises PRIV through the trap's entry: the cause, the PC saved, supervisor mode, TSTAT.in, the PC at TVEC (R152). -/
theorem test_trap_entry : nx (exec .tlbinv (oneCore th fun c => { c with tvec := 0x9000 })) fun t =>
      (thr t).tepc == 0x1000 && (thr t).pc == 0x9000 && (thr t).sup && (thr t).tin := by decide

/-- A step fetches, decodes and runs the instruction at the PC: a NOP goes on after its own 4 bytes, one clk later (R51, R65). -/
theorem test_step : nx (step (stepping 0x00000079 th)) fun t => (thr t).pc == 0x8000000000000044 && t.cycle == 1 := by decide +kernel

end Sys2Proof.Tests
end

section
/-! Rules for an instruction whose whole effect is on the current thread, and the statement about g0 (R10). -/

namespace Sys2Proof.Machine

/-! ### The frame of a change of the current thread -/

theorem thrAt_updThr_ne (s : State) (f : Thread → Thread) {c sl : Nat} (h : c ≠ s.core ∨ sl ≠ s.slot) :
    thrAt (updThr s f) c sl = thrAt s c sl := by
  by_cases hc : c = s.core
  · subst hc
    exact thrAt_updThrAt_slot s f s.core (h.resolve_left (· rfl))
  · exact thrAt_updThrAt_core s f s.slot sl hc

@[simp] theorem homeByte_updThr (s : State) (f : Thread → Thread) (k : Nat) : homeByte (updThr s f) k = homeByte s k := by
  simp [homeByte, lineClear, subAt]

theorem coreAt_updThr_rest (s : State) (f : Thread → Thread) (c : Nat) :
    { coreAt (updThr s f) c with threads := (coreAt s c).threads } = coreAt s c := by
  by_cases hc : c = s.core
  · subst hc
    simp [updThr, updThrAt]
  · simp only [updThr, updThrAt, coreAt_updCore_ne _ _ hc]

/-- A change of the current thread leaves the rest of the state as it was. -/
theorem sameRest_updThr (s : State) (f : Thread → Thread) : SameRest s (updThr s f) :=
  ⟨homeByte_updThr s f, fun _ _ h => thrAt_updThr_ne s f h, coreAt_updThr_rest s f, rfl⟩

/-! ### A register written and the thread going on -/

@[simp] theorem thr_wg (s : State) (n : BitVec 6) (x : Word) : thr (wg s n x) = (thr s).setG n.toNat x :=
  thr_updThr ..

/-- A write to g0 is discarded (R10). -/
theorem thr_wg_zero (s : State) (x : Word) : thr (wg s 0 x) = thr s :=
  (thr_wg s 0 x).trans (Thread.setG_zero _ x)

@[simp] theorem thr_nextPc (s : State) (n : Nat) :
    thr (nextPc s n) =
      { thr s with pc := pcPlus (thr s).pc (BitVec.ofNat 64 n), st := (thr s).st.goOn, wait := none } :=
  thr_updThr ..

/-- A register write, and the thread going on after it, leave the rest of the state as it was. -/
theorem sameRest_nextPc_wg (s : State) (d : BitVec 6) (x : Word) (n : Nat) : SameRest s (nextPc (wg s d x) n) := by
  simp only [nextPc, goTo, wg, updThr_updThr]
  exact sameRest_updThr ..

/-! ### Operations of two registers -/

/-- An operation of two registers that issues writes g[rd] and goes on after its own bytes (R72). -/
theorem alu_gives {i : Instr} {d a b : BitVec 6} {s : State} (f : Word → Word → Word) (h : Issues s [G d, G a, G b] [])
    (hw : i.wf = true) (hc : controlLacks i = false) (hv : ordersMemory i = false) :
    alu i d a b f s = gives s d (f (rg s a) (rg s b)) i.size := by
  rw [alu, instr_plain h hw hc hv, finish_ok]
  rfl

theorem exec_add_gives {d a b : BitVec 6} {s : State} (h : Issues s [G d, G a, G b] []) :
    exec (.add d a b) s = gives s d (rg s a + rg s b) 4 :=
  alu_gives (· + ·) h rfl rfl rfl

/-- Settles O1: g0 reads zero and takes no write by the accessors' own rules; an ADD to g0 is a write to g0, whose rest is
the frame of a change of the current thread, followed by the step to the next instruction. -/
theorem registerZeroReadsZeroAndDiscardsWrites : Obligations.RegisterZeroReadsZeroAndDiscardsWrites := by
  refine ⟨rg_zero, thr_wg_zero, fun s a b h => ?_⟩
  refine ⟨nextPc (wg s 0 (rg s a + rg s b)) 4, exec_add_gives h, sameRest_nextPc_wg .., ?_⟩
  rw [thr_nextPc, thr_wg_zero]
  rfl

end Sys2Proof.Machine
end

section
/-! Rules for the integer instructions of two registers, of a register and an immediate, and of an upper immediate, and the
statement about their results (R74 to R76, R80). -/

namespace Sys2Proof.Machine

/-! ### An instruction that writes one register -/

/-- An instruction of every core whose pseudocode is one register write gives that write. -/
theorem instr_gives {i : Instr} {fs : List RegField} {d : BitVec 6} {s : State} {v : State → Word} {x : Word}
    (h : Issues s fs []) (hx : v s = x) (hw : i.wf = true := by rfl) (hc : controlLacks i = false := by rfl)
    (hv : ordersMemory i = false := by rfl) :
    instr i {} fs [] s (fun s => .ok none (wg s d (v s))) = gives s d x i.size := by
  rw [instr_plain h hw hc hv, finish_ok, ← hx]
  rfl

/-- An operation of two registers gives the value that `f` takes at them. -/
theorem alu_gives_of_eq {i : Instr} {d a b : BitVec 6} {s : State} {f : Word → Word → Word} {x : Word}
    (h : Issues s [G d, G a, G b] []) (hx : f (rg s a) (rg s b) = x) (hw : i.wf = true := by rfl)
    (hc : controlLacks i = false := by rfl) (hv : ordersMemory i = false := by rfl) : alu i d a b f s = gives s d x i.size :=
  hx ▸ alu_gives f h hw hc hv

/-- An operation of a register and a value from the word gives the value that `f` takes at the register. -/
theorem aluImm_gives_of_eq {i : Instr} {d a : BitVec 6} {s : State} {f : Word → Word} {x : Word}
    (h : Issues s [G d, G a] []) (hx : f (rg s a) = x) (hw : i.wf = true := by rfl)
    (hc : controlLacks i = false := by rfl) (hv : ordersMemory i = false := by rfl) : aluImm i d a f s = gives s d x i.size :=
  instr_gives h hx hw hc hv

/-! ### Fewer register fields -/

theorem regBound_eq_none_iff {t : Thread} {fs : List RegField} : regBound t fs = none ↔ ∀ f ∈ fs, f.bound t = none := by
  induction fs with
  | nil => simp [regBound]
  | cons f fs ih => cases hf : f.bound t <;> simp [regBound, hf, ih]

/-- Where no dispatched vector instruction will write one of some fields, none will write one of fewer (R157). -/
theorem hazard_eq_false_of_subset {t : Thread} {fs gs : List RegField} (hs : gs ⊆ fs) (h : hazard t fs = false) :
    hazard t gs = false := by
  rw [hazard, List.any_eq_false] at h ⊢
  intro e he
  have hfs := h e he
  cases hn : vectorWritesG e.instr with
  | none => simp
  | some n =>
    simp only [hn, Bool.and_eq_true, List.contains_iff_mem, not_and] at hfs ⊢
    exact fun h0 hmem => hfs h0 (hs hmem)

/-- An instruction that names fewer fields issues where one that names more does. -/
theorem Issues.subset {s : State} {fs gs more : List RegField} (h : Issues s fs more) (hs : gs ⊆ fs) : Issues s gs more := by
  obtain ⟨hcan, hout, hbound, hhaz⟩ := h
  refine ⟨hcan, hout, ?_, hazard_eq_false_of_subset (List.append_subset.2 ⟨?_, ?_⟩) hhaz⟩
  · exact regBound_eq_none_iff.2 fun f hf => regBound_eq_none_iff.1 hbound f (hs hf)
  · exact fun f hf => List.mem_append_left _ (hs hf)
  · exact List.subset_append_right ..

/-! ### The model's words in arithmetic -/

theorem field_zero_eq_mod {w : Nat} (x : BitVec w) (n : Nat) : field x 0 n = x.toNat % 2 ^ n := by
  simp [field, BitVec.extractLsb'_toNat]

theorem shift6_eq_mod (b : Word) : shift6 b = b.toNat % 64 := field_zero_eq_mod b 6

theorem shift5_eq_mod (b : Word) : shift5 b = b.toNat % 32 := field_zero_eq_mod b 5

/-- Copies of the sign entering: the quotient by the power of two, rounded down. -/
theorem sshiftRight_eq_ofInt_div {w : Nat} (x : BitVec w) (n : Nat) : x.sshiftRight n = BitVec.ofInt w (x.toInt / 2 ^ n) := by
  rw [BitVec.sshiftRight, Int.shiftRight_eq_div_pow, Nat.cast_pow, Nat.cast_ofNat]

theorem sx_sshiftRight_eq_ofInt_div (x : BitVec 32) (n : Nat) : sx (x.sshiftRight n) = BitVec.ofInt 64 (x.toInt / 2 ^ n) := by
  rw [sx, BitVec.signExtend, BitVec.toInt_sshiftRight, Int.shiftRight_eq_div_pow, Nat.cast_pow, Nat.cast_ofNat]

/-- Bit `i` of a rotated word is bit `(i + n) mod 64` (R74). -/
theorem getLsbD_rotWord (x : Word) {n i : Nat} (hn : n < 64) (hi : i < 64) :
    (rotWord x n).getLsbD i = x.getLsbD ((i + n) % 64) := by
  rw [rotWord, BitVec.getLsbD_rotateRight_of_lt hn]
  by_cases h : i < 64 - n
  · simp [h, Nat.add_comm n i, Nat.mod_eq_of_lt (by omega : i + n < 64)]
  · have hwrap : (i + n) % 64 = i - (64 - n) := by omega
    simp [h, hi, hwrap]

theorem getLsbD_rotWord_shift6 (x y : Word) {i : Nat} (hi : i < 64) :
    (rotWord x (shift6 y)).getLsbD i = x.getLsbD ((i + y.toNat % 64) % 64) := by
  rw [shift6_eq_mod, getLsbD_rotWord x (Nat.mod_lt _ (by decide)) hi]

theorem bit_slt (x y : Word) : bit (x.slt y) = if x.toInt < y.toInt then 1 else 0 := by
  simp [bit, BitVec.slt_eq_decide]

theorem bit_ult (x y : Word) : bit (x.ult y) = if x.toNat < y.toNat then 1 else 0 := by
  simp [bit, BitVec.ult_eq_decide]

theorem bit_slt_sx (x : Word) (i : BitVec 13) : bit (x.slt (sx i)) = if x.toInt < i.toInt then 1 else 0 := by
  rw [bit_slt, BitVec.toInt_signExtend_of_le (by decide)]

theorem ite_slt_eq_ofInt_min (x y : Word) : (if x.slt y then x else y) = BitVec.ofInt 64 (min x.toInt y.toInt) := by
  simp only [BitVec.slt_eq_decide, decide_eq_true_eq, min_def_lt, apply_ite (BitVec.ofInt 64), BitVec.ofInt_toInt]

theorem ite_slt_eq_ofInt_max (x y : Word) : (if x.slt y then y else x) = BitVec.ofInt 64 (max x.toInt y.toInt) := by
  simp only [BitVec.slt_eq_decide, decide_eq_true_eq, max_def_lt, apply_ite (BitVec.ofInt 64), BitVec.ofInt_toInt]

theorem ite_ult_eq_ofNat_min (x y : Word) : (if x.ult y then x else y) = BitVec.ofNat 64 (min x.toNat y.toNat) := by
  simp only [BitVec.ult_eq_decide, decide_eq_true_eq, min_def_lt, apply_ite (BitVec.ofNat 64), BitVec.ofNat_toNat,
    BitVec.setWidth_eq]

theorem ite_ult_eq_ofNat_max (x y : Word) : (if x.ult y then y else x) = BitVec.ofNat 64 (max x.toNat y.toNat) := by
  simp only [BitVec.ult_eq_decide, decide_eq_true_eq, max_def_lt, apply_ite (BitVec.ofNat 64), BitVec.ofNat_toNat,
    BitVec.setWidth_eq]

/-- Saturation is the clamp to the two ends of the signed range (R74). -/
theorem satWord_eq_clamp (z : Int) : satWord z = BitVec.ofInt 64 (max (-(2 ^ 63)) (min (2 ^ 63 - 1) z)) := by
  unfold satWord
  split
  case isTrue hlow => rw [max_eq_left (by omega)]
  case isFalse hlow =>
    split
    case isTrue hhigh => rw [min_eq_left hhigh.le, max_eq_right (by omega)]
    case isFalse hhigh => rw [min_eq_right (by omega), max_eq_right (by omega)]

theorem upper_eq_ofInt (i : BitVec 19) : upper i = BitVec.ofInt 64 (i.toInt * 2 ^ 13) := by
  rw [upper, BitVec.shiftLeft_eq_mul_twoPow, BitVec.ofInt_mul]
  rfl

/-! ### The statement -/

/-- Settles O2: each instruction is one of the two forms or writes an upper immediate, and its value is the rules' by the
lemma named beside it, or as it stands. -/
theorem integerResults : Obligations.IntegerResults := by
  refine ⟨fun s d a b h => ?registers, fun s d a h => ⟨fun i => ?immediate, fun n => ?shifts, fun i => ?upper⟩⟩
  case registers =>
    have hshift := shift6_eq_mod (rg s b)
    have hshiftW := shift5_eq_mod (rg s b)
    exact ⟨exec_add_gives h,
      (exec_sub ..).trans (alu_gives_of_eq h rfl),
      (exec_and ..).trans (alu_gives_of_eq h rfl),
      (exec_or ..).trans (alu_gives_of_eq h rfl),
      (exec_xor ..).trans (alu_gives_of_eq h rfl),
      (exec_andn ..).trans (alu_gives_of_eq h rfl),
      (exec_orn ..).trans (alu_gives_of_eq h rfl),
      (exec_xnor ..).trans (alu_gives_of_eq h rfl),
      (exec_sll ..).trans (alu_gives_of_eq h (by rw [hshift])),
      (exec_srl ..).trans (alu_gives_of_eq h (by rw [hshift])),
      (exec_sra ..).trans (alu_gives_of_eq h (by rw [hshift, sshiftRight_eq_ofInt_div])),
      ⟨_, (exec_rot ..).trans (alu_gives_of_eq h rfl), fun _ hi => getLsbD_rotWord_shift6 _ _ hi⟩,
      (exec_slt ..).trans (alu_gives_of_eq h (bit_slt ..)),
      (exec_sltu ..).trans (alu_gives_of_eq h (bit_ult ..)),
      (exec_min ..).trans (alu_gives_of_eq h (ite_slt_eq_ofInt_min ..)),
      (exec_max ..).trans (alu_gives_of_eq h (ite_slt_eq_ofInt_max ..)),
      (exec_minu ..).trans (alu_gives_of_eq h (ite_ult_eq_ofNat_min ..)),
      (exec_maxu ..).trans (alu_gives_of_eq h (ite_ult_eq_ofNat_max ..)),
      (exec_addw ..).trans (alu_gives_of_eq h rfl),
      (exec_subw ..).trans (alu_gives_of_eq h rfl),
      (exec_adds ..).trans (alu_gives_of_eq h (satWord_eq_clamp _)),
      (exec_subs ..).trans (alu_gives_of_eq h (satWord_eq_clamp _)),
      (exec_sllw ..).trans (alu_gives_of_eq h (by rw [hshiftW]; rfl)),
      (exec_srlw ..).trans (alu_gives_of_eq h (by rw [hshiftW]; rfl)),
      (exec_sraw ..).trans (alu_gives_of_eq h (by rw [hshiftW, sx_sshiftRight_eq_ofInt_div]; rfl))⟩
  case immediate =>
    exact ⟨(exec_addi ..).trans (aluImm_gives_of_eq h rfl),
      (exec_andi ..).trans (aluImm_gives_of_eq h rfl),
      (exec_ori ..).trans (aluImm_gives_of_eq h rfl),
      (exec_xori ..).trans (aluImm_gives_of_eq h rfl),
      (exec_slti ..).trans (aluImm_gives_of_eq h (bit_slt_sx ..)),
      (exec_sltiu ..).trans (aluImm_gives_of_eq h (bit_ult ..))⟩
  case shifts =>
    exact ⟨(exec_slli ..).trans (aluImm_gives_of_eq h rfl),
      (exec_srli ..).trans (aluImm_gives_of_eq h rfl),
      (exec_srai ..).trans (aluImm_gives_of_eq h (sshiftRight_eq_ofInt_div ..)),
      ⟨_, (exec_roti ..).trans (aluImm_gives_of_eq h rfl), fun _ hi => getLsbD_rotWord _ n.isLt hi⟩⟩
  case upper =>
    have hd : Issues s [G d] [] := h.subset (by simp)
    exact ⟨(exec_lui ..).trans (instr_gives hd (upper_eq_ofInt i)),
      (exec_addpc ..).trans (instr_gives hd (by rw [upper_eq_ofInt]))⟩

end Sys2Proof.Machine
end

section
/-! Rules for multiplication, division, bit counts, byte order, selection and bit fields, and the statement about their results
(R77 to R79). -/

namespace Sys2Proof.Machine

/-! ### Products and quotients (R77) -/

theorem highWord_natCast (n : Nat) : highWord n = BitVec.ofNat 64 (n / 2 ^ 64) := by
  rw [← BitVec.ofInt_natCast, highWord]
  norm_cast

theorem toInt_eq_zero_iff {w : Nat} (y : BitVec w) : y.toInt = 0 ↔ y = 0#w := by
  rw [← BitVec.toInt_zero, BitVec.toInt_inj]

/-- The least signed number and its negation have one pattern. -/
theorem ofInt_neg_two_pow (w : Nat) : BitVec.ofInt w (-(2 ^ (w - 1))) = BitVec.ofInt w (2 ^ (w - 1)) := by
  cases w with
  | zero => exact Subsingleton.elim _ _
  | succ n =>
    apply BitVec.eq_of_toInt_eq
    have hdiff : (-(2 ^ n) - 2 ^ n : Int) = ((2 ^ (n + 1) : Nat) : Int) * (-1) := by push_cast; ring
    rw [BitVec.toInt_ofInt, BitVec.toInt_ofInt, Nat.add_sub_cancel, Int.bmod_eq_bmod_iff_bmod_sub_eq_zero, hdiff,
      Int.bmod_eq_zero_of_dvd (Int.dvd_mul_right ..)]

/-- The one overflow of a quotient needs no case of its own: what the truncated quotient is has the pattern of the dividend. -/
theorem ofInt_divSigned (w : Nat) (x y : Int) :
    BitVec.ofInt w (divSigned w x y) = BitVec.ofInt w (if y = 0 then -1 else Int.tdiv x y) := by
  unfold divSigned
  split
  case isTrue hzero => rfl
  case isFalse hzero =>
    split
    case isTrue hover =>
      obtain ⟨rfl, rfl⟩ := hover
      rw [ofInt_neg_two_pow]
      simp
    case isFalse hover => rfl

/-- The remainder is that of the truncated quotient, the one overflow included. -/
theorem remSigned_eq (w : Nat) (x y : Int) : remSigned w x y = if y = 0 then x else Int.tmod x y := by
  unfold remSigned
  split
  case isTrue hzero => rfl
  case isFalse hzero =>
    split
    case isTrue hover =>
      obtain ⟨rfl, rfl⟩ := hover
      simp
    case isFalse hover => exact (Int.tmod_def x y).symm

theorem sx_ofInt (z : Int) : sx (BitVec.ofInt 32 z) = sx32 (BitVec.ofInt 64 z) := by
  have hlow : BitVec.setWidth 32 (BitVec.ofInt 64 z) = BitVec.ofInt 32 z := by
    apply BitVec.eq_of_toNat_eq
    simp only [BitVec.toNat_setWidth, BitVec.toNat_ofInt]
    omega
  rw [sx32, hlow]

theorem sx_low32_mul (x y : Word) : sx (low32 x * low32 y) = sx32 (x * y) := by
  rw [sx32, BitVec.setWidth_mul _ _ (by decide)]
  rfl

theorem ofInt_div_word (x y : Word) :
    BitVec.ofInt 64 (divSigned 64 x.toInt y.toInt) = BitVec.ofInt 64 (if y = 0 then -1 else Int.tdiv x.toInt y.toInt) := by
  simp only [ofInt_divSigned, toInt_eq_zero_iff]
  rfl

theorem ofInt_rem_word (x y : Word) :
    BitVec.ofInt 64 (remSigned 64 x.toInt y.toInt) = if y = 0 then x else BitVec.ofInt 64 (Int.tmod x.toInt y.toInt) := by
  simp only [remSigned_eq, toInt_eq_zero_iff, apply_ite (BitVec.ofInt 64), BitVec.ofInt_toInt]
  rfl

theorem sx_div_low32 (x y : Int) : sx (BitVec.ofInt 32 (divSigned 32 x y)) =
    if y = 0 then BitVec.allOnes 64 else sx32 (BitVec.ofInt 64 (Int.tdiv x y)) := by
  rw [ofInt_divSigned, sx_ofInt]
  split
  case isTrue hzero => decide
  case isFalse hzero => rfl

theorem sx_rem_low32 (x : Word) (y : Int) : sx (BitVec.ofInt 32 (remSigned 32 (low32 x).toInt y)) =
    if y = 0 then sx32 x else sx32 (BitVec.ofInt 64 (Int.tmod (low32 x).toInt y)) := by
  rw [remSigned_eq]
  split
  case isTrue hzero => rw [BitVec.ofInt_toInt]; rfl
  case isFalse hzero => exact sx_ofInt _

/-! ### Bit counts (R78) -/

/-- The zeros counted end at the highest 1: the word lies between two powers of two. -/
theorem countLead_spec (x : Word) : ∃ n : Nat, countLead x = BitVec.ofNat 64 n ∧ n ≤ 64 ∧ x.toNat < 2 ^ (64 - n) ∧
    (x ≠ 0 → n < 64 ∧ 2 ^ (63 - n) ≤ x.toNat) ∧ (x = 0 → n = 64) := by
  by_cases hzero : x = 0
  · exact ⟨64, by simp [countLead, hzero], by simp [hzero]⟩
  · have hne : x.toNat ≠ 0 := fun h => hzero (BitVec.eq_of_toNat_eq h)
    have hlog : Nat.log2 x.toNat < 64 := (Nat.log2_lt hne).2 x.isLt
    have hup : 64 - (63 - Nat.log2 x.toNat) = Nat.log2 x.toNat + 1 := by omega
    have hlow : 63 - (63 - Nat.log2 x.toNat) = Nat.log2 x.toNat := by omega
    refine ⟨63 - Nat.log2 x.toNat, by rw [countLead, if_neg hzero], by omega, ?_, fun _ => ⟨by omega, ?_⟩,
      fun h => absurd h hzero⟩
    · rw [hup]
      exact Nat.lt_log2_self
    · rw [hlow]
      exact Nat.log2_self_le hne

/-- The count ends at a 1, unless the low `n` bits hold none; the bits counted are 0. -/
theorem trailFrom_spec (x n : Nat) : (∀ i < trailFrom x n, x.testBit i = false) ∧
    (trailFrom x n < n → x.testBit (trailFrom x n) = true) ∧ trailFrom x n ≤ n := by
  induction n generalizing x with
  | zero => simp [trailFrom]
  | succ n ih =>
    unfold trailFrom
    split
    case isTrue hodd => simp [hodd]
    case isFalse heven =>
      obtain ⟨hbelow, hend, hle⟩ := ih (x / 2)
      rw [Nat.add_comm 1]
      refine ⟨fun i hi => ?_, fun hlt => ?_, by omega⟩
      · cases i with
        | zero => simp [Nat.testBit_zero, heven]
        | succ i => rw [Nat.testBit_succ]; exact hbelow i (by omega)
      · rw [Nat.testBit_succ]
        exact hend (by omega)

theorem trailFrom_zero (n : Nat) : trailFrom 0 n = n := by
  induction n with
  | zero => rfl
  | succ n ih => simp [trailFrom, ih, Nat.add_comm]

/-- The zeros counted end at the lowest 1; only a word of 64 zeros has none. -/
theorem countTrail_spec (x : Word) : ∃ n : Nat, countTrail x = BitVec.ofNat 64 n ∧ (∀ i < n, x.getLsbD i = false) ∧
    (x ≠ 0 → x.getLsbD n = true) ∧ (x = 0 → n = 64) := by
  obtain ⟨hbelow, hend, hle⟩ := trailFrom_spec x.toNat 64
  refine ⟨trailFrom x.toNat 64, rfl, hbelow, fun hx => hend (lt_of_le_of_ne hle fun h => hx ?_), ?_⟩
  · refine BitVec.eq_of_getLsbD_eq fun i hi => ?_
    rw [BitVec.getLsbD, hbelow i (by rw [h]; exact hi)]
    simp
  · rintro rfl
    exact trailFrom_zero 64

/-- The 1 bits counted one after another are those of the list of bit numbers. -/
theorem onesFrom_eq_length_filter (x n : Nat) : onesFrom x n = ((List.range n).filter fun i => x.testBit i).length := by
  induction n generalizing x with
  | zero => rfl
  | succ n ih =>
    rw [onesFrom, ih, List.range_succ_eq_map, List.filter_cons, List.filter_map, Nat.testBit_zero]
    have hshift : (fun i => x.testBit i) ∘ Nat.succ = fun i => (x / 2).testBit i := funext fun i => Nat.testBit_succ x i
    rw [hshift]
    rcases Nat.mod_two_eq_zero_or_one x with h | h <;> simp [h, Nat.add_comm]

theorem popCount_eq (x : Word) :
    popCount x = BitVec.ofNat 64 ((List.range 64).filter fun i => x.getLsbD i).length := by
  rw [popCount, onesFrom_eq_length_filter]
  rfl

/-! ### The order of bytes (R78) -/

theorem leBytes_length (n v : Nat) : (leBytes n v).length = n := by
  induction n generalizing v with
  | zero => rfl
  | succ n ih => simp [leBytes, ih]

theorem leBytes_getElem {n i : Nat} (v : Nat) (hi : i < n) :
    (leBytes n v)[i]'(by rw [leBytes_length]; exact hi) = BitVec.ofNat 8 (v >>> (8 * i)) := by
  induction n generalizing v i with
  | zero => omega
  | succ n ih =>
    cases i with
    | zero => rfl
    | succ i =>
      have hbyte : v / 256 = v >>> 8 := (Nat.shiftRight_eq_div_pow v 8).symm
      simp only [leBytes, List.getElem_cons_succ]
      rw [ih (v / 256) (by omega), hbyte, ← Nat.shiftRight_add, Nat.mul_succ, Nat.add_comm 8]

theorem ofNat_ofLeBytes_shiftRight (bs : List Byte) {i : Nat} (hi : i < bs.length) :
    BitVec.ofNat 8 (ofLeBytes bs >>> (8 * i)) = bs[i] := by
  induction bs generalizing i with
  | nil => simp at hi
  | cons b bs ih =>
    cases i with
    | zero =>
      apply BitVec.eq_of_toNat_eq
      simp only [ofLeBytes, Nat.mul_zero, Nat.shiftRight_zero, BitVec.toNat_ofNat, List.getElem_cons_zero]
      omega
    | succ i =>
      have hrest : ofLeBytes (b :: bs) >>> 8 = ofLeBytes bs := by
        rw [ofLeBytes, Nat.shiftRight_eq_div_pow]
        omega
      rw [Nat.mul_succ, Nat.add_comm (8 * i), Nat.shiftRight_add, hrest, List.getElem_cons_succ]
      exact ih (Nat.lt_of_succ_lt_succ hi)

/-- A byte of a number's word is that byte of the number. -/
theorem extractLsb'_ofNat_byte (v : Nat) {i : Nat} (hi : i < 8) :
    (BitVec.ofNat 64 v).extractLsb' (8 * i) 8 = BitVec.ofNat 8 (v >>> (8 * i)) := by
  apply BitVec.eq_of_getLsbD_eq
  intro j hj
  have hin : 8 * i + j < 64 := by omega
  simp only [BitVec.getLsbD_extractLsb', BitVec.getLsbD_ofNat, hj, hin, decide_true, Bool.true_and, Nat.testBit_shiftRight]

theorem swapBytes_byte (x : Word) {i : Nat} (hi : i < 8) :
    (swapBytes x).extractLsb' (8 * i) 8 = x.extractLsb' (8 * (7 - i)) 8 := by
  have hlen := leBytes_length 8 x.toNat
  rw [swapBytes, extractLsb'_ofNat_byte _ hi, ofNat_ofLeBytes_shiftRight _ (by simpa [hlen] using hi), List.getElem_reverse]
  simp only [hlen]
  exact leBytes_getElem _ (by omega)

/-! ### Bit fields (R79) -/

theorem fieldPos_eq_mod (b : Word) : fieldPos b = b.toNat % 64 := field_zero_eq_mod b 6

theorem fieldWidth_eq_min (b : Word) : fieldWidth b = min (b.toNat / 256 % 64 + 1) (64 - b.toNat % 64) := by
  rw [fieldWidth, fieldPos_eq_mod, field, BitVec.extractLsb'_toNat, Nat.shiftRight_eq_div_pow]

theorem fieldWidth_pos (b : Word) : 0 < fieldWidth b := by
  rw [fieldWidth_eq_min]
  omega

theorem getLsbD_zx_field (x b : Word) {i : Nat} (hi : i < 64) :
    (zx (x.extractLsb' (fieldPos b) (fieldWidth b))).getLsbD i = (decide (i < fieldWidth b) && x.getLsbD (fieldPos b + i)) := by
  rw [zx, BitVec.getLsbD_setWidth, BitVec.getLsbD_extractLsb', decide_eq_true hi, Bool.true_and]

theorem getLsbD_sx_field (x b : Word) {i : Nat} (hi : i < 64) :
    (sx (x.extractLsb' (fieldPos b) (fieldWidth b))).getLsbD i =
      if i < fieldWidth b then x.getLsbD (fieldPos b + i) else x.getLsbD (fieldPos b + fieldWidth b - 1) := by
  have hpos := fieldWidth_pos b
  rw [sx, BitVec.getLsbD_signExtend, decide_eq_true hi, Bool.true_and, BitVec.msb_eq_getLsbD_last,
    BitVec.getLsbD_extractLsb', BitVec.getLsbD_extractLsb', Nat.add_sub_assoc hpos]
  simp +contextual [hpos]

theorem getLsbD_fieldMask (b : Word) {i : Nat} (hi : i < 64) :
    (fieldMask b).getLsbD i = decide (fieldPos b ≤ i ∧ i < fieldPos b + fieldWidth b) := by
  rw [fieldMask, BitVec.getLsbD_ofNat, Nat.testBit_mul_two_pow, Nat.testBit_two_pow_sub_one, decide_eq_true hi, Bool.true_and,
    ← Bool.decide_and, decide_eq_decide]
  omega

theorem getLsbD_insert (old x b : Word) {i : Nat} (hi : i < 64) :
    ((old &&& ~~~fieldMask b) ||| ((x <<< fieldPos b) &&& fieldMask b)).getLsbD i =
      if fieldPos b ≤ i ∧ i < fieldPos b + fieldWidth b then x.getLsbD (i - fieldPos b) else old.getLsbD i := by
  simp only [BitVec.getLsbD_or, BitVec.getLsbD_and, BitVec.getLsbD_not, BitVec.getLsbD_shiftLeft, getLsbD_fieldMask b hi]
  by_cases hin : fieldPos b ≤ i ∧ i < fieldPos b + fieldWidth b
  · simp [hin, hi, not_lt.2 hin.1]
  · simp [hin, hi]

/-! ### The statement -/

/-- Settles O4: the products and quotients agree as numbers, the counts and fields bit by bit; the instructions of one operand
issue where those of two do. -/
theorem multiplyDivideAndBitResults : Obligations.MultiplyDivideAndBitResults := by
  refine ⟨fun s d a b h => ?arithmetic, fun s d a b h => ?bits⟩
  case arithmetic =>
    exact ⟨(exec_mul ..).trans (alu_gives_of_eq h (BitVec.mul_def ..)),
      (exec_mulh ..).trans (alu_gives_of_eq h rfl),
      (exec_mulhu ..).trans (alu_gives_of_eq h (highWord_natCast _)),
      (exec_mulhm ..).trans (alu_gives_of_eq h rfl),
      (exec_div ..).trans (alu_gives_of_eq h (ofInt_div_word ..)),
      (exec_rem ..).trans (alu_gives_of_eq h (ofInt_rem_word ..)),
      (exec_divu ..).trans (alu_gives_of_eq h rfl),
      (exec_remu ..).trans (alu_gives_of_eq h rfl),
      (exec_mulw ..).trans (alu_gives_of_eq h (sx_low32_mul ..)),
      (exec_divw ..).trans (alu_gives_of_eq h (sx_div_low32 ..)),
      (exec_remw ..).trans (alu_gives_of_eq h (sx_rem_low32 ..))⟩
  case bits =>
    have hone : Issues s [G d, G a] [] := h.subset (by simp)
    obtain ⟨lead, hlead, hleadSpec⟩ := countLead_spec (rg s a)
    obtain ⟨trail, htrail, htrailSpec⟩ := countTrail_spec (rg s a)
    exact ⟨⟨lead, (exec_clz ..).trans (aluImm_gives_of_eq hone hlead), hleadSpec⟩,
      ⟨trail, (exec_ctz ..).trans (aluImm_gives_of_eq hone htrail), htrailSpec⟩,
      (exec_popc ..).trans (aluImm_gives_of_eq hone (popCount_eq _)),
      ⟨_, (exec_bswap ..).trans (aluImm_gives_of_eq hone rfl), fun _ hi => swapBytes_byte _ hi⟩,
      (exec_sel ..).trans (instr_gives h rfl),
      ⟨_, (exec_extu ..).trans (alu_gives_of_eq h rfl), fun _ hi => by
        rw [getLsbD_zx_field _ _ hi, fieldPos_eq_mod, fieldWidth_eq_min]⟩,
      ⟨_, (exec_ext ..).trans (alu_gives_of_eq h rfl), fun _ hi => by
        rw [getLsbD_sx_field _ _ hi, fieldPos_eq_mod, fieldWidth_eq_min]⟩,
      ⟨_, (exec_ins ..).trans (instr_gives h rfl), fun _ hi => by
        rw [getLsbD_insert _ _ _ hi, fieldPos_eq_mod, fieldWidth_eq_min]⟩⟩

end Sys2Proof.Machine
end

section
/-! Rules for the pointer instructions and the relative registers, and the statement about their results (R81, R111, R112). -/

namespace Sys2Proof.Machine

/-! ### The fields of a pointer in arithmetic (R24) -/

theorem toNat_append_eq_add {m n : Nat} (x : BitVec m) (y : BitVec n) : (x ++ y).toNat = x.toNat * 2 ^ n + y.toNat := by
  rw [BitVec.toNat_append, ← Nat.shiftLeft_add_eq_or_of_lt y.isLt, Nat.shiftLeft_eq]

theorem field_eq_div_mod {w : Nat} (x : BitVec w) (lo n : Nat) : field x lo n = x.toNat / 2 ^ lo % 2 ^ n := by
  rw [field, BitVec.extractLsb'_toNat, Nat.shiftRight_eq_div_pow]

/-- The tag of a pointer over an address within the 52 bits. -/
theorem tag_append_address (p : Word) {t : Int} (hlow : 0 ≤ t) (hhigh : t < 2 ^ 52) :
    (p.extractLsb' 52 12 ++ BitVec.ofInt 52 t : Word) = BitVec.ofNat 64 (p.toNat / 2 ^ 52 * 2 ^ 52 + t.toNat) := by
  apply BitVec.eq_of_toNat_eq
  have htag : (p.extractLsb' 52 12).toNat = p.toNat / 2 ^ 52 % 2 ^ 12 := field_eq_div_mod p 52 12
  have hp := p.isLt
  rw [toNat_append_eq_add, htag, BitVec.toNat_ofInt, BitVec.toNat_ofNat]
  omega

/-- The tag packed as PGTAG packs it, over the address of a pointer. -/
theorem packedTag_append_address (p y : Word) :
    (y.extractLsb' 0 6 ++ y.extractLsb' 6 4 ++ 0#2 ++ p.extractLsb' 0 52 : Word) =
      BitVec.ofNat 64 (y.toNat % 2 ^ 6 * 2 ^ 58 + y.toNat / 2 ^ 6 % 2 ^ 4 * 2 ^ 54 + ptrAddr p) := by
  apply BitVec.eq_of_toNat_eq
  have hfmt : (y.extractLsb' 0 6).toNat = y.toNat % 2 ^ 6 := field_zero_eq_mod y 6
  have hblen : (y.extractLsb' 6 4).toNat = y.toNat / 2 ^ 6 % 2 ^ 4 := field_eq_div_mod y 6 4
  have haddr : (p.extractLsb' 0 52).toNat = ptrAddr p := rfl
  have hlt : ptrAddr p < 2 ^ 52 := (p.extractLsb' 0 52).isLt
  simp only [toNat_append_eq_add, hfmt, hblen, haddr, BitVec.toNat_ofNat]
  omega

theorem zx_blen_append_fmt (p : Word) : zx (p.extractLsb' 54 4 ++ p.extractLsb' 58 6 : BitVec 10) =
    BitVec.ofNat 64 (ptrBlen p * 2 ^ 6 + ptrFmt p) := by
  have hpacked : (p.extractLsb' 54 4 ++ p.extractLsb' 58 6).toNat = ptrBlen p * 2 ^ 6 + ptrFmt p := toNat_append_eq_add ..
  rw [← hpacked]
  exact (BitVec.ofNat_toNat ..).symm

/-! ### Pointer moves (R111, R112) -/

/-- A pointer instruction whose checks pass runs its own pseudocode. -/
theorem ptr_issues {i : Instr} {d a b : BitVec 6} {s : State} {f : Word → Word → State → Act (Option Word)}
    (h : Issues s [G d, G a, G b] []) (hw : i.wf = true := by rfl) (hc : controlLacks i = false := by rfl)
    (hv : ordersMemory i = false := by rfl) : ptr i d a b s f = finish i (isize i) (f (rg s a) (rg s b) s) :=
  instr_plain h hw hc hv

/-- What a move of a pointer by an instruction of four bytes leaves: the address moved under the same tag, or TAG for a carry or
borrow out of the 52 bits. -/
def movedPtr (s : State) (d : BitVec 6) (p : Word) (x : Int) : Out :=
  if 0 ≤ ptrAddr p + x ∧ ptrAddr p + x < 2 ^ 52
  then gives s d (BitVec.ofNat 64 (p.toNat / 2 ^ 52 * 2 ^ 52 + (ptrAddr p + x).toNat)) 4
  else .next (takeTrap s Cause.tag none p)

theorem finish_movePtr {i : Instr} {d : BitVec 6} {p : Word} {x : Int} {s : State} (hsize : isize i = 4 := by rfl) :
    finish i (isize i) (movePtr d p x s) = movedPtr s d p x := by
  unfold movePtr movedPtr
  by_cases hin : 0 ≤ ptrAddr p + x ∧ ptrAddr p + x < 2 ^ 52
  · have hnot : ¬ (ptrAddr p + x < 0 ∨ ptrAddr p + x ≥ 2 ^ 52) := by omega
    rw [if_pos hin, if_neg hnot, finish_ok, tag_append_address p hin.1 hin.2, hsize]
    rfl
  · have hout : ptrAddr p + x < 0 ∨ ptrAddr p + x ≥ 2 ^ 52 := by omega
    rw [if_neg hin, if_pos hout, finish_trap]

section PointerOfTwoRegisters

variable {s : State} {d a b : BitVec 6} (h : Issues s [G d, G a, G b] [])
include h

theorem exec_pidx_of_bytes {w : Nat} (hpos : 0 < w) (hbits : fmtBits (ptrFmt (rg s a)) = 8 * w) :
    exec (.pidx d a b) s = movedPtr s d (rg s a) ((rg s b).toInt * w) := by
  have hbytes : fmtBits (ptrFmt (rg s a)) / 8 = w := by omega
  have hwidth : ¬ fmtBits (ptrFmt (rg s a)) = 0 := by omega
  rw [exec_pidx, execPidx, ptr_issues h, if_neg hwidth, hbytes, finish_movePtr]

theorem exec_pidx_without_width (hbits : fmtBits (ptrFmt (rg s a)) = 0) :
    exec (.pidx d a b) s = .next (takeTrap s Cause.tag none (rg s a)) := by
  rw [exec_pidx, execPidx, ptr_issues h, if_pos hbits, finish_trap]

theorem exec_pblk_of_block (hfmt : ptrFmt (rg s a) = 0x18 ∨ ptrFmt (rg s a) = 0x19) :
    exec (.pblk d a b) s = movedPtr s d (rg s a) ((rg s b).toInt * 2 ^ ptrBlen (rg s a)) := by
  rw [exec_pblk, execPblk, ptr_issues h, if_pos hfmt, finish_movePtr]

theorem exec_pblk_of_other (h18 : ptrFmt (rg s a) ≠ 0x18) (h19 : ptrFmt (rg s a) ≠ 0x19) :
    exec (.pblk d a b) s = .next (takeTrap s Cause.tag none (rg s a)) := by
  rw [exec_pblk, execPblk, ptr_issues h, if_neg (not_or.2 ⟨h18, h19⟩), finish_trap]

theorem exec_ptag_issues (q : Word)
    (hq : ((rg s b).extractLsb' 0 6 ++ (rg s b).extractLsb' 6 4 ++ 0#2 ++ (rg s a).extractLsb' 0 52 : Word) = q) :
    exec (.ptag d a b) s = if wellFormed q then gives s d q 4 else .next (takeTrap s Cause.tag none q) := by
  rw [exec_ptag, execPtag, ptr_issues h]
  simp only [hq]
  by_cases hwell : wellFormed q = true
  · rw [if_pos hwell, if_pos hwell, finish_ok]
    rfl
  · rw [if_neg hwell, if_neg hwell, finish_trap]

end PointerOfTwoRegisters

/-! ### The checks of PCHK (R111) -/

/-- Three truth values packed in the lowest three bits of a word. -/
theorem bits3_spec (c0 c1 c2 : Bool) : (bit c0 ||| (bit c1 <<< 1) ||| (bit c2 <<< 2)).toNat < 8 ∧
    (bit c0 ||| (bit c1 <<< 1) ||| (bit c2 <<< 2)).getLsbD 0 = c0 ∧
    (bit c0 ||| (bit c1 <<< 1) ||| (bit c2 <<< 2)).getLsbD 1 = c1 ∧
    (bit c0 ||| (bit c1 <<< 1) ||| (bit c2 <<< 2)).getLsbD 2 = c2 := by
  decide +revert

/-- The alignment bit of PCHK. -/
def chkAligned (p : Word) : Bool := match chkWidth (ptrFmt p) with | some w => ptrAddr p % w == 0 | none => false

theorem chkAligned_of_width {p : Word} {w : Nat} (hw : chkWidth (ptrFmt p) = some w) :
    chkAligned p = decide (ptrAddr p % w = 0) := by
  rw [chkAligned, hw]
  rfl

theorem chkWidth_of_bytes {f w : Nat} (hpos : 0 < w) (hbits : fmtBits f = 8 * w) : chkWidth f = some w := by
  have hecf8 : f ≠ 0x14 := by
    rintro rfl
    simp only [fmtBits] at hbits
    omega
  rw [chkWidth, if_neg hecf8, if_neg (by omega), hbits, Nat.mul_div_cancel_left w (by decide)]

theorem chkAligned_without_width {p : Word} (hbits : fmtBits (ptrFmt p) = 0) (hecf8 : ptrFmt p ≠ 0x14) :
    chkAligned p = false := by
  rw [chkAligned, chkWidth, if_neg hecf8, if_pos hbits]

theorem exec_pchk_gives {s : State} {d a b : BitVec 6} (h : Issues s [G d, G a, G b] []) :
    exec (.pchk d a b) s = gives s d (bit (wellFormed (rg s a)) ||| (bit (ptrFmt (rg s a) == field (rg s b) 0 6) <<< 1) |||
      (bit (chkAligned (rg s a)) <<< 2)) 4 :=
  (exec_pchk ..).trans (alu_gives_of_eq h rfl)

/-! ### Relative registers (R81) -/

/-- Two functions that take the current thread to the same value change it alike. -/
theorem updThr_congr {s : State} {f g : Thread → Thread} (hfg : f (thr s) = g (thr s)) : updThr s f = updThr s g := by
  rw [thr, thrAt] at hfg
  simp only [updThr, updThrAt, updCore, hfg]

/-- A read or write of the register `e` of the window that leaves the state `t`: REGBOUND beyond the window, and no issue while a
dispatched vector instruction has still to write it. -/
def relAccess (s t : State) (e : Nat) : Act (Option Word) :=
  if windowSize (thr s).wsz ≤ e then .trap Cause.regbound (relBound e) s
  else if hazard (thr s) [.g e] then .leave s
  else .ok none t

theorem finish_relAccess_inside {i : Instr} {n : Word} {s t : State} {e : Nat} (hin : e < windowSize (thr s).wsz)
    (hfree : hazard (thr s) [.g e] = false) : finish i n (relAccess s t e) = .next (goTo t (pcPlus (thr t).pc n)) := by
  rw [relAccess, if_neg (Nat.not_le.2 hin), hfree, if_neg Bool.false_ne_true, finish_ok]

theorem finish_relAccess_beyond {i : Instr} {n : Word} {s t : State} {e : Nat} (hout : windowSize (thr s).wsz ≤ e) :
    finish i n (relAccess s t e) = .next (takeTrap s Cause.regbound none (relBound e)) := by
  rw [relAccess, if_pos hout, finish_trap]

section RelativeRegister

variable {s : State} {d a : BitVec 6} {k : BitVec 2} (h : Issues s [G d] [])
include h

theorem exec_rget_issues : exec (.rget d a k) s = finish (.rget d a k) 4
    (relAccess s (wg s d ((thr s).getG (relIndex s a k))) (relIndex s a k)) := by
  rw [exec_rget, execRget, instr_plain h rfl rfl rfl]
  rfl

theorem exec_rput_issues : exec (.rput d a k) s = finish (.rput d a k) 4
    (relAccess s (wgn s (relIndex s a k) (rg s d)) (relIndex s a k)) := by
  rw [exec_rput, execRput, instr_plain h rfl rfl rfl]
  rfl

end RelativeRegister

/-! ### The statement -/

/-- Settles O5: the moves are one operation with a distance of their own, the packed words are equal as numbers, and the
relative registers go through one check of the window. -/
theorem pointerResults : Obligations.PointerResults := by
  refine ⟨fun s d a b h => ?pointers, fun s d a k => ?relative⟩
  case pointers =>
    have hone : Issues s [G d, G a] [] := h.subset (by simp)
    obtain ⟨hsmall, hwell, hfmt, haligned⟩ :=
      bits3_spec (wellFormed (rg s a)) (ptrFmt (rg s a) == field (rg s b) 0 6) (chkAligned (rg s a))
    have hpos : ∀ w ∈ [1, 2, 4, 8], 0 < w := by decide
    exact ⟨(exec_padd ..).trans ((ptr_issues h).trans finish_movePtr),
      (exec_psub ..).trans ((ptr_issues h).trans finish_movePtr),
      fun i => (exec_paddi ..).trans ((instr_plain hone rfl rfl rfl).trans finish_movePtr),
      fun w hw => exec_pidx_of_bytes h (hpos w hw),
      exec_pidx_without_width h,
      exec_pblk_of_block h,
      exec_pblk_of_other h,
      exec_ptag_issues h _ (packedTag_append_address ..),
      (exec_pgtag ..).trans (aluImm_gives_of_eq hone (zx_blen_append_fmt _)),
      _, exec_pchk_gives h, hsmall, hwell,
      hfmt.trans (by rw [field_zero_eq_mod]; rfl),
      fun w hw hbits => haligned.trans (chkAligned_of_width (chkWidth_of_bytes (hpos w hw) hbits)),
      fun hecf8 => haligned.trans (chkAligned_of_width (if_pos hecf8)),
      fun hbits hecf8 => haligned.trans (chkAligned_without_width hbits hecf8)⟩
  case relative =>
    refine ⟨fun h => ?get, fun h => ⟨?set, ?add⟩, fun h hin hfree => ?inside, fun h hout => ?beyond⟩
    case get => exact (exec_ixget ..).trans (instr_gives h rfl)
    case set =>
      rw [exec_ixset, execIxset, instr_plain h rfl rfl rfl, finish_ok, updThr_congr (g := fun t => t.setIx k.toNat (rg s a)) rfl]
      rfl
    case add =>
      rw [exec_ixadd, execIxadd, instr_plain h rfl rfl rfl, finish_ok,
        updThr_congr (g := fun t => t.setIx k.toNat ((thr s).getIx k.toNat + rg s a)) rfl]
      rfl
    case inside =>
      exact ⟨(exec_rget_issues h).trans (finish_relAccess_inside hin hfree),
        (exec_rput_issues h).trans (finish_relAccess_inside hin hfree)⟩
    case beyond =>
      exact ⟨(exec_rget_issues h).trans (finish_relAccess_beyond hout),
        (exec_rput_issues h).trans (finish_relAccess_beyond hout)⟩

end Sys2Proof.Machine
end
